-- ==== Sys2Proof/Word.lean ====
section
/-! DEFINITION. The word types of the manual: bytes and the fixed-width codes that software or another device can see as
bits (R8, R9). Everything the manual only counts is a `Nat`. -/
namespace Sys2Proof

/-- One byte (R9). -/
abbrev Byte := BitVec 8

/-- A 32-bit code: an FP32 value of Table 6.3, a key of R297, or a 32-bit field. -/
abbrev W32 := BitVec 32

/-- A 64-bit code: DEV_TIME, SEED, RNG_COUNTER, EPOCH, LINEAGE, TAG. -/
abbrev W64 := BitVec 64

/-- A 16-bit code: FP16 and BF16 values of Table 6.3. -/
abbrev W16 := BitVec 16

end Sys2Proof
end

