-- ==== Sys2Proof/Syntax.lean ====
section
/-! DEFINITION. The commands of the block: one constructor of `Instr` for each row of spec/opcode_table.json, with the
operands each row needs. No row gives bits, so an operand is data. What the device only reads from outside itself (host
buffers, sensor readings, what a start finds) is an operand of the row that reads it (log entries 7 and 8). -/
namespace Sys2Proof

/-- What one read of a host buffer gives the host interface (R147, R148, Table 16.1 class 0x0D). -/
inductive HostRead where
  /-- The bytes the buffer holds. -/
  | ok (bytes : List Byte)
  /-- The translation failed under R147. -/
  | fault
  /-- A line of the buffer arrived with CXL poison. -/
  | poison
  deriving DecidableEq, Repr

/-- One intake line as the host interface reads it (R138, R540): its 64 bytes as one little-endian number, or poison. -/
inductive SlotLine where
  | clean (raw : BitVec 512)
  | poison
  deriving DecidableEq, Repr

/-- An output buffer of a command: whether it translates when the command is accepted (R147), and the use of it that fails because
an ATS invalidation has removed the translation since, after so many bytes (R148). -/
inductive OutBuf where
  | ok
  | fault
  | lost (written : Nat)
  deriving DecidableEq, Repr

/-- The host buffers of one SES_ command: its input, its stop block and its output buffer (R147, R148). -/
structure HostBufs where
  input : HostRead
  stops : HostRead
  out : OutBuf
  deriving DecidableEq, Repr

/-- A unit of the device that an event can name, numbered as Tables 1.3 and 19.20 number it. -/
inductive UnitId where
  | tile (t : Nat)
  | bank (sg c : Nat)
  | slice (sg u : Nat)
  | segment (sg : Nat)
  | bridge (b : Nat)
  | stack (sg : Nat)
  | chainPort (p : Nat)
  | flashChan (f : Nat)
  | hostIf
  | governor
  | secUnit
  | cfgLoader
  | sideband
  | rail (k : Nat)
  | refClock
  /-- The PLL of a quadrant, from which its ONFI PHYs are clocked (Table 1.4, Table 16.3); Table 19.20 gives it no code (log
  entry 66). -/
  | pll (q : Nat)
  deriving DecidableEq, Repr

/-- The object that holds an uncorrectable DRAM line (Table 16.2). -/
inductive DramObj where
  | frame (r ptr : Nat)
  | line (r slot : Nat)
  | entry (r slot : Nat)
  | weight (r slot crew : Nat)
  | adapter (r slot : Nat)
  | trie (r : Nat)
  | automaton (r set : Nat)
  | vecFrame (r index frame : Nat)
  | staging (r offset : Nat)
  | extentTable (r : Nat)
  deriving DecidableEq, Repr

/-- One LUN of the attached NAND as start-up finds it (R380, Table 17.6 S10). -/
structure LunDesc where
  chan : Nat
  ce : Nat
  lun : Nat
  blocks : Nat
  pageOk : Bool
  sysOk : Bool
  badBlocks : List Nat
  deriving DecidableEq, Repr

/-- What the NAND does while a command uses it, by channel, LUN of the channel and block (R383, R384): blocks of which a page is
beyond every decoding, blocks that fail a program or an erase, and blocks of which a read needs more than three quarters of the
code's correction. -/
structure Wear where
  lost : List (Nat × Nat × Nat)
  worn : List (Nat × Nat × Nat)
  weak : List (Nat × Nat × Nat)
  deriving DecidableEq, Repr

/-- The NAND that serves every access. -/
def Wear.none : Wear := { lost := [], worn := [], weak := [] }

/-- An accepted command by its acceptance number, and what the NAND does while its row runs. -/
structure CmdWear where
  id : Nat
  wear : Wear
  deriving DecidableEq, Repr

/-- A block of a LUN, and what the NAND does while its row runs. -/
structure BlockWear where
  block : Nat
  wear : Wear
  deriving DecidableEq, Repr

/-- Whether the media served a write, and what the NAND does while its row runs. -/
structure Media where
  ok : Bool
  wear : Wear
  deriving DecidableEq, Repr

/-- A host address, and the base at which host software has committed the HDM decoder that decodes it (R51, R160). -/
structure BulkAddr where
  base : Nat
  addr : Nat
  deriving DecidableEq, Repr

/-- What one start finds outside the device's own state (R484 to R491): the 8,192 bytes of the configuration image and the
outcome of each check that start-up makes on its surroundings. Every list names the units that FAIL. -/
structure StartEnv where
  /-- The configuration image in the NOR (Tables 17.1 and 17.2), bytes 0x0000_0000 to 0x0000_1FFF. -/
  image : List Byte
  /-- The integrator has put a blank part in the place of the NOR since PWRGD was deasserted (R478, R483). -/
  norBlank : Bool
  railsOk : Bool
  refOk : Bool
  fusesOk : Bool
  /-- Measurement 1 equals the fused digest. -/
  romOk : Bool
  /-- The NOR carries a JESD216 SFDP table; its size in Mbit (R477). -/
  sfdpOk : Bool
  norMbit : Nat
  recordWriteOk : Bool
  rbgOk : Bool
  /-- Tiles whose regulator fails to reach 0.65 V. -/
  regulatorFail : List Nat
  /-- Tiles, active or spare, that fail their assay. -/
  tileFail : List Nat
  /-- Bank engines, service-slice units and cord segments that fail. -/
  unitFail : List UnitId
  bridgeFail : List Nat
  quad0Ok : Bool
  /-- Stacks whose saved settings fail verification. -/
  savedFail : List Nat
  /-- Stacks whose full training fails. -/
  trainFail : List Nat
  /-- An interface other than a stack was trained in full: an ONFI channel, the CXL PHY or a chain port (R488, R489). -/
  otherTrained : Bool
  /-- Stacks with an uncorrectable read-back. -/
  readBackFail : List Nat
  luns : List LunDesc
  flashChanFail : List Nat
  hostIfOk : Bool
  portFail : List Nat
  /-- Ring-oscillator count of each tile at 0.80 V (S06). -/
  roCounts : List Nat
  /-- The last step the start reaches before another event cuts it (R497); 14 for a start that runs to its end. -/
  runTo : Nat
  deriving DecidableEq, Repr

/-- Surroundings in which a start finds nothing: no supply, no NOR, no parts. -/
def StartEnv.none : StartEnv :=
  { image := [], norBlank := false, railsOk := false, refOk := false, fusesOk := false, romOk := false, sfdpOk := false
    norMbit := 0, recordWriteOk := false, rbgOk := false, regulatorFail := [], tileFail := [], unitFail := [], bridgeFail := []
    quad0Ok := false, savedFail := [], trainFail := [], otherTrained := false, readBackFail := [], luns := [], flashChanFail := []
    hostIfOk := false, portFail := [], roCounts := [], runTo := 14 }

/-- One detected failure (R453, R454): its class code of Table 16.1, its unit, the layer when known, the DRAM object for
class 0x04, and whether it was corrected; `env` is what a start finds when the failure ends in a whole-device reset. -/
structure Hit where
  cls : Nat
  unit : UnitId
  layer : Nat
  obj : Option DramObj
  corrected : Bool
  env : StartEnv := StartEnv.none
  deriving DecidableEq, Repr

/-- The outcome of an assay or a read-back, and the surroundings of the start that a failure can lead to. -/
structure Verdict where
  pass : Bool
  env : StartEnv
  deriving DecidableEq, Repr

/-- A tile whose supply monitor has found its regulator out of range, and the surroundings of the start that this can lead to. -/
structure TileFault where
  tile : Nat
  env : StartEnv
  deriving DecidableEq, Repr

/-- What the energy governor measures at the start of one budget interval (R436, R440, R541). -/
structure Readings where
  sharedUsed : Nat
  used : List Nat
  /-- The two readings of each tile, signed, in 1/8 degree; none for a sensor that does not report. -/
  tileTemp : List (Option Int × Option Int)
  stackTemp : List (Option Int)
  /-- Ring-oscillator count of one step of each tile. -/
  roCounts : List Nat
  /-- Supply drawn by each tile, in milligrains. -/
  tileEnergy : List Nat
  deriving DecidableEq, Repr

/-- What the device measures over one step of a crew, and what fails in it (R294, R443, R459, R460). -/
structure StepEnv where
  /-- Measured step time in ns. -/
  time : Nat
  /-- `s` of R443 measured over the step, as a fraction. -/
  sNum : Nat
  sDen : Nat
  hits : List Hit
  /-- Slots whose token was chosen, and slots whose record was visible, when the first hit was detected. -/
  chosen : List Nat
  visible : List Nat
  /-- Slots whose stream buffer did not translate (R148). -/
  streamFault : List Nat
  /-- Tiles whose role a stand-in takes or gives back at this boundary (R463). -/
  assay : List Nat
  deriving DecidableEq, Repr

/-- One chain message (Table 13.8). -/
structure ChainMsg where
  typ : Nat
  src : Nat
  dst : Nat
  srcRood : Nat
  dstRood : Nat
  seq : Nat
  ack : Nat
  hops : Nat
  epoch : W64
  op : Nat
  payload : List Byte
  crc : W32
  deriving DecidableEq, Repr

/-- What the two ends learn of each other during the link-up of a port (R385, R386). -/
structure Neighbour where
  trained : Bool
  chainOk : Bool
  challengeOk : Bool
  number : Nat
  dikDigest : List Byte
  secVersion : Nat
  /-- Devices reachable through the port. -/
  reach : List Nat
  deriving DecidableEq, Repr

/-- What the sending device of an OFFER holds beside the message: the TAG and the handle of its SES_MIGRATE or SES_PARK (R396),
and whether the session is PARKED there (R394). -/
structure Origin where
  tag : W64
  handle : W32
  parked : Bool
  deriving DecidableEq, Repr

/-- An OFFER with what its sender holds beside it. -/
structure Offered where
  msg : ChainMsg
  origin : Origin
  deriving DecidableEq, Repr

/-- A chain message, and what the NAND does while its row runs. -/
structure MsgWear where
  msg : ChainMsg
  wear : Wear
  deriving DecidableEq, Repr

/-- An SPDM endpoint (Table 2.6), or the neighbour on a chain port during its link-up (Table 13.7). -/
inductive Endpoint where
  | pf
  | vf (r : Nat)
  | side
  | port (p : Nat)
  deriving DecidableEq, Repr

/-- An instruction of the test access port (R57, Table 20.5), with what the tester shifts in. -/
inductive TapOp where
  | idcode
  | bypass (bit : Bool)
  | samplePreload (cells : List Bool)
  | extest
  | other (code : Nat)
  deriving DecidableEq, Repr

/-- The commands of the block, in the order of spec/opcode_table.json. `r` is a rood number, `c` the acceptance number of a
command that the host interface has accepted (log entry 13). -/
inductive Instr where
  | pwrgdAssert (env : StartEnv)
  | pwrgdDeassert
  | warmRstAssert
  | warmRstDeassert (env : StartEnv)
  | railFault (rail : Nat) (env : StartEnv)
  | refClockEdge
  | refClockLoss
  | refClockReturn (env : StartEnv)
  | thermtripSensorTrip (quad : Nat)
  | cxlLinkDown (env : StartEnv)
  | cxlLinkTrained (rate width : Nat)
  | budgetInterval (m : Readings)
  | intakeLineSnoop (r n slot : Nat) (line : SlotLine)
  | hostIndexLineSnoop (r n cons : Nat)
  | iringConsWrite (r n : Nat)
  | cringModTimeout (r n : Nat)
  | msixUnmask (fn vec : Nat)
  | atsInvalidation (r c : Nat) (ok : Bool)
  | bulkWindowWrite (r : Nat) (a : BulkAddr) (bytes : List Byte) (poison : Bool)
  | sesOpen (r c : Nat)
  | sesAppend (r c : Nat) (b : HostBufs)
  | sesGenerate (r c : Nat) (b : HostBufs)
  | sesResume (r c : Nat) (b : HostBufs)
  | sesFork (r c : Nat)
  | sesPark (r c : Nat)
  | sesRevive (r c : Nat)
  | sesClose (r c : Nat)
  | sesQuery (r c : Nat) (b : HostBufs)
  | sesMigrate (r : Nat) (c : CmdWear)
  | sesCancel (r c : Nat)
  | mdlLoad (r c : Nat)
  | mdlLoadTakeEffect (r : Nat)
  | mdlUnload (r c : Nat)
  | mdlUnloadTakeEffect (r : Nat)
  | tokLoad (r c : Nat)
  | lstSet (r c : Nat)
  | tokenizerTableRelease (r : Nat)
  | listSetVersionRelease (r set : Nat)
  | loadQueueAdvance (r : Nat)
  | sessionCommandDequeue (r : Nat) (c : CmdWear) (b : HostBufs)
  | vecCreate (r c : Nat)
  | vecInsert (r c : Nat)
  | vecDelete (r c : Nat)
  | vecQuery (r c : Nat) (outOk : Bool)
  | vecSweepDone (r c : Nat)
  | vecCompact (r c : Nat)
  | vecDrop (r c : Nat)
  | vecSerialAdvance (r index : Nat)
  | ckpTake (r c : Nat)
  | ckpTakeDone (r : Nat) (media : Media)
  | ckpRestore (r : Nat) (c : CmdWear)
  | ckpRestoreApply (r : Nat)
  | ckpIntervalTimer (r : Nat)
  | ckpQueueAdvance (r : Nat)
  | cntSnapshot (r c : Nat) (out : OutBuf)
  | nop (r c : Nat)
  | textConversionDone (r c : Nat) (input : HostRead)
  | revivalDone (r slot : Nat) (w : Wear)
  | bushelDurable (r slot : Nat) (media : Media)
  | stepEnd (r model crew : Nat) (e : StepEnv)
  | watchdogFire (h : Hit)
  | tileResetDone (tile : Nat) (pass : Bool)
  | sgResetDone (sg : Nat) (pass : Bool)
  | roodResetDone (r : Nat)
  | quadrantResetDone (quad : Nat)
  | structureRebuildDone (obj : DramObj)
  | assayDone (unit : UnitId) (v : Verdict)
  | idleGapAssay (unit : UnitId)
  | assayLate (unit : UnitId)
  | dramPatrolRead (sg : Nat) (corrected : List Nat) (hits : List Hit)
  | flashRelocate (chan lun : Nat) (b : BlockWear)
  | extentErase (chan lun : Nat) (b : BlockWear)
  | lunRebuildDone (chan ce lun : Nat)
  | trainingSetWrite (moved durable : Bool)
  | compose (msg : List Byte)
  | release (msg : List Byte)
  | enterRecovery (msg : List Byte)
  | recoveryDrainDone
  | exitRecovery (msg : List Byte)
  | setLayout (msg : List Byte)
  | setCap (msg : List Byte)
  | reset (msg : List Byte) (env : StartEnv)
  | assaySg (msg : List Byte) (pass : Bool)
  | sidebandQueueAdvance (assayPass : Bool)
  | sidebandUnsupported (msg : List Byte)
  | getTelemetry (msg : List Byte)
  | devSnapshot (msg : List Byte)
  | getTallies (msg : List Byte)
  | getSealed (msg : List Byte)
  | devSnapshotDone
  | getMeasurements (ep : Endpoint) (version index : Nat) (signed : Bool) (nonce : List Byte)
  | getCertificate (ep : Endpoint) (slot offset len : Nat)
  | vendorDefinedRequest (ep : Endpoint) (standard : Nat) (vendorId payload : List Byte)
  | spdmUnsupportedRequest (ep : Endpoint) (code : Nat)
  | hostCapWrite (value : Nat)
  | devSnapStart (value : W64)
  | iringCtlWrite (r n : Nat) (value : W32) (xlatOk : Bool)
  | cringCtlWrite (r n : Nat) (value : W32) (xlatOk : Bool)
  | idxBaseWrite (r : Nat) (value : W64)
  | ckpCtlWrite (r : Nat) (value : W64)
  | lineageWrite (r : Nat) (value : W64)
  | registerWrite (fn off width : Nat) (value : W64)
  | registerMisaccess (fn off width : Nat) (isWrite : Bool)
  | chainLinkRetry (port : Nat)
  | chainLinkLoss (port : Nat)
  | chainForward (m : ChainMsg)
  | chainUnknownType (m : ChainMsg)
  | hello (m : ChainMsg)
  | ack (m : ChainMsg)
  | ackSendTimer (peer : Nat)
  | chainResendTimer (peer : Nat)
  | chainEpochTimeout (peer : Nat)
  | offer (o : Offered)
  | accept (m : ChainMsg)
  | refuse (m : ChainMsg)
  | list (m : ChainMsg)
  | frame (m : ChainMsg)
  | done (m : ChainMsg)
  | abort (m : ChainMsg)
  | vecReq (m : ChainMsg)
  | vecList (m : ChainMsg)
  | vecRefuse (m : ChainMsg)
  | vecPeerTimeout (r c : Nat)
  | shardOffer (m : ChainMsg)
  | shardAccept (m : ChainMsg)
  | shardRefuse (m : ChainMsg)
  | shardData (m : ChainMsg)
  | shardDone (m : ChainMsg)
  | invReq (m : ChainMsg)
  | invList (m : ChainMsg)
  | shardGet (g : MsgWear)
  | shardHdr (m : ChainMsg)
  | shardNone (m : ChainMsg)
  | ckpPeerTimeout (r : Nat)
  | vauxValid
  | thermtripRelease (env : StartEnv)
  | chainLinkUp (port : Nat) (nb : Neighbour)
  | challenge (port : Nat) (nonce : List Byte)
  | scrubDone (sg : Nat) (v : Verdict)
  | frameZeroed (r : Nat)
  | vecMutationDone (r index : Nat) (damaged : Bool)
  | tileRegulatorFault (f : TileFault)
  | testAccessInstruction (op : TapOp)
  deriving DecidableEq, Repr

end Sys2Proof
end

