-- ==== Sys2Proof/Decode.lean ====
section
/-! DEFINITION. The reading of a table word. No row of spec/opcode_table.json gives bits: a command reaches the block as an
event, a register access, a descriptor or a message, so no word spells one. -/
namespace Sys2Proof

/-- The command that a word spells by the table's bits: none, since no row of the table gives any. -/
def decodeTableWord (_nbits _w : Nat) : Option Instr := none

end Sys2Proof
end

