-- ==== Sys2Proof/Machine/Bytes.lean ====
section
/-! DEFINITION. Bytes, byte strings and fields: every multi-byte field is little-endian (R9) unless its layout says otherwise. -/
namespace Sys2Proof.Machine
open Sys2Proof

def byteOf (n : Nat) : Byte := BitVec.ofNat 8 n

/-- The low `n` bytes of `v`, least significant first (R9). -/
def leBytes : (n v : Nat) → List Byte
  | 0, _ => []
  | n + 1, v => byteOf v :: leBytes n (v / 256)

/-- The low `n` bytes of `v`, most significant first. -/
def beBytes (n v : Nat) : List Byte := (leBytes n v).reverse

/-- The number a little-endian byte string holds. -/
def leVal (bs : List Byte) : Nat := bs.foldr (fun b a => b.toNat + 256 * a) 0

/-- The number a big-endian byte string holds. -/
def beVal (bs : List Byte) : Nat := bs.foldl (fun a b => 256 * a + b.toNat) 0

def zeros (n : Nat) : List Byte := List.replicate n 0

/-- `len` bytes from byte offset `off`; fewer where the string ends. -/
def cut (off len : Nat) (bs : List Byte) : List Byte := (bs.drop off).take len

def u8At (off : Nat) (bs : List Byte) : Nat := leVal (cut off 1 bs)
def u16At (off : Nat) (bs : List Byte) : Nat := leVal (cut off 2 bs)
def u32At (off : Nat) (bs : List Byte) : Nat := leVal (cut off 4 bs)
def u64At (off : Nat) (bs : List Byte) : Nat := leVal (cut off 8 bs)

/-- Bits [lo + w - 1 : lo] of a number (R8). -/
def bitsOf (n lo w : Nat) : Nat := (n >>> lo) % 2 ^ w

def bitAt (n i : Nat) : Bool := (n >>> i) % 2 == 1

def bit (b : Bool) : Nat := if b then 1 else 0

/-- Every byte of the string is zero (R20). -/
def allZero (bs : List Byte) : Bool := bs.all (· == 0)

/-- The number of a two's complement field of `w` bits. -/
def signedOf (w n : Nat) : Int := if n < 2 ^ (w - 1) then n else (n : Int) - 2 ^ w

/-- The two's complement field of `w` bits that holds a number. -/
def fieldOf (w : Nat) (i : Int) : Nat := (i % (2 ^ w : Nat)).toNat

/-- `bs` padded with zero bytes, or cut, to `n` bytes. -/
def padTo (n : Nat) (bs : List Byte) : List Byte := (bs ++ zeros (n - bs.length)).take n

/-- Cuts a string into pieces of `n` bytes; the last may be shorter. `fuel` bounds the number of pieces. -/
def chunksAux (n : Nat) : (fuel : Nat) → List Byte → List (List Byte)
  | 0, _ => []
  | f + 1, bs => if bs.isEmpty then [] else bs.take n :: chunksAux n f (bs.drop n)

def chunks (n : Nat) (bs : List Byte) : List (List Byte) := chunksAux n bs.length bs

/-- The ASCII bytes of a string. -/
def ascii (s : String) : List Byte := s.toList.map (fun c => byteOf c.toNat)

/-! ## Finite maps with numeric keys: lists with strictly rising keys -/

def lookKey {β : Type} (k : Nat) : List (Nat × β) → Option β
  | [] => none
  | (a, b) :: m => if a = k then some b else lookKey k m

/-- The map with `k` bound to `v`. -/
def putKey {β : Type} (k : Nat) (v : β) : List (Nat × β) → List (Nat × β)
  | [] => [(k, v)]
  | (a, b) :: m => if k < a then (k, v) :: (a, b) :: m else if a = k then (k, v) :: m else (a, b) :: putKey k v m

/-- The map without `k`. -/
def delKey {β : Type} (k : Nat) (m : List (Nat × β)) : List (Nat × β) := m.filter (fun p => p.1 != k)

/-- The list with its element `i` replaced by `f` of it. -/
def modIdx {α : Type} (i : Nat) (f : α → α) (l : List α) : List α := l.modify i f

def listAnd (a b : List Byte) : List Byte := a.zipWith (· &&& ·) b
def listXor (a b : List Byte) : List Byte := a.zipWith (· ^^^ ·) b

/-- ⌈a / b⌉. -/
def ceilDiv (a b : Nat) : Nat := (a + b - 1) / b

/-- The least `n` with `a ≤ 2 ^ n` (⌈log2 a⌉), for `a` up to 2 ^ 64. -/
def ceilLog2 (a : Nat) : Nat := ((List.range 65).find? (fun n => a ≤ 2 ^ n)).getD 65

end Sys2Proof.Machine
end

