-- ==== Sys2Proof/Machine/Crypto.lean ====
section
/-! DEFINITION. The algorithms that the manual names and does not spell out: SHA-384, HMAC and HKDF over it, AES-256-GCM,
ECDH and ECDSA over P-384, and CRC-32C. PRESUMED from the standards the manual names (FIPS 180-4, FIPS 197, SP 800-38D,
RFC 5869, FIPS 186-4, the CRC-32C polynomial): log entry 11. -/
namespace Sys2Proof.Machine
open Sys2Proof

/-! ## CRC-32C -/

/-- One bit of the reflected CRC-32C polynomial 0x82F63B78. -/
def crcBit (c : Nat) : Nat := if c % 2 = 1 then (c >>> 1) ^^^ 0x82F63B78 else c >>> 1

def crcByte (c : Nat) (b : Byte) : Nat := Nat.repeat crcBit 8 (c ^^^ b.toNat)

/-- CRC-32C of a byte string (R389, R419, Tables 3.9, 7.2, 17.2). -/
def crc32c (bs : List Byte) : W32 := BitVec.ofNat 32 ((bs.foldl crcByte 0xFFFFFFFF) ^^^ 0xFFFFFFFF)

/-! ## SHA-384 -/

def shaPrimes : List Nat :=
  [2, 3, 5, 7, 11, 13, 17, 19, 23, 29, 31, 37, 41, 43, 47, 53, 59, 61, 67, 71, 73, 79, 83, 89, 97, 101, 103, 107, 109, 113,
   127, 131, 137, 139, 149, 151, 157, 163, 167, 173] ++
  [179, 181, 191, 193, 197, 199, 211, 223, 227, 229, 233, 239, 241, 251, 257, 263, 269, 271, 277, 281, 283, 293, 307, 311,
   313, 317, 331, 337, 347, 349, 353, 359, 367, 373, 379, 383, 389, 397, 401, 409]

/-- Largest root with `root ^ e ≤ n`, one bit at a time from bit `k - 1`. -/
def rootBits (e n : Nat) : (k acc : Nat) → Nat
  | 0, acc => acc
  | k + 1, acc => if (acc + 2 ^ k) ^ e ≤ n then rootBits e n k (acc + 2 ^ k) else rootBits e n k acc

/-- The round constants of SHA-384: the first 64 fraction bits of the cube roots of the first 80 primes. -/
def shaK : List W64 := shaPrimes.map (fun p => BitVec.ofNat 64 (rootBits 3 (p * 2 ^ 192) 68 0))

/-- The initial hash value of SHA-384: fraction bits of the square roots of the 9th to 16th primes. -/
def shaInit : List W64 := ((shaPrimes.drop 8).take 8).map (fun p => BitVec.ofNat 64 (rootBits 2 (p * 2 ^ 128) 68 0))

def shaPad (bs : List Byte) : List Byte :=
  let l := bs.length
  bs ++ [0x80] ++ zeros ((239 - l % 128) % 128) ++ beBytes 16 (8 * l)

/-- Extends the last 16 schedule words, newest first, by one. -/
def shaNext (w : List W64) : W64 :=
  let g := fun i => w.getD i 0
  let s0 := let x := g 14; x.rotateRight 1 ^^^ x.rotateRight 8 ^^^ (x >>> 7)
  let s1 := let x := g 1; x.rotateRight 19 ^^^ x.rotateRight 61 ^^^ (x >>> 6)
  g 15 + s0 + g 6 + s1

/-- The schedule, newest word first, extended `n` times. -/
def shaSchedule : (n : Nat) → List W64 → List W64
  | 0, w => w
  | n + 1, w => shaSchedule n (shaNext (w.take 16) :: w)

structure Sha8 where
  a : W64
  b : W64
  c : W64
  d : W64
  e : W64
  f : W64
  g : W64
  h : W64

def shaRound (s : Sha8) (kw : W64 × W64) : Sha8 :=
  let s1 := s.e.rotateRight 14 ^^^ s.e.rotateRight 18 ^^^ s.e.rotateRight 41
  let ch := (s.e &&& s.f) ^^^ ((~~~s.e) &&& s.g)
  let t1 := s.h + s1 + ch + kw.1 + kw.2
  let s0 := s.a.rotateRight 28 ^^^ s.a.rotateRight 34 ^^^ s.a.rotateRight 39
  let mj := (s.a &&& s.b) ^^^ (s.a &&& s.c) ^^^ (s.b &&& s.c)
  { a := t1 + s0 + mj, b := s.a, c := s.b, d := s.c, e := s.d + t1, f := s.e, g := s.f, h := s.g }

def shaOf (l : List W64) : Sha8 :=
  { a := l.getD 0 0, b := l.getD 1 0, c := l.getD 2 0, d := l.getD 3 0, e := l.getD 4 0, f := l.getD 5 0, g := l.getD 6 0
    h := l.getD 7 0 }

def shaBlock (h : List W64) (block : List Byte) : List W64 :=
  let w0 := ((chunks 8 block).map (fun b => BitVec.ofNat 64 (beVal b))).reverse
  let w := (shaSchedule 64 w0).reverse
  let s := (shaK.zip w).foldl shaRound (shaOf h)
  h.zipWith (· + ·) [s.a, s.b, s.c, s.d, s.e, s.f, s.g, s.h]

/-- SHA-384 (48 bytes). -/
def sha384 (bs : List Byte) : List Byte :=
  (((chunks 128 (shaPad bs)).foldl shaBlock shaInit).take 6).flatMap (fun w => beBytes 8 w.toNat)

def hmac384 (key msg : List Byte) : List Byte :=
  let k := padTo 128 (if key.length > 128 then sha384 key else key)
  sha384 (k.map (· ^^^ 0x5C) ++ sha384 (k.map (· ^^^ 0x36) ++ msg))

/-- HKDF-SHA-384 with an output of at most 48 bytes (R58, R62). -/
def hkdf384 (salt ikm info : List Byte) (len : Nat) : List Byte :=
  (hmac384 (hmac384 salt ikm) (info ++ [1])).take len

/-! ## AES-256-GCM -/

/-- Multiplication by x in GF(2^8). -/
def aesXtime (a : Nat) : Nat := if a < 128 then 2 * a else (2 * a) ^^^ 0x11B

def aesMulAux : (n a b : Nat) → Nat
  | 0, _, _ => 0
  | n + 1, a, b => (if b % 2 = 1 then a else 0) ^^^ aesMulAux n (aesXtime a) (b / 2)

def aesMul (a b : Nat) : Nat := aesMulAux 8 a b

/-- a^254, the inverse in GF(2^8) with 0 fixed. -/
def aesInv (a : Nat) : Nat :=
  let a2 := aesMul a a
  let a3 := aesMul a2 a
  let a6 := aesMul a3 a3
  let a12 := aesMul a6 a6
  let a15 := aesMul a12 a3
  let a30 := aesMul a15 a15
  let a60 := aesMul a30 a30
  let a120 := aesMul a60 a60
  let a126 := aesMul a120 a6
  let a127 := aesMul a126 a
  aesMul a127 a127

/-- SubBytes of one byte: the inverse, then the affine map. -/
def aesSubOf (b : Nat) : Byte :=
  let x := aesInv b
  let r := fun k => ((x <<< k) ||| (x >>> (8 - k))) % 256
  byteOf (x ^^^ r 1 ^^^ r 2 ^^^ r 3 ^^^ r 4 ^^^ 0x63)

def aesSubTable : Array Byte := ((List.range 256).map aesSubOf).toArray

def aesSub (b : Byte) : Byte := aesSubTable.getD b.toNat 0

/-- The key schedule words, newest first, extended `n` times; `i` is the number of the next word. -/
def aesExpand : (n i rcon : Nat) → List (List Byte) → List (List Byte)
  | 0, _, _, w => w
  | n + 1, i, rcon, w =>
    let t := w.getD 0 []
    let t' := if i % 8 = 0 then
        listXor ((t.drop 1 ++ t.take 1).map aesSub) [byteOf rcon, 0, 0, 0]
      else if i % 8 = 4 then t.map aesSub else t
    aesExpand n (i + 1) (if i % 8 = 0 then aesXtime rcon else rcon) (listXor (w.getD 7 []) t' :: w)

/-- The 15 round keys of a 32-byte key. -/
def aesKeys (key : List Byte) : List (List Byte) :=
  chunks 16 ((aesExpand 52 8 1 (chunks 4 key).reverse).reverse.flatten)

def aesShiftRows (s : List Byte) : List Byte :=
  (List.range 16).map (fun i => s.getD ((i + 4 * (i % 4)) % 16) 0)

def aesMixCol (c : List Byte) : List Byte :=
  let g := fun i => (c.getD (i % 4) 0).toNat
  (List.range 4).map (fun i => byteOf (aesXtime (g i) ^^^ (aesXtime (g (i + 1)) ^^^ g (i + 1)) ^^^ g (i + 2) ^^^ g (i + 3)))

def aesMix (s : List Byte) : List Byte := (chunks 4 s).flatMap aesMixCol

def aesRounds : List (List Byte) → List Byte → List Byte
  | [], s => s
  | [k], s => listXor (aesShiftRows (s.map aesSub)) k
  | k :: ks, s => aesRounds ks (listXor (aesMix (aesShiftRows (s.map aesSub))) k)

/-- One block under the round keys. -/
def aesBlock (keys : List (List Byte)) (b : List Byte) : List Byte := aesRounds keys.tail (listXor b (keys.headD []))

/-- Multiplication in the field of GHASH, bits numbered from the most significant. -/
def ghashMulAux : (n : Nat) → (x v z : Nat) → Nat
  | 0, _, _, z => z
  | n + 1, x, v, z =>
    ghashMulAux n x (if v % 2 = 1 then (v >>> 1) ^^^ (0xE1 <<< 120) else v >>> 1) (if bitAt x n then z ^^^ v else z)

def ghashMul (x y : Nat) : Nat := ghashMulAux 128 x y 0

def ghash (h : Nat) (bs : List Byte) : Nat :=
  (chunks 16 bs).foldl (fun a b => ghashMul (a ^^^ beVal (padTo 16 b)) h) 0

/-- The key stream of `n` blocks from counter `c`. -/
def gctrStream (keys : List (List Byte)) (nonce : List Byte) (c n : Nat) : List Byte :=
  (List.range n).flatMap (fun i => aesBlock keys (nonce ++ beBytes 4 (c + i)))

def gcmPadBlock (bs : List Byte) : List Byte := bs ++ zeros ((16 - bs.length % 16) % 16)

def gcmTag (keys : List (List Byte)) (nonce aad cipher : List Byte) : List Byte :=
  let h := beVal (aesBlock keys (zeros 16))
  let s := ghash h (gcmPadBlock aad ++ gcmPadBlock cipher ++ beBytes 8 (8 * aad.length) ++ beBytes 8 (8 * cipher.length))
  listXor (beBytes 16 s) (aesBlock keys (nonce ++ beBytes 4 1))

/-- AES-256-GCM encryption: ciphertext and 16-byte tag. -/
def gcmEncrypt (key nonce aad plain : List Byte) : List Byte × List Byte :=
  let keys := aesKeys key
  let c := listXor plain (gctrStream keys nonce 2 (ceilDiv plain.length 16))
  (c, gcmTag keys nonce aad c)

/-- AES-256-GCM decryption: the plaintext, or nothing where the tag fails. -/
def gcmDecrypt (key nonce aad cipher tag : List Byte) : Option (List Byte) :=
  let keys := aesKeys key
  if gcmTag keys nonce aad cipher = tag then
    some (listXor cipher (gctrStream keys nonce 2 (ceilDiv cipher.length 16)))
  else none

/-! ## P-384 -/

def p384P : Nat := 2 ^ 384 - 2 ^ 128 - 2 ^ 96 + 2 ^ 32 - 1
def p384N : Nat :=
  0xFFFFFFFFFFFFFFFFFFFFFFFFFFFFFFFFFFFFFFFFFFFFFFFFC7634D81F4372DDF581A0DB248B0A77AECEC196ACCC52973
def p384B : Nat :=
  0xB3312FA7E23EE7E4988E056BE3F82D19181D9C6EFE8141120314088F5013875AC656398D8A2ED19D2A85C8EDD3EC2AEF
def p384G : Nat × Nat :=
  (0xAA87CA22BE8B05378EB1C71EF320AD746E1D3B628BA79B9859F741E082542A385502F25DBF55296C3A545E3872760AB7,
   0x3617DE4A96262C6F5D9E98BF9292DC29F8F41DBD289A147CE9DA3113B5F0B8C00A60B1CE1D7E819D7A431D7C90EA0E5F)

/-- b^e mod m over the low `n` bits of `e`. -/
def powModAux (m : Nat) : (n b e acc : Nat) → Nat
  | 0, _, _, acc => acc
  | n + 1, b, e, acc => powModAux m n (b * b % m) (e / 2) (if e % 2 = 1 then acc * b % m else acc)

/-- The inverse modulo a prime below 2^384. -/
def invMod (m a : Nat) : Nat := powModAux m 384 (a % m) (m - 2) 1

/-- A point; none is the point at infinity. -/
abbrev EcPoint := Option (Nat × Nat)

def onCurve (x y : Nat) : Bool :=
  decide (x < p384P) && decide (y < p384P) &&
    (y * y % p384P == (x * x * x + (p384P - 3) * x + p384B) % p384P)

def ecAdd (p q : EcPoint) : EcPoint :=
  match p, q with
  | none, q => q
  | p, none => p
  | some (x1, y1), some (x2, y2) =>
    if x1 = x2 ∧ (y1 + y2) % p384P = 0 then none
    else
      let l := if x1 = x2 then (3 * x1 * x1 + p384P - 3) * invMod p384P (2 * y1) % p384P
        else (y2 + p384P - y1) * invMod p384P (x2 + p384P - x1) % p384P
      let x3 := (l * l + 2 * p384P - x1 - x2) % p384P
      some (x3, (l * (x1 + p384P - x3) + p384P - y1) % p384P)

def ecMulAux : (n k : Nat) → EcPoint → EcPoint → EcPoint
  | 0, _, _, acc => acc
  | n + 1, k, p, acc => ecMulAux n (k / 2) (ecAdd p p) (if k % 2 = 1 then ecAdd acc p else acc)

def ecMul (k : Nat) (p : EcPoint) : EcPoint := ecMulAux 384 k p none

/-- SEC 1 uncompressed form of a public key (R61). -/
def sec1 (p : EcPoint) : List Byte :=
  match p with
  | none => [0]
  | some (x, y) => [0x04] ++ beBytes 48 x ++ beBytes 48 y

/-- The public key of a secret scalar. -/
def ecPublic (d : Nat) : EcPoint := ecMul d (some p384G)

/-- ECDSA P-384 over a 48-byte digest with the secret scalar `k`: r ‖ s, big-endian. -/
def ecdsaSign (d k : Nat) (digest : List Byte) : List Byte :=
  let r := match ecPublic k with
    | some (x, _) => x % p384N
    | none => 0
  let s := invMod p384N k * ((beVal digest + r * d) % p384N) % p384N
  beBytes 48 r ++ beBytes 48 s

/-- ECDSA P-384 verification of r ‖ s. -/
def ecdsaVerify (pub : Nat × Nat) (digest sig : List Byte) : Bool :=
  let r := beVal (cut 0 48 sig)
  let s := beVal (cut 48 48 sig)
  if r = 0 ∨ p384N ≤ r ∨ s = 0 ∨ p384N ≤ s then false
  else
    let w := invMod p384N s
    match ecAdd (ecMul (beVal digest * w % p384N) (some p384G)) (ecMul (r * w % p384N) (some pub)) with
    | some (x, _) => x % p384N == r
    | none => false

end Sys2Proof.Machine
end

