-- ==== Sys2Proof/Config.lean ====
section
/-! DEFINITION. What one implementation fixes and the manual leaves open: every constant here is opaque, so that no proof
can see a value of it. Each is named in a log entry (notes/assumptions). -/
namespace Sys2Proof.Config

/-- The n-th 64-bit draw of the security unit's deterministic random bit generator (R60, R391, R400, R483); log entry 9. -/
opaque random64 : Nat → W64

/-- The n-th 256-bit draw of the generator, for a storage key (R60); log entry 9. -/
opaque random256 : Nat → BitVec 256

/-- The secret scalar of the n-th ECDSA signature (R67, R510); log entry 9. -/
opaque nonce : Nat → Nat

/-- The device unique secret (chapter 2, Key hierarchy); log entry 10. -/
opaque uds : BitVec 256

/-- The blown bits of the security version, 0 to 32 (chapter 2); log entry 10. -/
opaque secVersion : Nat

/-- DEV_SERIAL as fused (R481, Table 19.4); log entry 10. -/
opaque devSerial : W64

/-- Measurement 1: SHA-384 of the mask-ROM sequence tables with the stepping (Table 2.7); log entry 10. -/
opaque romDigest : List Byte

/-- The public half of Colgar's licence key, fixed in the mask ROM (R73); log entry 10. -/
opaque licenceKey : Nat × Nat

/-- The fused certificates of R59: Colgar root, device authority and DIK; log entry 10. -/
opaque fusedCerts : List Byte

/-- The X.509 certificate that the DIK signs for a public key given in SEC 1 form (R59); the manual gives no layout; log entry 10. -/
opaque certificate : (issuerKey subject : List Byte) → List Byte

/-- The four bytes of measurement 2 from the security version and the lifecycle state (Table 2.7); log entry 10. -/
opaque measurement2 : Nat → Bool → W32

/-- The IDCODE value of the test access port (R57); log entry 10. -/
opaque idcode : BitVec 32

/-- The cells of the boundary register at a SAMPLE, from a count of samples taken (R57); log entry 10. -/
opaque boundarySample : Nat → List Bool

/-- The CRC of the n-th training set that the device writes (R488); its layout is internal; log entry 17. -/
opaque trainCrc : Nat → W32

/-- The count that a unit adds to a counter which the manual names but whose events it leaves inside the unit, such as
lexicon cache misses (Table 18.1); log entry 18. -/
opaque internalCount : Nat → Nat

/-- The stack-group position whose slice the step director assigns to a conversion or a selection of a session, from the slot
and a position of the session (R28, R179, R296); reduced modulo the rood's width where it is used; log entry 18. -/
opaque assignSlice : (slot position : Nat) → Nat

/-- The nodes of a table's trie that a conversion of some text reads, in order, numbered inside the device (R172); log entry 70. -/
opaque lexReads : (table text : List Byte) → List Nat

/-- How many trie nodes the 512 KiB of a lexicon cache hold (R172); log entry 70. -/
opaque lexNodes : Nat

/-- KV heads of a recorded session whose image the restoring rood does not hold, from the image's DIGEST: the payload does not
name them (Table 14.5); log entry 41. -/
opaque restoredHeads : List Byte → Nat

/-- The bytes that the AK signs in an SPDM exchange: the transcript, whose earlier messages the manual leaves to the DMTF
specification. It holds the request, with its nonce, and the response (R67; log entry 45). -/
opaque spdmTranscript : (request response : List Byte) → List Byte

/-- DMTF measurement type of an index (Table 2.7; log entry 45). -/
opaque measurementType : Nat → Nat

/-- The hash of the root certificate among the fused certificates, which stands at the head of a chain in SPDM (R59; log entry
45). -/
opaque rootHash : (fused : List Byte) → List Byte

end Sys2Proof.Config
end

