-- ==== Sys2Proof/Machine/State.lean ====
section
/-! DEFINITION. The state of the device as plain data: every register, store, queue, mode and pin the manual gives it, one
structure for each unit or chapter. Groups that a family of commands cannot touch stand in fields of their own, so that
the frame of a command can be read off the type of its meaning. -/
namespace Sys2Proof.Machine
open Sys2Proof

/-! ## Configuration memory, fuses, start-up (chapters 2, 17) -/

/-- The fuses and mask ROM that a start reads (R58, R59, R73, S02). Their values are the part's own: log entry 10. -/
structure Fuses where
  uds : BitVec 256
  secVersion : Nat
  production : Bool
  devSerial : W64
  romDigest : List Byte
  licenceKey : Nat × Nat
  certs : List Byte
  deriving DecidableEq, Repr

/-- Table 17.4, the defect map. -/
structure DefectMap where
  spares : List Nat
  sgFailed : BitVec 24
  flashFailed : BitVec 16
  portFailed : BitVec 8
  bridgeFailed : BitVec 4
  tileFailed : BitVec 96
  deriving DecidableEq, Repr

/-- Table 17.3, one boot record copy; `hist` holds HIST_CODE_n and HIST_COUNT_n for n = 1 to 14. -/
structure BootRecord where
  inProgress : Bool
  lastReady : Bool
  devSerial : W64
  writeCount : Nat
  serialLimit : Nat
  imageDigest : List Byte
  lastCode : Nat
  trainSet : Nat
  trainCrc : W32
  hist : List (Nat × Nat)
  defects : DefectMap
  deriving DecidableEq, Repr

/-- A training set in the NOR (R488); the settings themselves are internal. -/
structure TrainSet where
  serial : W64
  stepping : Nat
  crc : W32
  deriving DecidableEq, Repr

/-- Table 2.10, the fields of a licence that act. -/
structure Licence where
  serial : W64
  variant : Nat
  roods : Nat
  chainPorts : BitVec 8
  vector : Bool
  retrieval : Bool
  flashTB : Nat
  indexes : Nat
  minSecver : Nat
  /-- The 256 bytes of the licence, for measurement 4. -/
  bytes : List Byte
  deriving DecidableEq, Repr

/-- Where the device stands between power-down and READY. -/
inductive Phase where
  /-- PWRGD deasserted. -/
  | off
  /-- PWRGD asserted, S01 held by WARM_RST_N (R530) or THERMTRIP_N (R533). -/
  | held
  /-- WARM_RST_N holds a whole-device reset (R492). -/
  | inReset
  /-- A start that another event will cut at this step (R497). -/
  | starting (step : Nat)
  /-- R486. -/
  | stopped
  | ready
  /-- R472: regulators off, left only by a deassertion of PWRGD; whether READY had been reached. -/
  | tripped (wasReady : Bool)
  deriving DecidableEq, Repr

/-- Table 2.1. -/
structure LayoutEntry where
  firstSg : Nat
  width : Nat
  flashShare : Nat
  deriving DecidableEq, Repr

/-- The byte ranges of the NOR that the device writes (Table 17.1); [] is a copy that holds no 4,096 bytes of a record, as in a
blank part or after a write that was cut. The configuration image is read at S03 (`StartEnv.image`). -/
structure Nor where
  /-- Bytes 0x0100_0000 to 0x0100_0FFF. -/
  copyA : List Byte
  /-- Bytes 0x0100_1000 to 0x0100_1FFF. -/
  copyB : List Byte
  /-- Bytes 0x0200_0000 to 0x020F_FFFF. -/
  trainA : Option TrainSet
  /-- Bytes 0x0210_0000 to 0x021F_FFFF. -/
  trainB : Option TrainSet
  deriving DecidableEq, Repr

/-- Start-up state, NOR contents and the retention registers of R492. -/
structure Boot where
  fuses : Fuses
  phase : Phase
  fast : Bool
  step : Nat
  code : Nat
  /-- Codes given at each step of the present start, for the step history (R481, R496). -/
  codes : List Nat
  /-- Units that gave a code at the present start, and at the last start that closed its record: the units of the step history
  (R493, R496; log entry 67). -/
  unitCodes : List (UnitId × Nat)
  histUnits : List (UnitId × Nat)
  nor : Nor
  /-- The boot record in force as S03 read it or as last written, and whether it is copy A (R481, R492). -/
  inForce : Option BootRecord
  inA : Bool
  /-- The record had IN_PROGRESS 1 when S03 read it (Table 17.8). -/
  wasInProgress : Bool
  trainWrites : Nat
  /-- Some interface was trained in full during the start (R489). -/
  trainedInFull : Bool
  /-- The image read at S03 of the present start. -/
  image : List Byte
  licence : Option Licence
  /-- PWRGD has stayed asserted since a start that reached READY (R492). -/
  retained : Bool
  /-- The last reset was caused by a rail fault or the return of the reference clock (R492). -/
  noFast : Bool
  /-- DEV_TIME at which the reset in progress began (R543). -/
  resetTime : W64
  /-- Secret scalars of the DIK, DXK and AK; 0 while not derived (R58). -/
  dik : Nat
  dxk : Nat
  ak : Nat
  /-- Draws taken from the random bit generator: the model's own counter (log entry 9). -/
  draws : Nat
  /-- Nominal step count of each tile at 0.80 V (S06). -/
  nominal : List Nat
  defects : DefectMap
  /-- The layout in force, retained for the fast path (R50, R492). -/
  layout : List LayoutEntry
  /-- The unit that the cause of the last whole-device reset names (R493). -/
  cause : Option UnitId
  deriving DecidableEq, Repr

/-! ## Pins, time, test access (chapters 1, 20) -/

/-- DEV_TIME and its arming (R35, R36). -/
structure Clock where
  time : W64
  /-- The next reference edge reads zero (R36). -/
  armed : Bool
  deriving DecidableEq, Repr

/-- The input signals, by assertion (Table 20.5), and whether VAUX is valid. The outputs THERM_ALERT_N and THERMTRIP_N
stand in `Energy`; FAULT_N is a function of the device (`Dev.faultN`, R474, R475, R486). -/
structure Pins where
  vaux : Bool
  pwrgd : Bool
  warmRst : Bool
  deriving DecidableEq, Repr

/-- The test access port (R57): the instruction in force, the boundary cells it drives and what it shifts out. -/
structure Tap where
  instr : Nat
  driving : Bool
  cells : List Bool
  shifted : List Bool
  samples : Nat
  deriving DecidableEq, Repr

/-! ## Logs, vectors, counters (chapters 18, 19) -/

/-- Words 1 to 3 of a log entry with its SEQ (Table 19.16). -/
structure LogEntry where
  seq : Nat
  time : W64
  kind : Nat
  cls : Nat
  code : Nat
  reaction : Nat
  rood : Nat
  sessions : Nat
  quad : Nat
  sg : Nat
  unitKind : Nat
  unit : Nat
  detail : Nat
  deriving DecidableEq, Repr

/-- A log: the SEQ of its newest entry and the entries it still holds, newest first (R521). -/
structure Log where
  head : Nat
  entries : List LogEntry
  deriving DecidableEq, Repr

/-- One MSI-X table entry with its pending bit (R514). -/
structure MsixEntry where
  addr : W64
  data : W32
  masked : Bool
  pend : Bool
  deriving DecidableEq, Repr

/-- The counter sets of Table 18.1. -/
inductive CtrSet where
  | tile | bank | slice | sg | rood | device
  deriving DecidableEq, Repr

/-- Names one counter: set, unit number (bank engine c of stack group g is 64 g + c) and index. -/
structure CtrKey where
  set : CtrSet
  unit : Nat
  idx : Nat
  deriving DecidableEq, Repr

/-! ## Layout, composition, sideband (chapter 2) -/

/-- Table 18.4: the fields of a rood tally that count. -/
structure Tally where
  rood : Nat
  width : Nat
  composition : Nat
  openTime : W64
  time : W64
  grains : Nat
  sharedGrains : Nat
  activeNs : Nat
  tokensGenerated : Nat
  positionsPrefilled : Nat
  textBytesIn : Nat
  streamBytes : Nat
  vecScores : Nat
  frameIntervals : Nat
  extentIntervals : Nat
  chainBytesOut : Nat
  chainBytesIn : Nat
  sessionsOpened : Nat
  loads : Nat
  events : Nat
  peakFrames : Nat
  closed : Bool
  carried : Bool
  eventChain : List Byte
  deriving DecidableEq, Repr

/-- The composition (R79, R80, R482, R508 to R511). -/
structure Comp where
  composed : Bool
  /-- RELEASE has passed step 5 of Table 2.11 and its scrub has not ended. -/
  releasing : Bool
  /-- A full-path start has formed the roods of its own layout: the tallies of the composition that the reset ended stand in
  `closed`, to be sealed at READY (R484, R543). -/
  ended : Bool
  serial : Nat
  nextSerial : Nat
  serialLimit : Nat
  tenant : List Byte
  composeTime : W64
  packageGrains : Nat
  releaseTime : W64
  closed : List Tally
  sealedTally : List Byte
  deriving DecidableEq, Repr

/-- A control request of Table 2.13 as the sideband target holds it. -/
structure SbReq where
  code : Nat
  inst : Nat
  msg : List Byte
  deriving DecidableEq, Repr

/-- The sideband target (R83, R84). -/
structure Sideband where
  usable : Bool
  running : Option SbReq
  queue : List SbReq
  deriving DecidableEq, Repr

/-! ## Energy and heat (chapter 15) -/

/-- Table 18.7, the telemetry block as last updated. -/
structure Telemetry where
  time : W64
  cap : Nat
  sidebandCap : Nat
  power : Nat
  tileTemp : Int
  stackTemp : Int
  fault : Nat
  boot : Nat
  sgFailed : Nat
  composed : Bool
  thermAlert : Bool
  deriving DecidableEq, Repr

/-- The energy governor and the local energy controllers (R433 to R441). Supplies are in mV. -/
structure Energy where
  sidebandCap : Nat
  hostCap : Nat
  inForce : Nat
  share : Nat
  bank : List Int
  shared : Nat
  interval : Nat
  /-- Stack groups that have had their first interval since READY or the layout change (R542). -/
  active : List Bool
  supply : List Nat
  ceiling : List Nat
  /-- The tile ran a step in the interval before, and in this one (Table 15.2). -/
  busy : List Bool
  ran : List Bool
  ro : List Nat
  tileTemp : List Int
  stackTemp : List Int
  doubleRefresh : List Bool
  hotHalf : List Bool
  lowHalf : List Bool
  /-- Tiles that lost both sensors and run at 0.55 V (class 0x0B). -/
  blind : List Nat
  /-- Units with a sensor whose loss has been reported and has not ended (class 0x0B). -/
  sensorLost : List UnitId
  powerHist : List Nat
  /-- THERM_ALERT_N and THERMTRIP_N, by assertion (R441, R472, R533). -/
  thermAlert : Bool
  thermTrip : Bool
  telemetry : Telemetry
  deriving DecidableEq, Repr

/-! ## Flash (chapter 13) -/

/-- A LUN of the attached NAND (R380, code 0x0A03); `blocks` counts those within the flash limit (R76). -/
structure Lun where
  chan : Nat
  ce : Nat
  lun : Nat
  blocks : Nat
  joined : Bool
  rebuilding : Bool
  deriving DecidableEq, Repr

/-- A NAND block: its erase count, page reads since programmed, and whether it is retired (R384). -/
structure Block where
  chan : Nat
  lun : Nat
  block : Nat
  erases : Nat
  reads : Nat
  bad : Bool
  /-- A page of it is beyond every decoding (R383). -/
  lost : Bool
  /-- It fails programs and erases. -/
  worn : Bool
  deriving DecidableEq, Repr

/-- One page as it lies in the NAND: ciphertext and tag under R383. -/
structure Page where
  cipher : List Byte
  tag : List Byte
  deriving DecidableEq, Repr

/-- One extent (R381): where it lies, the erase count of its block when it was programmed, and its pages. -/
structure Extent where
  chan : Nat
  lun : Nat
  block : Nat
  erases : Nat
  /-- The rood number under which its pages were encrypted (R383). -/
  rood : Nat
  number : Nat
  pages : List Page
  deriving DecidableEq, Repr

/-- What a flash object of a rood is: a bushel or mirror of a slot, or a checkpoint shard (R381, R424). -/
inductive ObjKind where
  | bushel (slot : Nat)
  | shard (lineage : W64) (seq index : Nat) (base : Bool)
  deriving DecidableEq, Repr

/-- An object in a rood's flash share; `size` is Y of R381. -/
structure FlashObj where
  id : Nat
  kind : ObjKind
  size : Nat
  exts : List Extent
  deriving DecidableEq, Repr

/-- The translation layer (R381 to R384). -/
structure Flash where
  /-- The limit in force in bytes (R76); 0 until S10 has ended. -/
  limit : Nat
  luns : List Lun
  blocks : List Block
  /-- Places of extents that no rood holds any more and that are not yet erased (R384). -/
  freed : List (Nat × Nat × Nat)
  deriving DecidableEq, Repr

/-! ## Chain (chapter 13) -/

/-- A chain port (R385). -/
structure Port where
  up : Bool
  /-- Link-up is in progress (R385). -/
  training : Bool
  neighbour : Nat
  reach : List Nat
  deriving DecidableEq, Repr

/-- Both directions of one pair of devices (R389 to R391). -/
structure Pair where
  peer : Nat
  txOpen : Bool
  txEpoch : W64
  txNext : Nat
  unacked : List ChainMsg
  rxOpen : Bool
  rxEpoch : W64
  rxSeq : Nat
  held : List ChainMsg
  /-- What OFFERs that are held came with, by OP (R394, R396). -/
  origins : List (Nat × Origin)
  /-- A message has been applied since the last one sent (R389, the ACK message). -/
  owesAck : Bool
  deriving DecidableEq, Repr

structure Chain where
  ports : List Port
  pairs : List Pair
  nextOp : Nat
  deriving DecidableEq, Repr

/-! ## Integrity (chapter 16) -/

/-- A reset in progress (Table 16.3), with the unit whose event began it where R469 needs it. -/
inductive ResetLevel where
  | tile (t : Nat)
  | sg (g : Nat) (cause : UnitId)
  | rood (r : Nat)
  | quad (q : Nat) (cause : UnitId)
  deriving DecidableEq, Repr

/-- Resets that run, marks, histories and the in-service assay rotation (R463 to R469). -/
structure Integrity where
  resets : List ResetLevel
  /-- DEV_TIME of the last reset of a tile (R466). -/
  tileResetAt : List (Nat × W64)
  /-- DEV_TIME at which a stack group was marked failed (Table 16.3, quadrant). -/
  sgFailedAt : List (Nat × W64)
  sgFailed : BitVec 24
  /-- DEV_FAULT.REF_LOSS. -/
  refLoss : Bool
  /-- The reference clock has stopped and has not returned (R471). -/
  clockLost : Bool
  quadReset : BitVec 4
  recovery : Bool
  /-- Stand-ins of R463: spare and the active tile whose role it has taken. -/
  standIns : List (Nat × Nat)
  /-- Next tile to be assayed in each quadrant. -/
  nextAssay : List Nat
  /-- Units of other kinds whose assay runs in an idle gap. -/
  assaying : List UnitId
  deriving DecidableEq, Repr

/-- Device snapshot state (R505, R507). -/
structure DevSnap where
  number : Nat
  busy : Bool
  latched : List Nat
  shadows : List Nat
  /-- Sideband requests that joined the running snapshot. -/
  waiting : List SbReq
  deriving DecidableEq, Repr

/-- The rest of the device window (Tables 19.1, 19.7). -/
structure DevRegs where
  misaccess : Bool
  linkRate : Nat
  linkWidth : Nat
  log : Log
  msix : List MsixEntry
  deriving DecidableEq, Repr

/-! ## A rood: intake and completion (chapter 4) -/

/-- An intake ring (R129 to R139): its registers, the accepted count and the lines the host interface holds. -/
structure IRing where
  base : W64
  enable : Bool
  sizeLog2 : Nat
  cring : Nat
  next : Nat
  consWritten : Nat
  lines : List (Nat × SlotLine)
  deriving DecidableEq, Repr

/-- A completion record before it takes its index (Table 4.7): everything but PHASE. -/
structure CRec where
  status : Nat
  yield : Nat
  implicitRevival : Bool
  nothingDone : Bool
  flagged : Bool
  byteTokens : Bool
  carried : Bool
  opcode : Nat
  handle : Nat
  tag : W64
  result : List Nat
  irqNow : Bool
  deriving DecidableEq, Repr

/-- A completion ring (R129 to R133, R140, R151, R158). -/
structure CRing where
  base : W64
  enable : Bool
  sizeLog2 : Nat
  vector : Nat
  timeUs : Nat
  count : Nat
  prod : Nat
  cons : Nat
  reserved : Nat
  unsignalled : Nat
  oldest : W64
  held : List CRec
  deriving DecidableEq, Repr

/-- Where an accepted command stands. -/
inductive Stage where
  /-- Accepted by the host interface, not yet judged. -/
  | accepted
  /-- Waits for its session, its queue or a replaced object. -/
  | waiting
  /-- Its text is being converted (R179). -/
  | converting
  /-- Waits for an implicit revival (R118). -/
  | reviving
  /-- Has a sequence, a move, a sweep or a copy in progress. -/
  | running
  /-- Passed every check and waits to take effect between steps (R239, R240). -/
  | ready
  deriving DecidableEq, Repr

/-- The result of a conversion: token ids, byte tokens of invalid units, and the new carry (R175 to R178). -/
structure Conv where
  tokens : List Nat
  byteTokens : Nat
  carry : List Byte
  deriving DecidableEq, Repr

/-- An accepted command until its completion record is written. -/
structure Cmd where
  id : Nat
  /-- Intake ring, or 8 for a triggered checkpoint. -/
  ring : Nat
  cring : Nat
  raw : BitVec 512
  poisoned : Bool
  stage : Stage
  /-- LOAD_SEQ of the tokenizer table and list-set version it uses (R169, R322); 0 for none. -/
  tokSeq : Nat
  listSeq : Nat
  conv : Option Conv
  /-- Status of a check that failed while the revival still runs (R119). -/
  failed : Nat
  implicitRevival : Bool
  flagged : Bool
  /-- Stop block as read at acceptance (R333). -/
  stopToks : List Nat
  stopStrs : List (List Byte)
  /-- FRAME_FLOOR and the ROOD_VEC_SHARD word of its index as they stood at acceptance (R365, R448). -/
  floor : Nat
  shards : W64
  /-- The table or list set of a load that passed its checks and waits for the release of an older one (R169, R322). -/
  object : List Byte
  /-- Frames taken for its automaton (R322). -/
  frames : List Nat
  /-- Slots of the sessions whose embedding an insert takes: their other commands wait until it has been taken (R369). -/
  embeds : List Nat
  deriving DecidableEq, Repr

/-! ## A rood: sessions (chapter 3) -/

/-- STATE of Table 3.1; FREE is the absence of an entry. -/
inductive SesState where
  | resident | queued | running | parked | moving | suspect
  deriving DecidableEq, Repr

/-- What a session keeps of its bound image beyond Table 3.1, so that it can be parked and moved when the image has changed
(R125, R243, Table 13.2): its geometry and DIGEST. -/
structure SesGeo where
  layers : Nat
  kvHeads : Nat
  headDim : Nat
  digest : List Byte
  deriving DecidableEq, Repr

/-- The session table entry of Table 3.1. -/
structure Entry where
  state : SesState
  moveKind : Nat
  latClass : Nat
  retrieval : Bool
  kv4 : Bool
  modelSlot : Nat
  adapterSlot : Nat
  listSet : Nat
  lastYield : Nat
  carry : List Byte
  modelSeq : Nat
  length : Nat
  contextLimit : Nat
  pendingToken : Nat
  pecks : Nat
  dirRoot : W32
  streamBytes : Nat
  seed : W64
  rng : W64
  openTime : W64
  lastTime : W64
  bushel : Nat
  parent : W32
  genCount : Nat
  grains : Nat
  geo : SesGeo
  deriving DecidableEq, Repr

/-- A slot that is not FREE with the rood's base generation: its generation, its entry, and whether a fork has taken it (R120). -/
structure Slot where
  gen : Nat
  entry : Option Entry
  taken : Bool
  deriving DecidableEq, Repr

/-- The free list of one session manager (R89): indexes returned to its head, the next index never used since the list was
built, indexes to skip there, and the tail. -/
structure FreeList where
  head : List Nat
  fresh : Nat
  skip : List Nat
  tail : List Nat
  deriving DecidableEq, Repr

/-! ## A rood: KV store (chapter 8) -/

/-- What a pool frame holds (R248). -/
inductive FrameUse where
  | peck | summary | super
  | weight (slot : Nat) | adapter (slot : Nat) | automaton (set : Nat)
  | vecNode (index : Nat) | vecRoot (index : Nat) | vecTable (index : Nat)
  | copyBuf | extentTable
  deriving DecidableEq, Repr

/-- A pool frame in use: its reference count, use and bytes (unlisted bytes are zero). -/
structure Frame where
  refs : Nat
  use : FrameUse
  data : List Host.Cell
  deriving DecidableEq, Repr

/-- One entry of a walker's look-aside buffer (R258). -/
structure LabTag where
  slot : Nat
  gen : Nat
  tree : Nat
  layer : Nat
  line : Nat
  deriving DecidableEq, Repr

/-- Frame pool, directory lines and look-aside buffers of a rood. Keys rise strictly. -/
structure Kv where
  frames : List (Nat × Frame)
  lines : List (Nat × List W32)
  zeroing : List Nat
  labs : List (List LabTag)
  deriving DecidableEq, Repr

/-! ## A rood: loaded objects (chapters 5, 6, 7, 11) -/

/-- Table 7.3, the family parameters; FP32 fields are codes. -/
structure Params where
  hidden : Nat
  layers : Nat
  qHeads : Nat
  kvHeads : Nat
  headDim : Nat
  normOffset : Nat
  act : Nat
  mlpWidth : Nat
  vocab : Nat
  normEps : W32
  qkvBias : Nat
  qkNorm : Nat
  ropePairing : Nat
  ropeScaling : Nat
  ropeBase : W32
  ropeFactor : W32
  ropeOrigLen : Nat
  ropeBetaFast : W32
  ropeBetaSlow : W32
  attnScale : W32
  embMult : W32
  logitCap : W32
  tieEmbed : Nat
  pairAttn : Nat
  pairMlp : Nat
  pairEmbed : Nat
  pairOut : Nat
  ctxLimit : Nat
  deriving DecidableEq, Repr

/-- Table 7.6. -/
structure SliceEntry where
  layer : Nat
  matrix : Nat
  tile : Nat
  firstRow : Nat
  rows : Nat
  deriving DecidableEq, Repr

/-- Table 7.8. -/
structure PriceEntry where
  layer : Nat
  stepMg : Nat
  tokenMg : Nat
  ctxMg : Nat
  deriving DecidableEq, Repr

/-- A PLACEMENT section (R220). -/
structure Placement where
  width : Nat
  stepTokens : Nat
  workBytes : Nat
  sgBytes : Nat
  maxTileBytes : Nat
  slices : List SliceEntry
  prices : List PriceEntry
  deriving DecidableEq, Repr

/-- Table 7.9. -/
structure AdapterParams where
  hidden : Nat
  layers : Nat
  qHeads : Nat
  kvHeads : Nat
  headDim : Nat
  targets : Nat
  rank : Nat
  mlpWidth : Nat
  alpha : W32
  fmt : Nat
  deriving DecidableEq, Repr

/-- What an image is once its body is read: a placement image or an adapter image. -/
inductive ImageKind where
  | placement (p : Params) (pl : Placement)
  | adapter (a : AdapterParams)
  deriving DecidableEq, Repr

/-- An image held in a model slot or an adapter slot. -/
structure Image where
  kind : ImageKind
  loadSeq : Nat
  loadTime : W64
  digest : List Byte
  cek : BitVec 256
  weights : List Byte
  /-- Scaled rotary frequencies, computed once when the load takes effect (R205). -/
  freqs : List W32
  /-- Keys of the pool frames that hold its copies (R224, R234). -/
  frames : List Nat
  deriving DecidableEq, Repr

/-- The open load of a rood (R236 to R238): the file so far, the plaintext so far, and what the checks have found. -/
structure OpenLoad where
  kind : Nat
  slot : Nat
  file : List Byte
  chunks : Nat
  body : List Byte
  cek : BitVec 256
  image : Option ImageKind
  frames : List Nat
  deriving DecidableEq, Repr

/-- A tokenizer table in force or replaced (chapter 5): the bytes as submitted. -/
structure TokTable where
  loadSeq : Nat
  loadTime : W64
  bytes : List Byte
  digest : List Byte
  deriving DecidableEq, Repr

/-- A version of a list set (chapter 11). -/
structure ListSet where
  num : Nat
  loadSeq : Nat
  loadTime : W64
  banned : List (List Nat)
  forced : List (List Nat × List Nat)
  pool : List Nat
  bytes : List Byte
  digest : List Byte
  frames : List Nat
  deriving DecidableEq, Repr

/-- The objects a rood holds, its event chain and its load queue (R70, R241). -/
structure Objects where
  models : List (Nat × Image)
  adapters : List (Nat × Image)
  openLoad : Option OpenLoad
  /-- The tokenizer table in force, then a replaced one still in use. -/
  tables : List TokTable
  /-- Versions of list sets; for one number the newest first. -/
  lists : List ListSet
  loadSeq : Nat
  eventChain : List Byte
  /-- Commands of R241 in acceptance order; the head is the one that runs. -/
  queue : List Nat
  /-- Model slots that an uncorrectable DRAM error empties at the next boundary of their crews, and 65,536 + adapter slots that
  it empties when every crew stands between steps (Table 16.2). -/
  emptying : List Nat
  deriving DecidableEq, Repr

/-! ## A rood: sequences, crews, steps (chapters 9 to 11) -/

/-- The generating part of a sequence: its descriptor's fields and what it has produced (R104, R305, R324, R335). -/
structure Gen where
  maxNew : Nat
  streamAddr : Nat
  streamLen : Nat
  used : Nat
  temperature : W16
  topK : Nat
  topP : W16
  minP : W16
  stopToks : List Nat
  stopStrs : List (List Byte)
  history : List Nat
  fired : List Nat
  body : List Nat
  text : List Byte
  deriving DecidableEq, Repr

/-- A sequence (R274, R275): `toks` are the old pending token, when there is one, and the appended tokens; `base` is the
position of the first, `stored` the prefill positions already run. -/
structure Seq where
  cmd : Nat
  slot : Nat
  cls : Nat
  model : Nat
  order : Nat
  running : Bool
  base : Nat
  toks : List Nat
  stored : Nat
  appended : Nat
  byteTokens : Nat
  carried : Bool
  newCarry : List Byte
  /-- The append part has taken effect. -/
  appendDone : Bool
  gen : Option Gen
  crew : Option Nat
  resFrames : Nat
  resLines : Nat
  /-- SES_CANCEL commands accepted since the last boundary (R291 order 2). -/
  cancel : Option Nat
  /-- The bound image or adapter changed (R291 order 3), or a stream address fault (R148). -/
  dropped : Bool
  /-- An integrity event touched it (R291 order 4). -/
  touched : Bool
  lastEnd : W64
  /-- Yield reason of the token just committed, 0 for none, and its STOP_OFFSET (R116, R335). -/
  yield : Nat
  stopOff : Option Nat
  deriving DecidableEq, Repr

/-- One sequence's part of a step: positions `first` to `first + count - 1` of the session, whether its decode position is
among them, and whether that position injects (R279, R327). -/
structure Part where
  cmd : Nat
  slot : Nat
  first : Nat
  count : Nat
  decode : Bool
  inject : Bool
  deriving DecidableEq, Repr

/-- A composed step (R286). -/
structure Step where
  prefillDuty : Bool
  parts : List Part
  price : Nat
  grains : Nat
  energyBound : Bool
  /-- Latency limits in force at composition (R520). -/
  limits : List Nat
  /-- What was measured over it, while its STEP_END runs; a fence that falls into it keeps the chosen tokens (R460, R470). -/
  ending : Option StepEnv
  deriving DecidableEq, Repr

/-- A crew of an image (R222): κ for decode and prefill duty with 8 fraction bits (R444), and the step it runs. -/
structure Crew where
  model : Nat
  idx : Nat
  kappaD : Nat
  kappaP : Nat
  prefillDuty : Bool
  /-- The duty of the last step it ran (R282). -/
  ranPrefill : Bool
  step : Option Step
  lastEnd : W64
  /-- The number of decode crews has grown, and the crew's sequences are placed afresh at its next boundary (R281). -/
  rebalance : Bool
  /-- A step whose boundary events R545 holds back until a stack-group reset ends. -/
  held : Option Step
  deriving DecidableEq, Repr

/-! ## A rood: moves, vectors, checkpoints (chapters 12 to 14) -/

/-- A move in progress (R107, R108, R111, R118, R399). -/
structure Move where
  slot : Nat
  kind : Nat
  cmd : Nat
  /-- The state before the move, for its return. -/
  former : SesState
  bushel : List Byte
  resFrames : Nat
  resLines : Nat
  /-- Chain operation, peer and peer rood of a migration or mirror. -/
  op : Nat
  peer : Nat
  peerRood : Nat
  accepted : Bool
  /-- Local bushel durable, as object `obj`; mirror's DONE arrived (R399). -/
  durable : Bool
  obj : Nat
  mirrorDone : Bool
  /-- The SES_CANCEL that reached an implicit revival (R113). -/
  cancel : Option Nat
  deriving DecidableEq, Repr

/-- What admission holds for a command that waits for its implicit revival (R119, R450): frames, and lines of the stack of a
slot; for a fork the slot it has taken (R120). -/
structure Hold where
  cmd : Nat
  slot : Nat
  frames : Nat
  lines : Nat
  deriving DecidableEq, Repr

/-- A move that arrives from a peer (R393 to R396). -/
structure Arrival where
  op : Nat
  /-- Completion ring of its arrival record (R396). -/
  cring : Nat
  src : Nat
  srcRood : Nat
  mirror : Bool
  header : List Byte
  slot : Nat
  list : List Byte
  frames : List (Nat × List Byte)
  toFlash : Bool
  originTag : Nat
  srcHandle : Nat
  deriving DecidableEq, Repr

/-- An edge of Table 12.3. -/
structure Edge where
  gen : Nat
  slot : Nat
  deriving DecidableEq, Repr

/-- STATE of Table 12.2. -/
inductive NodeState where
  | free | live | tombstoned
  deriving DecidableEq, Repr

/-- A node record (Table 12.2). -/
structure Node where
  element : Nat
  gen : Nat
  state : NodeState
  insCommit : Nat
  delCommit : Nat
  version : W64
  norm2 : W32
  vector : List Byte
  adj : List Edge
  deriving DecidableEq, Repr

/-- Root image (Table 12.4), without the parameters that never change. -/
structure RootImage where
  commit : Nat
  entry : Option Edge
  live : Nat
  tombs : Nat
  free : Nat
  serial : Nat
  deriving DecidableEq, Repr

/-- A vector index. Slots not listed in `nodes` are free with GEN 1 (R343). -/
structure VecIndex where
  num : Nat
  elemFmt : Nat
  metric : Nat
  dim : Nat
  degree : Nat
  capacity : Nat
  rootA : RootImage
  rootB : RootImage
  nodes : List (Nat × Node)
  nodeFrames : List Nat
  tableFrames : List Nat
  rootFrame : Nat
  damaged : Bool
  damagedFrames : List Nat
  deriving DecidableEq, Repr

/-- One result entry of Table 12.6. -/
structure VecHit where
  element : Nat
  score : W32
  version : W64
  deriving DecidableEq, Repr

/-- A vector command in progress: a sweep with its own answers and its peers' lists, or a mutation. -/
structure VecOp where
  cmd : Nat
  index : Nat
  sweep : Bool
  commit : Nat
  count : Nat
  answers : List (List VecHit)
  nans : List Nat
  rounds : Nat
  scores : Nat
  op : Nat
  waiting : List Nat
  joined : List (Nat × List Byte)
  lists : List (Nat × List (List VecHit))
  damaged : Bool
  deriving DecidableEq, Repr

/-- What a checkpoint records of one session (R403, R418): its entry as recorded, its digests and its frames as record
frame numbers by layer, kind and number. -/
structure CkpSession where
  slot : Nat
  entry : Entry
  digests : List (List Byte)
  refs : List (Nat × Nat × Nat × Nat)
  deriving DecidableEq, Repr

/-- A recorded frame: number, KIND and the bytes of each filled slot or summary (R405, R418). A slot of a peck is its key
blocks for each KV head, then its value blocks; `kv8` marks a peck that the lean format rewrites (R413). -/
structure CkpFrame where
  num : Nat
  kind : Nat
  heads : Nat
  kv8 : Bool
  slots : List (List Byte)
  deriving DecidableEq, Repr

/-- A recorded vector index: the index itself, as its frames hold it. -/
structure CkpVec where
  num : Nat
  index : VecIndex
  deriving DecidableEq, Repr

/-- A rood as it stands at a cut (Table 14.2). -/
structure CkpImage where
  baseGen : Nat
  gens : List (Nat × Nat)
  sessions : List CkpSession
  frames : List CkpFrame
  vectors : List CkpVec
  tally : Tally
  deriving DecidableEq, Repr

/-- Shard header (Table 14.7). -/
structure ShardHdr where
  index : Nat
  k : Nat
  parity : Nat
  lean : Bool
  base : Bool
  lineage : W64
  seq : Nat
  prevSeq : Nat
  baseSeq : Nat
  cutTime : W64
  payloadLen : Nat
  shardLen : Nat
  shape : List Byte
  payloadCrc : W32
  shardCrc : W32
  srcDevice : Nat
  srcRood : Nat
  deriving DecidableEq, Repr

/-- The last completed checkpoint of the lineage (R411). -/
structure CkpRef where
  seq : Nat
  baseSeq : Nat
  deltas : Nat
  target : Nat
  peers : W64
  image : CkpImage
  /-- Record frame numbers by frame key, and the next number (R412); frame i of flash object o has the key 2^32 o + i. -/
  numbers : List (Nat × Nat)
  nextNumber : Nat
  deriving DecidableEq, Repr

/-- Progress of one shard of a running checkpoint. -/
structure ShardRun where
  peer : Nat
  rood : Nat
  op : Nat
  accepted : Bool
  durable : Bool
  hdr : ShardHdr
  data : List Byte
  deriving DecidableEq, Repr

/-- A checkpoint being copied (R404): `next` is what it becomes a reference as; a local one has no shards. -/
structure CkpRun where
  cmd : Nat
  lean : Bool
  base : Bool
  prevSeq : Nat
  cutTime : W64
  next : CkpRef
  shards : List ShardRun
  suspect : Bool
  deriving DecidableEq, Repr

/-- A shard that an inventory found, and the peer that holds it; 32 for the rood's own flash share. -/
structure InvItem where
  hdr : ShardHdr
  peer : Nat
  deriving DecidableEq, Repr

/-- A shard being fetched from a peer (R429). -/
structure Fetch where
  op : Nat
  seq : Nat
  index : Nat
  peer : Nat
  hdr : Option ShardHdr
  data : List Byte
  deriving DecidableEq, Repr

/-- A shard that a restore has in hand. -/
structure ShardPart where
  seq : Nat
  hdr : ShardHdr
  data : List Byte
  deriving DecidableEq, Repr

/-- A restore in progress (R426 to R430): peers whose inventory is awaited with the operation of each, what was found, the
sequence chosen, shards tried, in transit and in hand, checkpoints that could not be rebuilt, and what admission holds. -/
structure RestoreRun where
  cmd : Nat
  source : Nat
  waiting : List (Nat × Nat)
  /-- Bytes of each awaited INV_LIST that have arrived (R387). -/
  lists : List (Nat × List Byte)
  items : List InvItem
  chosen : Nat
  tried : List (Nat × Nat × Nat)
  /-- Sequences of which a shard beyond K is taken up, once for each, because PAYLOAD_CRC failed (R429). -/
  more : List Nat
  fetching : List Fetch
  parts : List ShardPart
  bad : List Nat
  resFrames : Nat
  resLines : List (Nat × Nat)
  resExts : Nat
  deriving DecidableEq, Repr

/-- A shard that arrives from a peer. -/
structure ShardIn where
  op : Nat
  src : Nat
  srcRood : Nat
  hdr : ShardHdr
  data : List Byte
  deriving DecidableEq, Repr

/-- Checkpoint state of a rood (chapter 14). -/
structure Ckp where
  nextSeq : Nat
  ref : Option CkpRef
  run : Option CkpRun
  restore : Option RestoreRun
  /-- Commands that wait for the one that runs (R417). -/
  queue : List Nat
  /-- A held trigger: true for the timer, with ROOD_CKP_CTL as it stood when the trigger fell due (R414, R415). -/
  trigger : Option (Bool × W64)
  /-- Step boundaries of the rood's crews since the last cut (R415). -/
  steps : Nat
  /-- Shards of checkpoints that have completed with ST_PEER and that still travel (R425). -/
  trailing : List ShardRun
  incoming : List ShardIn
  deriving DecidableEq, Repr

/-! ## A rood: registers, snapshot, whole -/

/-- The rood window's remaining registers (Table 19.2). -/
structure RoodRegs where
  logEvent : Bool
  addrFault : Bool
  misaccess : Bool
  configErr : Bool
  evtEnable : Bool
  evtVector : Nat
  idxBase : W64
  latLimit : List Nat
  frameFloor : Nat
  ckpCtl : W64
  ckpPeers : W64
  lineage : W64
  chainAccept : W64
  mirror : W32
  vecShard : List W64
  msix : List MsixEntry
  log : Log
  deriving DecidableEq, Repr

/-- What left the package: MSI-X messages, sideband and SPDM responses, chain messages, error reports (log entry 6). -/
inductive Output where
  | msix (fn vec : Nat)
  | sideband (msg : List Byte)
  | spdm (ep : Endpoint) (body : List Byte) (signature : List Byte)
  | chain (port : Nat) (m : ChainMsg)
  | proof (port : Nat) (signature : List Byte)
  /-- A request of SPDM 1.3 to the neighbour on a port (Table 13.7, step 3). -/
  | portRequest (port : Nat) (body : List Byte)
  | aer
  | sgFailed (sg : Nat)
  | ready
  deriving DecidableEq, Repr

/-- What a rood's work asks of the rest of the device within one command; empty between commands (the model's own). -/
inductive Fx where
  | chain (peer typ dstRood op : Nat) (payload : List Byte)
  | log (e : LogEntry)
  | out (o : Output)
  | count (k : CtrKey) (n : Nat)
  /-- Counts in the slice that the step director assigns to a conversion or a selection of a slot at a position (R28, R456). -/
  | assigned (slot position idx n : Nat)
  /-- Events that the manual leaves inside a unit (log entry 18). -/
  | internal (k : CtrKey)
  /-- A step starts on these tiles (R439). -/
  | start (tiles : List Nat)
  /-- A block was programmed, or pages of it were read (R384). -/
  | programmed (chan lun block : Nat)
  | pagesRead (chan lun block n : Nat)
  /-- A program or an erase of a block failed, or it gave a media error (R384). -/
  | retire (chan lun block : Nat)
  | draw
  | op
  deriving DecidableEq, Repr

/-! ## A rood: window stores, lexicon caches, HDM decoder (R51, R172, R226) -/

/-- A run of bytes that a tile streams: bytes `off` to `off + len - 1` of the image in a model slot, or of an adapter, named by the
LOAD_SEQ under which it was loaded (R225, R234). -/
structure StreamPiece where
  adapter : Bool
  slot : Nat
  loadSeq : Nat
  off : Nat
  len : Nat
  deriving DecidableEq, Repr

/-- A weight segment: at most 1 MiB of a tile's stream (R225). -/
abbrev Segment := List StreamPiece

/-- The window store of a tile (Table 7.7): the segments in its eight buffers, and the bytes of its working area that the current
step uses. -/
structure WindowStore where
  buffers : List Segment
  work : Nat
  deriving DecidableEq, Repr

/-- A trie node in a lexicon cache, under the LOAD_SEQ of its table (R172); nodes are numbered inside the device. -/
structure LexNode where
  table : Nat
  node : Nat
  deriving DecidableEq, Repr

/-- HDM decoder r (R51, R160): the range of host addresses that it decodes, none while it is not committed. -/
structure Hdm where
  base : Nat
  size : Nat
  committed : Bool
  deriving DecidableEq, Repr

/-- The decoder after a reset: not committed (R77). -/
def Hdm.reset : Hdm := { base := 0, size := 0, committed := false }

/-- A rood (chapter 2) with everything it owns. -/
structure Rood where
  num : Nat
  firstSg : Nat
  width : Nat
  flashShare : Nat
  fenced : Bool
  /-- The host interface reads its intake slots (R79, R473). -/
  intakeOn : Bool
  /-- Nothing is written to host memory (R80, R471, R472). -/
  quiet : Bool
  /-- The link presents only CXL.io: no line of host memory is read or written (R163). -/
  cacheOff : Bool
  /-- Stack groups whose scrub has not ended its read-back (R77). -/
  scrubbing : List Nat
  /-- Steps may run: the first budget interval has begun (R542). -/
  powered : Bool
  storageKey : BitVec 256
  regs : RoodRegs
  irings : List IRing
  crings : List CRing
  cmds : List Cmd
  nextCmd : Nat
  slots : List (Nat × Slot)
  /-- Generation of every slot that `slots` does not list: 1, or what a restore left (R87, R431). -/
  baseGen : Nat
  freeLists : List FreeList
  kv : Kv
  obj : Objects
  seqs : List Seq
  nextOrder : Nat
  crews : List Crew
  moves : List Move
  holds : List Hold
  arrivals : List Arrival
  vecs : List VecIndex
  vecOps : List VecOp
  /-- Vector commands that wait: serial ones (R363), and any that a restore holds back (R426). -/
  vecQueue : List Nat
  /-- Requests of peers whose payload is still arriving: device, operation, bytes so far (R387). -/
  vecReqs : List (Nat × Nat × List Byte)
  ckp : Ckp
  flash : List FlashObj
  nextObj : Nat
  nextChan : Nat
  freedExts : List Extent
  snapNumber : Nat
  tally : Tally
  carried : Option Tally
  rebuilding : List DramObj
  /-- Window stores by tile number; a tile that is not listed has an empty one (R226). -/
  wins : List (Nat × WindowStore)
  /-- The lexicon cache of each position, the node used last first (R172). -/
  lex : List (List LexNode)
  hdm : Hdm
  /-- The staging region of the bulk window, from its offset 0 (R51, R52); an unlisted byte reads zero. -/
  staging : List Host.Cell
  /-- Lines of the staging region that a read finds bad: true for an uncorrectable DRAM error (Table 16.2), false for CXL
  poison (Table 16.1, class 0x0D). -/
  stagingBad : List (Nat × Bool)
  /-- Host memory as the device's writes have left it (log entry 6). -/
  host : List Host.Cell
  fx : List Fx
  deriving DecidableEq, Repr

/-! ## The device -/

/-- Everything of the device but its time and its pins. -/
structure Dev where
  boot : Boot
  comp : Comp
  layout : List LayoutEntry
  pendingLayout : Option (List LayoutEntry)
  side : Sideband
  energy : Energy
  flash : Flash
  chain : Chain
  integ : Integrity
  regs : DevRegs
  snap : DevSnap
  counters : List (CtrKey × Nat)
  roods : List Rood
  out : List Output
  deriving DecidableEq, Repr

/-- The state of the block: its waiting commands, its time, its pins, its test access port and the device. -/
structure State where
  pending : List Instr
  clock : Clock
  pins : Pins
  tap : Tap
  dev : Dev
  deriving DecidableEq, Repr

/-! ## Reset: the part before its first assertion of PWRGD

Every register stands at the Reset column of its map (R17); what the manual gives no value is named in log entry 5. -/

/-- An empty defect map: eight free spares and nothing marked (Table 17.4, R483). -/
def DefectMap.none : DefectMap :=
  { spares := List.replicate 8 0xFF, sgFailed := 0, flashFailed := 0, portFailed := 0, bridgeFailed := 0, tileFailed := 0 }

/-- The part's fuses and mask ROM (log entry 10). R57: every part ships in the PRODUCTION lifecycle state. -/
def Fuses.reset : Fuses :=
  { uds := Config.uds, secVersion := Config.secVersion, production := true, devSerial := Config.devSerial
    romDigest := Config.romDigest, licenceKey := Config.licenceKey, certs := Config.fusedCerts }

/-- A blank NOR (R483). -/
def Nor.blank : Nor := { copyA := [], copyB := [], trainA := none, trainB := none }

/-- Power off, with a blank NOR (R483). -/
def Boot.reset : Boot :=
  { fuses := Fuses.reset, phase := .off, fast := false, step := 0, code := 0, codes := []
    unitCodes := [], histUnits := [], nor := Nor.blank, inForce := .none, inA := false, wasInProgress := false, trainWrites := 0, trainedInFull := false, image := [], licence := .none
    retained := false, noFast := false, resetTime := 0, dik := 0, dxk := 0, ak := 0, draws := 0, nominal := []
    defects := DefectMap.none, layout := [], cause := .none }

/-- DEV_TIME reads zero at the first edge after PWRGD (R36). -/
def Clock.reset : Clock := { time := 0, armed := true }

/-- Every signal deasserted and every output released (Table 20.5). -/
def Pins.reset : Pins := { vaux := false, pwrgd := false, warmRst := false }

/-- The test access port shifts nothing yet; instruction 0 is IDCODE (log entry 5). -/
def Tap.reset : Tap := { instr := 0, driving := false, cells := [], shifted := [], samples := 0 }

def Log.empty : Log := { head := 0, entries := [] }

/-- An MSI-X table at reset: every Mask bit set (R77, PCI Express Base Specification). -/
def msixReset (n : Nat) : List MsixEntry :=
  List.replicate n { addr := 0, data := 0, masked := true, pend := false }

def Comp.reset : Comp :=
  { composed := false, releasing := false, ended := false, serial := 0, nextSerial := 0, serialLimit := 0, tenant := [], composeTime := 0
    packageGrains := 0, releaseTime := 0, closed := [], sealedTally := [] }

def Telemetry.reset : Telemetry :=
  { time := 0, cap := 1100, sidebandCap := 1100, power := 0, tileTemp := 0, stackTemp := 0, fault := 0, boot := 0
    sgFailed := 0, composed := false, thermAlert := false }

/-- Both limits at 1,100 W and every bank at 0 (R433, R434, R436). -/
def Energy.reset : Energy :=
  { sidebandCap := 1100, hostCap := 1100, inForce := 1100, share := 0, bank := List.replicate 24 0, shared := 0
    interval := 0, active := List.replicate 24 false, supply := List.replicate 104 0, ceiling := List.replicate 104 920
    busy := List.replicate 104 false, ran := List.replicate 104 false, ro := List.replicate 104 0, tileTemp := List.replicate 104 0
    stackTemp := List.replicate 24 0, doubleRefresh := List.replicate 24 false, hotHalf := List.replicate 24 false
    lowHalf := List.replicate 24 false, blind := [], sensorLost := [], powerHist := [], thermAlert := false
    thermTrip := false, telemetry := Telemetry.reset }

/-- A port that is down. -/
def Port.down : Port := { up := false, training := false, neighbour := 0, reach := [] }

def Chain.reset : Chain := { ports := List.replicate 8 Port.down, pairs := [], nextOp := 1 }

def Integrity.reset : Integrity :=
  { resets := [], tileResetAt := [], sgFailedAt := [], sgFailed := 0, refLoss := false, clockLost := false, quadReset := 0
    recovery := false, standIns := [], nextAssay := [0, 24, 48, 72], assaying := [] }

def DevSnap.reset : DevSnap :=
  { number := 0, busy := false, latched := List.replicate 32 0, shadows := List.replicate 32 0, waiting := [] }

def DevRegs.reset : DevRegs :=
  { misaccess := false, linkRate := 0, linkWidth := 0, log := Log.empty, msix := msixReset 8 }

def Dev.reset : Dev :=
  { boot := Boot.reset, comp := Comp.reset, layout := [], pendingLayout := .none
    side := { usable := false, running := .none, queue := [] }, energy := Energy.reset
    flash := { limit := 0, luns := [], blocks := [], freed := [] }, chain := Chain.reset, integ := Integrity.reset
    regs := DevRegs.reset, snap := DevSnap.reset, counters := [], roods := [], out := [] }

/-- The part before its first assertion of PWRGD, with an empty queue (log entry 3). -/
def State.reset : State :=
  { pending := [], clock := Clock.reset, pins := Pins.reset, tap := Tap.reset, dev := Dev.reset }

/-! ## Outcomes that are no next state -/

/-- Why a step faults. -/
inductive Fault where
  /-- BULK_WINDOW_WRITE at an address that no bulk window holds (R51, R52): the address does not exist. Safe: the model stops
  where the hardware has no such access. -/
  | outsideBulkWindow
  deriving DecidableEq, Repr

/-- Why a step is refused. -/
inductive Refusal where
  /-- An arm of exec whose meaning is not written. Safe: the model stops. -/
  | notModelled (mnemonic : String)
  deriving DecidableEq, Repr

end Sys2Proof.Machine
end

