-- ==== Sys2Proof/Machine/Ops.lean ====
section
/-! DEFINITION. The operations every family shares: memory in its canonical form, logs, MSI-X vectors, counters, and the
lifting of an operation of one rood or of the device to the state. -/
namespace Sys2Proof.Machine
open Sys2Proof

/-! ## Memory: address and byte pairs, strictly rising, no listed byte zero; an unlisted byte reads zero (log entry 6) -/

abbrev Memory := List Host.Cell

/-- The canonical form: addresses strictly rising and no listed byte equal to what an unlisted one reads. -/
abbrev Memory.wf (m : Memory) : Prop := m.Pairwise (fun a b => a.1 < b.1) ∧ ∀ c ∈ m, c.2 ≠ 0

/-- One byte. -/
def memRead (m : Memory) (a : Nat) : Byte :=
  match m.find? (fun c => c.1 == a) with
  | some c => c.2
  | none => 0

/-- The cells of a run of bytes at `a`, zero bytes left out. -/
def memRun : (a : Nat) → List Byte → Memory
  | _, [] => []
  | a, b :: bs => if b = 0 then memRun (a + 1) bs else (a, b) :: memRun (a + 1) bs

/-- Stores `bs` at `a` and the addresses after it. -/
def memWrite (m : Memory) (a : Nat) (bs : List Byte) : Memory :=
  m.filter (fun c => c.1 < a) ++ memRun a bs ++ m.filter (fun c => a + bs.length ≤ c.1)

/-- `n` bytes from cells whose addresses are at least `a`. -/
def memReadRun : (n a : Nat) → Memory → List Byte
  | 0, _, _ => []
  | n + 1, a, [] => 0 :: memReadRun n (a + 1) []
  | n + 1, a, (k, b) :: m => if k = a then b :: memReadRun n (a + 1) m else 0 :: memReadRun n (a + 1) ((k, b) :: m)

/-- `n` bytes at `a`. -/
def memReadN (m : Memory) (a n : Nat) : List Byte := memReadRun n a (m.dropWhile (fun c => c.1 < a))

/-! ## Counters (R500) -/

/-- Every counter saturates at 2^64 - 1 (R500). -/
def counterMax : Nat := 2 ^ 64 - 1

def counterGet (k : CtrKey) (l : List (CtrKey × Nat)) : Nat :=
  match l.find? (fun p => p.1 == k) with
  | some p => p.2
  | none => 0

def counterSet (k : CtrKey) (v : Nat) (l : List (CtrKey × Nat)) : List (CtrKey × Nat) :=
  if l.any (fun p => p.1 == k) then l.map (fun p => if p.1 == k then (k, v) else p) else (k, v) :: l

/-- Adds to a counter; a counter that nothing has counted holds zero (R500). -/
def counterAdd (k : CtrKey) (n : Nat) (l : List (CtrKey × Nat)) : List (CtrKey × Nat) :=
  if n = 0 then l else counterSet k (min counterMax (counterGet k l + n)) l

/-- A number for each counter, for the free counts of log entry 18. -/
def CtrKey.code (k : CtrKey) : Nat :=
  let s := match k.set with
    | .tile => 0
    | .bank => 1
    | .slice => 2
    | .sg => 3
    | .rood => 4
    | .device => 5
  s + 8 * (k.idx + 32 * k.unit)

def Dev.count (set : CtrSet) (unit idx n : Nat) (d : Dev) : Dev :=
  { d with counters := counterAdd ⟨set, unit, idx⟩ n d.counters }

/-! ## Logs (R521, R522) -/

/-- Writes an entry: the next SEQ, the head, and at most `size` entries held. -/
def Log.write (size : Nat) (e : LogEntry) (l : Log) : Log :=
  { head := l.head + 1, entries := ({ e with seq := l.head + 1 } :: l.entries).take size }

/-- The entry that stands at place `p` of a log of `size` entries (R521). -/
def Log.at (size p : Nat) (l : Log) : Option LogEntry :=
  l.entries.find? (fun e => decide (1 ≤ e.seq) && (e.seq - 1) % size == p)

/-- An entry with nothing named: ROOD, QUAD and SG 0xFF, unit kind 0 (Table 19.16, Table 19.20). -/
def LogEntry.plain (time : W64) (kind code detail : Nat) : LogEntry :=
  { seq := 0, time := time, kind := kind, cls := 0, code := code, reaction := 0, rood := 0xFF, sessions := 0, quad := 0xFF
    sg := 0xFF, unitKind := 0, unit := 0, detail := detail }

/-- Word 2 of an entry (Table 19.16). -/
def LogEntry.word2 (e : LogEntry) : Nat :=
  e.kind <<< 56 ||| e.cls <<< 48 ||| e.code <<< 32 ||| e.reaction <<< 24 ||| e.rood <<< 16 ||| min e.sessions 0xFFFF

/-- Word 3 of an entry (Table 19.16). -/
def LogEntry.word3 (e : LogEntry) : Nat :=
  e.quad <<< 56 ||| e.sg <<< 48 ||| e.unitKind <<< 40 ||| e.unit <<< 32 ||| (e.detail % 2 ^ 32)

def Dev.log (e : LogEntry) (d : Dev) : Dev := { d with regs := { d.regs with log := d.regs.log.write 256 e } }

/-! ## MSI-X (R158, R514) -/

/-- Sends the message of a vector, or sets its pending bit while it is masked; the flag says a message left. -/
def msixRaise (vec : Nat) (l : List MsixEntry) : List MsixEntry × Bool :=
  match l[vec]? with
  | some e => if e.masked then (l.set vec { e with pend := true }, false) else (l, true)
  | none => (l, false)

/-- Sends a message of the physical function. -/
def Dev.pfMsix (vec : Nat) (d : Dev) : Dev :=
  let p := msixRaise vec d.regs.msix
  { d with regs := { d.regs with msix := p.1 }, out := if p.2 then d.out ++ [.msix 0 vec] else d.out }

/-! ## Status words computed from the device (chapters 16, 17, 19) -/

/-- Bit r: rood r is fenced (Table 16.5). -/
def Dev.fencedBits (d : Dev) : Nat := (d.roods.map (fun r => if r.fenced then 2 ^ r.num else 0)).sum

/-- A FAILED bit names a stack group of a rood (R475). -/
def Dev.failedInRood (d : Dev) : Bool :=
  d.layout.any (fun e => (List.range e.width).any (fun i => d.integ.sgFailed.getLsbD (e.firstSg + i)))

/-- FAULT_N, by assertion (R474, R475, R486); released while PWRGD is deasserted (Table 20.5). -/
def Dev.faultN (d : Dev) : Bool :=
  d.boot.phase != .off &&
    (d.fencedBits != 0 || d.integ.refLoss || d.integ.quadReset != 0 || d.energy.thermTrip || d.failedInRood ||
      d.boot.phase == .stopped)

/-- DEV_FAULT (Table 16.5). -/
def Dev.faultReg (d : Dev) : Nat :=
  bit d.faultN <<< 31 ||| bit d.integ.recovery <<< 30 ||| bit d.energy.thermTrip <<< 29 ||| bit d.integ.refLoss <<< 28 |||
    d.integ.quadReset.toNat <<< 24 ||| d.fencedBits % 2 ^ 16

/-- DEV_BOOT_STATUS (Table 17.9); a thermal trip is no reset, so READY stays. -/
def Dev.bootReg (d : Dev) : Nat :=
  bit (d.boot.phase == .ready || d.boot.phase == .tripped true) <<< 31 ||| bit (d.boot.phase == .stopped) <<< 30 ||| bit d.boot.fast <<< 29 |||
    d.boot.step % 32 <<< 24 ||| d.boot.code % 2 ^ 16

/-- The messages of Table 19.17 that a change of the device causes (R518). -/
def Dev.signal (old new : Dev) : Dev :=
  let v := fun (b : Bool) (n : Nat) (d : Dev) => if b then d.pfMsix n else d
  v (new.regs.log.head != old.regs.log.head && new.regs.log.head != 0) 0 <|
  v (new.faultReg != old.faultReg) 1 <|
  v ((new.boot.phase == .ready && old.boot.phase != .ready) || (new.boot.phase == .stopped && old.boot.phase != .stopped)) 2 <|
  v (new.snap.number != old.snap.number) 3 <|
  v (new.energy.thermAlert && !old.energy.thermAlert) 4 <|
  v (new.energy.inForce != old.energy.inForce) 5 new

/-! ## Lifting -/

/-- The roods take part in work: the device is READY and composed, and no release has passed step 5 of Table 2.11. -/
def Dev.roodsLive (d : Dev) : Bool := d.boot.phase == .ready && d.comp.composed && !d.comp.releasing

/-- The link runs at 32 GT/s or above and is ×4 or wider: less gives CXL.io alone (R163). -/
def Dev.linkFull (d : Dev) : Bool := decide (5 ≤ d.regs.linkRate) && decide (4 ≤ d.regs.linkWidth)

/-- CXL.cache and CXL.mem are offered: READY, composition, and such a link (R163, R499). -/
def Dev.cxlReady (d : Dev) : Bool := d.roodsLive && d.linkFull

/-- What the work of one rood may read of the rest of the device. -/
structure Ctx where
  time : W64
  dev : Dev

/-- The answer of a meaning that goes on. -/
abbrev Result := Host.Outcome State Fault Refusal

/-- A meaning that acts on the device alone: time, pins, test port and queue stay. -/
def onDev (f : W64 → Dev → Dev) (s : State) : State := { s with dev := Dev.signal s.dev (f s.clock.time s.dev) }

def Dev.rood? (d : Dev) (r : Nat) : Option Rood := d.roods.find? (fun x => x.num == r)

def Dev.setRood (x : Rood) (d : Dev) : Dev := { d with roods := d.roods.map (fun y => if y.num == x.num then x else y) }

end Sys2Proof.Machine
end

