-- ==== Sys2Proof/Machine/Rings.lean ====
section
/-! DEFINITION. A rood at its formation, its session slots, its intake and completion rings and its interrupts (chapters 3,
4, 19). Operations on one rood read the rest of the device through `Ctx` and leave what they ask of it in `Rood.fx`. -/
namespace Sys2Proof.Machine
open Sys2Proof

/-! ## Status codes (Table 3.6) and yield reasons (Table 3.5) -/

abbrev stOk : Nat := 0x00
abbrev stYield : Nat := 0x01
abbrev stBadOpcode : Nat := 0x02
abbrev stBadHandle : Nat := 0x03
abbrev stBadState : Nat := 0x04
abbrev stLength : Nat := 0x05
abbrev stFormat : Nat := 0x06
abbrev stAdmitMem : Nat := 0x07
abbrev stAdmitTime : Nat := 0x08
abbrev stNoPecks : Nat := 0x09
abbrev stDeadlock : Nat := 0x0A
abbrev stNotLicensed : Nat := 0x0B
abbrev stAuth : Nat := 0x0C
abbrev stSuspect : Nat := 0x0D
abbrev stCancelled : Nat := 0x0E
abbrev stPeer : Nat := 0x0F
abbrev stShape : Nat := 0x10
abbrev stIncomplete : Nat := 0x11
abbrev stContextLimit : Nat := 0x12
abbrev stMedia : Nat := 0x13

abbrev yStopString : Nat := 1
abbrev yStopToken : Nat := 2
abbrev yMaxTokens : Nat := 3
abbrev yStreamFull : Nat := 4
abbrev yContextLimit : Nat := 5
abbrev yCancel : Nat := 6
abbrev yDeadlock : Nat := 7
abbrev yNoPecks : Nat := 8

/-! ## A rood as composition or a layout change forms it -/

/-- The slots of a rood of `w` stack groups (R85). -/
def slotCount (w : Nat) : Nat := 16777216 * w / 24

/-- Rood registers at their reset values (Tables 4.1 to 4.3, 12.9, 13.12, 13.13, 14.4, 14.6, 15.6, 19.11 to 19.15). -/
def RoodRegs.reset : RoodRegs :=
  { logEvent := false, addrFault := false, misaccess := false, configErr := false, evtEnable := false, evtVector := 31
    idxBase := 0, latLimit := [500, 5000, 0], frameFloor := 0, ckpCtl := BitVec.ofNat 64 (8 <<< 8), ckpPeers := 0
    lineage := 0, chainAccept := 0, mirror := 0, vecShard := [0, 0, 0, 0], msix := msixReset 32, log := Log.empty }

def IRing.reset : IRing :=
  { base := 0, enable := false, sizeLog2 := 0, cring := 0, next := 0, consWritten := 0, lines := [] }

def CRing.reset : CRing :=
  { base := 0, enable := false, sizeLog2 := 0, vector := 0, timeUs := 0, count := 1, prod := 0, cons := 0, reserved := 0
    unsignalled := 0, oldest := 0, held := [] }

/-- A tally at its opening (Table 18.4, R508). -/
def Tally.fresh (rood width serial : Nat) (time : W64) : Tally :=
  { rood := rood, width := width, composition := serial, openTime := time, time := time, grains := 0, sharedGrains := 0
    activeNs := 0, tokensGenerated := 0, positionsPrefilled := 0, textBytesIn := 0, streamBytes := 0, vecScores := 0
    frameIntervals := 0, extentIntervals := 0, chainBytesOut := 0, chainBytesIn := 0, sessionsOpened := 0, loads := 0
    events := 0, peakFrames := 0, closed := false, carried := false, eventChain := zeros 48 }

def Ckp.reset : Ckp :=
  { nextSeq := 1, ref := none, run := none, restore := none, queue := [], trigger := none, steps := 0, trailing := []
    incoming := [] }

def Objects.reset : Objects :=
  { models := [], adapters := [], openLoad := none, tables := [], lists := [], loadSeq := 0, eventChain := zeros 48
    queue := [], emptying := [] }

def Kv.reset (w : Nat) : Kv := { frames := [], lines := [], zeroing := [], labs := List.replicate w [] }

/-- The free lists of a rood of `w` stack groups: every slot FREE, in ascending order (R87, R89). -/
def freeListsReset (w : Nat) : List FreeList :=
  (List.range w).map (fun p => { head := [], fresh := p, skip := [], tail := [] })

/-- A rood after a scrub: every slot FREE with generation 1, every register at reset, nothing loaded (R77, R87, R515). It
accepts no work and holds no storage key until composition gives it one (R60, R79). -/
def Rood.form (num firstSg width flashShare : Nat) : Rood :=
  { num := num, firstSg := firstSg, width := width, flashShare := flashShare, fenced := false, intakeOn := false
    quiet := true, cacheOff := true, scrubbing := [], powered := false, storageKey := 0, regs := RoodRegs.reset
    irings := List.replicate 8 IRing.reset, crings := List.replicate 8 CRing.reset, cmds := [], nextCmd := 0, slots := [], baseGen := 1
    freeLists := freeListsReset width, kv := Kv.reset width, obj := Objects.reset, seqs := [], nextOrder := 0, crews := []
    moves := [], holds := [], arrivals := [], vecs := [], vecOps := [], vecQueue := [], vecReqs := [], ckp := Ckp.reset, flash := [], nextObj := 1
    nextChan := 0, freedExts := [], snapNumber := 0, tally := Tally.fresh num width 0 0, carried := none, rebuilding := []
    wins := [], lex := List.replicate width [], hdm := Hdm.reset
    staging := [], stagingBad := [], host := [], fx := [] }

/-! ## Requests to the rest of the device -/

def Rood.ask (f : Fx) (x : Rood) : Rood := { x with fx := f :: x.fx }

/-- Counts in the rood set (Table 18.1). -/
def Rood.count (idx n : Nat) (x : Rood) : Rood := if n = 0 then x else x.ask (.count ⟨.rood, x.num, idx⟩ n)

/-- Counts in the slice set of a stack group given by position. -/
def Rood.countSlice (pos idx n : Nat) (x : Rood) : Rood :=
  if n = 0 then x else x.ask (.count ⟨.slice, x.firstSg + pos, idx⟩ n)

/-- Counts in the slice that the step director assigns (R28, R179, R296). -/
def Rood.countAssigned (slot position idx n : Nat) (x : Rood) : Rood := if n = 0 then x else x.ask (.assigned slot position idx n)

/-- Counts in the set of bank engine `c` of the stack group at a position. -/
def Rood.countBank (pos c idx n : Nat) (x : Rood) : Rood :=
  if n = 0 then x else x.ask (.count ⟨.bank, 64 * (x.firstSg + pos) + c, idx⟩ n)

def Rood.mapTally (f : Tally → Tally) (x : Rood) : Rood := { x with tally := f x.tally }

/-! ## MSI-X messages of the rood's function (R158, R517) -/

/-- Sends a message on a vector of the rood, or sets its pending bit; nothing leaves while the rood is quiet (R80). -/
def Rood.msix (vec : Nat) (x : Rood) : Rood :=
  if x.quiet then x
  else
    let p := msixRaise vec x.regs.msix
    let x := { x with regs := { x.regs with msix := p.1 } }
    if p.2 then (x.ask (.out (.msix (x.num + 1) vec))).count 3 1 else x

/-- Writes an entry in ROOD_ERR_LOG, sets LOG_EVENT and sends the event message (R517, R521, Table 19.18). -/
def Rood.logOwn (e : LogEntry) (x : Rood) : Rood :=
  let x := { x with regs := { x.regs with log := x.regs.log.write 64 e, logEvent := true } }
  if x.regs.evtEnable then x.msix x.regs.evtVector else x

/-- A configuration entry of the rood with its CONFIG_ERR bit (R519, Table 19.18). -/
def Rood.configEntry (time : W64) (code off : Nat) (x : Rood) : Rood :=
  ({ x with regs := { x.regs with configErr := true } }).logOwn { LogEntry.plain time 0x04 code off with rood := x.num }

/-! ## Host memory (log entry 6) -/

/-- A write of the device to host memory; a quiet rood writes nothing (R79, R80, R471, R472), and so does one whose link presents
only CXL.io (R163). -/
def Rood.hostWrite (a : Nat) (bs : List Byte) (x : Rood) : Rood :=
  if x.quiet || x.cacheOff then x else { x with host := memWrite x.host a bs }

/-! ## Completion rings (R140, R149 to R151, R158) -/

def CRing.legal (c : CRing) : Bool := decide (6 ≤ c.sizeLog2) && decide (c.sizeLog2 ≤ 16)

/-- Records written and not yet read by host software, in unsigned 32-bit arithmetic (R134). -/
def CRing.unread (c : CRing) : Nat := (c.prod + 2 ^ 32 - c.cons) % 2 ^ 32

/-- R140: a reservation is possible. -/
def CRing.canReserve (c : CRing) : Bool := c.legal && decide (c.reserved + c.unread < 2 ^ c.sizeLog2)

/-- The 32 bytes of a record at producer index `p` of a ring of 2^k records (Table 4.7). -/
def CRec.bytes (p k : Nat) (r : CRec) : List Byte :=
  let phase := 1 - (p >>> k) % 2
  leBytes 4 (r.status ||| phase <<< 8 ||| r.yield <<< 9 ||| bit r.implicitRevival <<< 13 ||| bit r.nothingDone <<< 14 |||
      bit r.flagged <<< 15 ||| bit r.byteTokens <<< 16 ||| bit r.carried <<< 17 ||| r.opcode <<< 24) ++
    leBytes 4 r.handle ++ leBytes 8 r.tag.toNat ++ r.result.flatMap (leBytes 4)

/-- R158: the message is due. -/
def CRing.due (now : W64) (irq : Bool) (c : CRing) : Bool :=
  decide (0 < c.unsignalled) &&
    (irq || decide (max c.count 1 ≤ c.unsignalled) || decide (c.oldest.toNat + 1000 * c.timeUs ≤ now.toNat))

def Rood.modCring (n : Nat) (f : CRing → CRing) (x : Rood) : Rood := { x with crings := modIdx n f x.crings }

/-- Sends the message of ring `n` when it is due; it signals every unsignalled record. -/
def Rood.moderate (now : W64) (n : Nat) (irq : Bool) (x : Rood) : Rood :=
  match x.crings[n]? with
  | some c =>
    if c.due now irq then (x.modCring n (fun c => { c with unsignalled := 0, oldest := 0 })).msix c.vector else x
  | none => x

/-- Writes one record at the next producer index of ring `n`, or holds it while the ring is not enabled or CXL.cache is not
presented (R133, R140, R151, R163; log entry 71). -/
def Rood.writeRecord (now : W64) (n : Nat) (r : CRec) (x : Rood) : Rood :=
  match x.crings[n]? with
  | none => x
  | some c =>
    if x.quiet then x
    else if !c.enable || x.cacheOff then x.modCring n (fun c => { c with held := c.held ++ [r] })
    else
      let x := x.hostWrite (c.base.toNat + 32 * (c.prod % 2 ^ c.sizeLog2)) (r.bytes c.prod c.sizeLog2)
      let x := x.modCring n (fun c => { c with
        prod := (c.prod + 1) % 2 ^ 32, reserved := c.reserved - 1, unsignalled := c.unsignalled + 1
        oldest := if c.unsignalled = 0 then now else c.oldest })
      (x.count 1 1).moderate now n r.irqNow

/-- Writes every record held for ring `n` (R133). -/
def Rood.releaseHeld (now : W64) (n : Nat) (x : Rood) : Rood :=
  match x.crings[n]? with
  | none => x
  | some c => c.held.foldl (fun x r => x.writeRecord now n r) (x.modCring n (fun c => { c with held := [] }))

/-! ## Descriptors (Tables 4.5, 4.6) -/

def dField (raw : BitVec 512) (off lo w : Nat) : Nat := bitsOf raw.toNat (8 * off + lo) w

def Cmd.f (c : Cmd) (off lo w : Nat) : Nat := dField c.raw off lo w

def Cmd.opcode (c : Cmd) : Nat := if c.poisoned then 0 else c.f 0 0 8
def Cmd.handle (c : Cmd) : Nat := if c.poisoned then 0 else c.f 4 0 32
def Cmd.tag (c : Cmd) : Nat := if c.poisoned then 0 else c.f 8 0 64
def Cmd.irqNow (c : Cmd) : Bool := !c.poisoned && c.f 0 9 1 == 1

/-- The bit ranges, as low bit and width in the 512-bit descriptor, that Table 4.6 lists for an opcode's body and OPFLAGS;
none for an opcode that the table does not list. -/
def bodyFields : Nat → Option (List (Nat × Nat))
  | 0x01 => some [(128, 12), (160, 24), (192, 64)]
  | 0x02 => some [(16, 1), (416, 32), (448, 64)]
  | 0x03 => some [(128, 32), (160, 32), (192, 64), (256, 32), (288, 32), (320, 64), (384, 16)]
  | 0x04 => some [(16, 1), (128, 32), (160, 32), (192, 64), (256, 32), (288, 32), (320, 64), (384, 16), (416, 32), (448, 64)]
  | 0x05 => some [(128, 2), (192, 64)]
  | 0x06 => some []
  | 0x07 => some []
  | 0x08 => some []
  | 0x0B => some []
  | 0x09 => some [(160, 32), (192, 64)]
  | 0x0A => some [(128, 5), (136, 4)]
  | 0x10 => some [(16, 1), (128, 16), (192, 64), (256, 64)]
  | 0x11 => some [(16, 1), (128, 16)]
  | 0x12 => some [(192, 64), (256, 64)]
  | 0x13 => some [(128, 8), (192, 64), (256, 64)]
  | 0x20 => some [(128, 2), (132, 4), (136, 4), (160, 16), (176, 16), (192, 32)]
  | 0x21 => some [(128, 2), (160, 32), (192, 64), (256, 64)]
  | 0x22 => some [(128, 2), (160, 32), (192, 64), (256, 64)]
  | 0x23 => some [(128, 2), (136, 1), (160, 16), (176, 16), (192, 16), (224, 32), (256, 64), (320, 64), (384, 32)]
  | 0x24 => some [(128, 2)]
  | 0x25 => some [(128, 2)]
  | 0x30 => some [(128, 2), (130, 1), (131, 1)]
  | 0x31 => some [(128, 2), (192, 64)]
  | 0x38 => some [(160, 32), (192, 64)]
  | 0x3F => some []
  | _ => none

/-- The opcode names a session, so HANDLE may be non-zero (R142, Table 4.6; SES_OPEN's handle is zero under R99). -/
def namesSession (op : Nat) : Bool := decide (2 ≤ op) && decide (op ≤ 0x0B)

/-- Some bit outside the header's and the body's fields is set (R20, R141). -/
def reservedSet (raw : BitVec 512) (op : Nat) : Bool :=
  let used := [(0, 11), (32, 32), (64, 64)] ++ (bodyFields op).getD []
  let mask := used.foldl (fun m p => m ||| ((2 ^ p.2 - 1) <<< p.1)) 0
  raw.toNat &&& mask != raw.toNat

/-- Reserved fields zero, and HANDLE zero where no session is named (R20, R142). -/
def Cmd.wellFormed (c : Cmd) : Bool :=
  !reservedSet c.raw c.opcode && (namesSession c.opcode || c.handle == 0)

/-! ## Completion of a command -/

/-- The plain record of a command: its opcode, handle and tag with RESULT zero (R149, R150). -/
def Cmd.record (c : Cmd) (status : Nat) : CRec :=
  { status := status, yield := 0, implicitRevival := c.implicitRevival, nothingDone := false, flagged := c.flagged
    byteTokens := false, carried := false, opcode := c.opcode, handle := c.handle, tag := BitVec.ofNat 64 c.tag
    result := [0, 0, 0, 0], irqNow := c.irqNow }

/-- R150: with any other status RESULT is zero. -/
def CRec.tidy (r : CRec) : CRec :=
  if r.status = stOk ∨ r.status = stYield ∨ r.status = stContextLimit ∨ r.status = stCancelled ∨ r.status = stDeadlock ∨
    r.status = stNoPecks then r else { r with result := [0, 0, 0, 0] }

/-- Removes the command and writes its record. -/
def Rood.complete (now : W64) (c : Cmd) (r : CRec) (x : Rood) : Rood :=
  ({ x with cmds := x.cmds.filter (fun d => d.id != c.id) }).writeRecord now c.cring r.tidy

/-- Completes a command with a status and RESULT zero. -/
def Rood.fail (now : W64) (c : Cmd) (status : Nat) (x : Rood) : Rood := x.complete now c (c.record status)

def Rood.cmd? (id : Nat) (x : Rood) : Option Cmd := x.cmds.find? (fun c => c.id == id)

def Rood.setCmd (c : Cmd) (x : Rood) : Rood :=
  { x with cmds := x.cmds.map (fun d => if d.id == c.id then c else d) }

/-! ## Intake (R135 to R140, R153, R470, R540) -/

/-- Writes IRING_CONS_n in the device index line (R135). -/
def Rood.writeCons (n : Nat) (x : Rood) : Rood :=
  match x.irings[n]? with
  | none => x
  | some i =>
    let x := x.hostWrite (x.regs.idxBase.toNat + 64 + 4 * n) (leBytes 4 i.next)
    { x with irings := modIdx n (fun i => { i with consWritten := i.next }) x.irings }

/-- An event of class 0x0D: poisoned host data, logged in both logs (Table 16.1, R476, R540). -/
def Rood.poisonEvent (now : W64) (x : Rood) : Rood :=
  let e := { LogEntry.plain now 0x01 0 0 with
    cls := 0x0D, reaction := 0x09, rood := x.num, quad := 0, unitKind := 0x09 }
  ((((x.logOwn e).ask (.log e)).ask (.count ⟨.device, 0, 5⟩ 1)).count 13 1).mapTally (fun t => { t with events := t.events + 1 })

/-- The command that a slot's line holds (R137, R540). -/
def Cmd.ofLine (id n cring : Nat) (line : SlotLine) : Cmd :=
  { id := id, ring := n, cring := cring, raw := (match line with | .clean raw => raw | .poison => 0)
    poisoned := (match line with | .clean _ => false | .poison => true), stage := .accepted, tokSeq := 0, listSeq := 0
    conv := none, failed := 0, implicitRevival := false, flagged := false, stopToks := [], stopStrs := [], floor := 0, shards := 0
    object := [], frames := [], embeds := [] }

/-- The consumer index of ring `n` moves on, and a record of ring `cring` is reserved (R140). -/
def Rood.takeSlot (c : Cmd) (x : Rood) : Rood :=
  ({ x with
    nextCmd := x.nextCmd + 1, cmds := x.cmds ++ [c]
    irings := modIdx c.ring (fun i => { i with next := (i.next + 1) % 2 ^ 32 }) x.irings }).modCring c.cring
      (fun r => { r with reserved := r.reserved + 1 })

/-- Sixteen slots of the ring have been accepted since IRING_CONS_n was last written (R135). -/
def Rood.consDue (n : Nat) (x : Rood) : Bool :=
  match x.irings[n]? with
  | some i => decide (16 ≤ (i.next + 2 ^ 32 - i.consWritten) % 2 ^ 32)
  | none => false

/-- What completes at acceptance: a poisoned slot, an opcode that Table 4.6 does not list and, in a fenced rood, every
listed opcode but NOP (R540, Table 3.3, R470). -/
def Rood.judgeSlot (now : W64) (c : Cmd) (x : Rood) : Rood :=
  if c.poisoned then (x.poisonEvent now).fail now c stFormat
  else if (bodyFields c.opcode).isNone then x.fail now c stBadOpcode
  else if x.fenced && c.opcode != 0x3F then x.fail now c stSuspect
  else x

/-- The command with what its acceptance fixes: FRAME_FLOOR (R448), and for a VEC_QUERY the shards of its index (R365). -/
def Cmd.accepting (g : RoodRegs) (c : Cmd) : Cmd :=
  { c with floor := g.frameFloor, shards := if c.opcode = 0x23 then g.vecShard.getD (c.f 16 0 2) 0 else 0 }

/-- Accepts one slot as a command (R138, R140). -/
def Rood.acceptSlot (now : W64) (n : Nat) (i : IRing) (line : SlotLine) (x : Rood) : Rood :=
  let c := (Cmd.ofLine x.nextCmd n i.cring line).accepting x.regs
  let x := (x.takeSlot c).count 0 1
  let x := if x.consDue n then x.writeCons n else x
  x.judgeSlot now c

/-- The line at the next expected slot of ring `n`, when it is posted and may be accepted (R136, R140, R153). -/
def Rood.acceptable (n : Nat) (x : Rood) : Option (IRing × SlotLine) :=
  match x.irings[n]? with
  | none => none
  | some i =>
    if !x.intakeOn || !i.enable then none
    else
      match lookKey (i.next % 2 ^ i.sizeLog2) i.lines, x.crings[i.cring]? with
      | some l, some c =>
        let posted := match l with
          | .clean raw => dField raw 0 8 1 == 1 - (i.next >>> i.sizeLog2) % 2
          | .poison => true
        let fence := match l with
          | .clean raw => dField raw 0 10 1 == 1
          | .poison => false
        if posted && c.canReserve && (!fence || x.cmds.all (fun d => d.ring != n)) then some (i, l) else none
      | _, _ => none

/-- Accepts posted slots, the lowest ring first, while some slot is acceptable (log entry 14). -/
def Rood.pumpAux (now : W64) : (fuel : Nat) → Rood → Rood
  | 0, x => x
  | fuel + 1, x =>
    match (List.range 8).findSome? (fun n => (x.acceptable n).map (fun p => (n, p))) with
    | none => x
    | some (n, i, l) => pumpAux now fuel (x.acceptSlot now n i l)

def Rood.pump (now : W64) (x : Rood) : Rood :=
  x.pumpAux now ((x.irings.map (fun i => i.lines.length)).sum + 1)

/-! ## Session slots (R86 to R89) -/

def handleSlot (h : Nat) : Nat := h % 2 ^ 24
def handleGen (h : Nat) : Nat := h >>> 24

def Rood.slotCap (x : Rood) : Nat := slotCount x.width

/-- The slot; one that nothing has changed is FREE with the base generation (R87). -/
def Rood.slot (i : Nat) (x : Rood) : Slot :=
  (lookKey i x.slots).getD { gen := x.baseGen, entry := none, taken := false }

def Rood.entry? (i : Nat) (x : Rood) : Option Entry := (x.slot i).entry

def Rood.handleOf (i : Nat) (x : Rood) : Nat := (x.slot i).gen <<< 24 ||| i

/-- R88. -/
def Rood.validHandle (h : Nat) (x : Rood) : Bool :=
  decide (handleSlot h < x.slotCap) && (x.slot (handleSlot h)).gen == handleGen h && (x.entry? (handleSlot h)).isSome

def Rood.setSlot (i : Nat) (s : Slot) (x : Rood) : Rood :=
  { x with slots := if s = { gen := x.baseGen, entry := none, taken := false } then delKey i x.slots else putKey i s x.slots }

/-- Replaces the entry of a slot. -/
def Rood.setEntry (i : Nat) (e : Entry) (x : Rood) : Rood := x.setSlot i { x.slot i with entry := some e, taken := false }

/-- Changes the entry of a slot, when it has one. -/
def Rood.modEntry (i : Nat) (f : Entry → Entry) (x : Rood) : Rood :=
  match x.entry? i with
  | some e => x.setEntry i (f e)
  | none => x

/-- Moves a session to a state; LAST_TIME takes the time of a change of STATE (Table 3.1). -/
def Rood.setState (now : W64) (i : Nat) (st : SesState) (kind : Nat) (x : Rood) : Rood :=
  x.modEntry i (fun e => { e with
    state := st, moveKind := kind, lastTime := if e.state = st then e.lastTime else now })

/-- Slots of the manager at position `p` that are not FREE, a slot taken by a fork among them (R89, R120). -/
def Rood.busySlots (p : Nat) (x : Rood) : Nat :=
  (x.slots.filter (fun q => q.1 % x.width == p && (q.2.entry.isSome || q.2.taken))).length

/-- The first index from `i` on, in steps of the width, that a restore left in use (`skip`). -/
def freshFrom (w : Nat) (skip : List Nat) : (fuel : Nat) → Nat → Nat
  | 0, i => i
  | f + 1, i => if skip.contains i then freshFrom w skip f (i + w) else i

/-- The head of a free list: the slot and the list without it; none when the list is empty. -/
def FreeList.pop (cap w : Nat) (l : FreeList) : Option (Nat × FreeList) :=
  match l.head with
  | i :: rest => some (i, { l with head := rest })
  | [] =>
    let i := freshFrom w l.skip l.skip.length l.fresh
    if i < cap then some (i, { l with fresh := i + w })
    else
      match l.tail with
      | i :: rest => some (i, { l with fresh := cap + w, tail := rest })
      | [] => none

/-- R89: the slot at the head of the list of the manager with the fewest non-FREE slots, the lowest position on a tie; a
manager without a FREE slot offers none. -/
def Rood.popSlot (x : Rood) : Option (Nat × Rood) :=
  let cands := (List.range x.width).filterMap (fun p =>
    match x.freeLists[p]? with
    | some l => (l.pop x.slotCap x.width).map (fun q => (x.busySlots p, p, q.1, q.2))
    | none => none)
  match cands.foldl (fun b c => match b with
      | none => some c
      | some d => if c.1 < d.1 then some c else some d) (none : Option (Nat × Nat × Nat × FreeList)) with
  | some (_, p, i, l) => some (i, { x with freeLists := x.freeLists.set p l })
  | none => none

/-- Returns a slot to the tail of its manager's list (R89). -/
def Rood.joinFree (i : Nat) (x : Rood) : Rood :=
  { x with freeLists := modIdx (i % x.width) (fun l => { l with tail := l.tail ++ [i] }) x.freeLists }

/-- The slot becomes FREE: its generation advances and it joins its list (R87, R89). -/
def Rood.freeSlot (i : Nat) (x : Rood) : Rood :=
  (x.setSlot i { gen := (x.slot i).gen % 255 + 1, entry := none, taken := false }).joinFree i

/-- R120: a slot that a failed fork took returns to the head of its list with its generation unchanged. -/
def Rood.untakeSlot (i : Nat) (x : Rood) : Rood :=
  let x := x.setSlot i { x.slot i with taken := false }
  { x with freeLists := modIdx (i % x.width) (fun l => { l with head := i :: l.head }) x.freeLists }

end Sys2Proof.Machine
end

