-- ==== Sys2Proof/Machine/ChainLink.lean ====
section
/-! DEFINITION. The sending side of the chain (chapter 13, Chain ports): the route table, the message form, sequence numbers,
epochs and the window of unacknowledged messages. -/
namespace Sys2Proof.Machine
open Sys2Proof

/-! ## The chain and route tables of the image (Table 17.2, R495) -/

/-- DEVICE_NUMBER of the configuration image. -/
def Dev.number (d : Dev) : Nat := u8At 8 d.boot.image

/-- SHA-384 of a public key in SEC 1 form. -/
def keyDigest (p : EcPoint) : List Byte := sha384 (sec1 p)

/-- Chain ports that the governing licence grants. -/
def Dev.licensedPorts (d : Dev) : BitVec 8 := (d.boot.licence.map (fun l => l.chainPorts)).getD 0

/-- R495: the chain table names this device under its own number. -/
def Dev.chainTableOk (d : Dev) : Bool :=
  cut (4096 + 48 * d.number) 48 d.boot.image == keyDigest (ecPublic d.boot.dik)

/-- A port of a route entry; none for 0xF. -/
def routePort (p : Nat) : Option Nat := if p < 8 then some p else none

/-- A route entry names no port that is not licensed; one that does is taken as 0xFF (R495, code 0x0C02). -/
def Dev.routeOk (e : Nat) (d : Dev) : Bool :=
  (routePort (e % 16)).all (fun p => d.licensedPorts.getLsbD p) && (routePort (e / 16)).all (fun p => d.licensedPorts.getLsbD p)

def Dev.portUp (p : Nat) (d : Dev) : Bool :=
  match d.chain.ports[p]? with
  | some q => q.up
  | none => false

/-- The port towards device `n` that is up, the primary before the alternate (R388). -/
def Dev.route (n : Nat) (d : Dev) : Option Nat :=
  let e := u8At (5632 + n) d.boot.image
  if !d.routeOk e then none
  else
    match (routePort (e % 16)).filter (fun p => d.portUp p) with
    | some p => some p
    | none => (routePort (e / 16)).filter (fun p => d.portUp p)

/-! ## Message form (Table 13.8) -/

/-- The 32 header bytes with a given CRC field. -/
def msgHeader (m : ChainMsg) (crc : Nat) : List Byte :=
  leBytes 4 (m.typ % 256 ||| m.src % 32 <<< 8 ||| m.dst % 32 <<< 16 ||| m.srcRood % 16 <<< 24 ||| m.dstRood % 16 <<< 28) ++
    leBytes 4 m.seq ++ leBytes 4 m.ack ++ leBytes 4 (m.payload.length ||| m.hops % 32 <<< 24) ++
    leBytes 8 m.epoch.toNat ++ leBytes 4 m.op ++ leBytes 4 crc

/-- CRC-32C of the header with its CRC field zero, then of the payload. HOPS counts as 0: a forward changes HOPS and leaves
the CRC, which is checked only at the destination (R388; log entry 21). -/
def msgCrc (m : ChainMsg) : W32 := crc32c (msgHeader { m with hops := 0 } 0 ++ m.payload)

def msgCrcOk (m : ChainMsg) : Bool := m.crc == msgCrc m

/-- The number after `s`: modulo 2^32, skipping 0 (R389). -/
def seqNext (s : Nat) : Nat := if (s + 1) % 2 ^ 32 = 0 then 1 else (s + 1) % 2 ^ 32

/-- Unacknowledged messages that a sender holds on the chain at most (R389). -/
def chainWindow : Nat := 4096

def Pair.fresh (peer : Nat) : Pair :=
  { peer := peer, txOpen := false, txEpoch := 0, txNext := 1, unacked := [], rxOpen := false, rxEpoch := 0, rxSeq := 0
    held := [], origins := [], owesAck := false }

def Dev.pair (peer : Nat) (d : Dev) : Pair := (d.chain.pairs.find? (fun p => p.peer == peer)).getD (Pair.fresh peer)

def Dev.setPair (p : Pair) (d : Dev) : Dev :=
  { d with chain := { d.chain with
      pairs := if d.chain.pairs.any (fun q => q.peer == p.peer)
        then d.chain.pairs.map (fun q => if q.peer == p.peer then p else q) else d.chain.pairs ++ [p] } }

/-- Puts a message on the port of its route, with the pair's present ACK and its CRC; none where no port is up. -/
def Dev.transmit (m : ChainMsg) (d : Dev) : Dev :=
  match d.route m.dst with
  | none => d
  | some p =>
    let m := { m with ack := (d.pair m.dst).rxSeq }
    let d := d.setPair { d.pair m.dst with owesAck := false }
    { d with out := d.out ++ [.chain p { m with crc := msgCrc m }] }

/-- A message of the pair with the next number; it leaves at once when the window has room (R389). -/
def Dev.enqueue (m : ChainMsg) (d : Dev) : Dev :=
  let p := d.pair m.dst
  let m := { m with seq := p.txNext, epoch := p.txEpoch }
  let d := d.setPair { p with txNext := seqNext p.txNext, unacked := p.unacked ++ [m] }
  if p.unacked.length < chainWindow then d.transmit m else d

def msgMake (typ src dst srcRood dstRood op : Nat) (payload : List Byte) : ChainMsg :=
  { typ := typ, src := src, dst := dst, srcRood := srcRood, dstRood := dstRood, seq := 0, ack := 0, hops := 0, epoch := 0
    op := op, payload := payload, crc := 0 }

/-- Opens an epoch towards `peer`: a fresh EPOCH from the security unit and HELLO with SEQ 1 (R391; log entry 9). -/
def Dev.openEpoch (peer : Nat) (d : Dev) : Dev :=
  let e := Config.random64 d.boot.draws
  let d := { d with boot := { d.boot with draws := d.boot.draws + 1 } }
  let d := d.setPair { d.pair peer with txOpen := true, txEpoch := e, txNext := 1, unacked := [] }
  d.enqueue (msgMake 0x3E d.number peer 0 0 0 [])

/-- Messages are carried only after READY (Table 17.10). -/
def Dev.ready (d : Dev) : Bool := d.boot.phase == .ready

/-- A route to the peer exists and the device is READY (R391, R392). -/
def Dev.reaches (peer : Nat) (d : Dev) : Bool := d.ready && peer != d.number && (d.route peer).isSome

/-- The longest payload of one message (Table 13.8). -/
def chainPayload : Nat := 65544

/-- Sends a payload as one or more consecutive messages of an operation (R387): in the open epoch, where they are sent again until the
epoch ends (R390), or on a new one, which needs a route (R391). -/
def Dev.chainSend (peer typ srcRood dstRood op : Nat) (payload : List Byte) (d : Dev) : Dev :=
  if !d.reaches peer && !(d.ready && (d.pair peer).txOpen) then d
  else
    let d := if (d.pair peer).txOpen then d else d.openEpoch peer
    (if payload.isEmpty then [[]] else chunks chainPayload payload).foldl
      (fun d c => d.enqueue (msgMake typ d.number peer srcRood dstRood op c)) d

end Sys2Proof.Machine
end

