-- ==== Sys2Proof/Machine/Lift.lean ====
section
/-! DEFINITION. The lifting of the work of one rood to the state: the rood changes, and what it asked of the rest of the
device then happens in the order in which it was asked. -/
namespace Sys2Proof.Machine
open Sys2Proof

/-- A tile that starts a step after an interval without one takes the lesser of 0.80 V and its ceiling at once (R439); a
tile without a working sensor stays at 0.55 V (Table 16.1, class 0x0B). -/
def Energy.startTile (e : Energy) (t : Nat) : Energy :=
  let e := { e with ran := e.ran.set t true }
  if e.busy.getD t false then e
  else { e with
    supply := e.supply.set t (if e.blind.contains t then 550 else min 800 (e.ceiling.getD t 550)) }

/-- A block's record; one that nothing has changed is good, unread and never erased. -/
def Flash.block (c l b : Nat) (f : Flash) : Block :=
  (f.blocks.find? (fun k => k.chan == c && k.lun == l && k.block == b)).getD
    { chan := c, lun := l, block := b, erases := 0, reads := 0, bad := false, lost := false, worn := false }

def Flash.modBlock (c l b : Nat) (g : Block → Block) (f : Flash) : Flash :=
  { f with blocks := g (f.block c l b) :: f.blocks.filter (fun j => !(j.chan == c && j.lun == l && j.block == b)) }

/-- The logic of a stack group is under reset (Table 16.3). -/
def Dev.sgDown (g : Nat) (d : Dev) : Bool :=
  d.integ.resets.any (fun l => match l with
    | .sg h _ => h == g
    | .quad q _ => g / 6 == q
    | .rood r => match d.rood? r with
      | some x => decide (x.firstSg ≤ g) && decide (g < x.firstSg + x.width)
      | none => false
    | .tile _ => false)

/-- The position whose slice takes a conversion or a selection: the one that the director assigned, or after it the first whose stack
group is not under reset (R456). -/
def Dev.assignedAt (x : Rood) (slot p : Nat) (d : Dev) : Nat :=
  let a := Config.assignSlice slot p
  (((List.range x.width).map (fun i => (a + i) % x.width)).find? (fun q => !d.sgDown (x.firstSg + q))).getD (a % x.width)

/-- What the NAND does from now on: blocks of which a page is beyond every decoding, and blocks that fail a program or an erase. -/
def Flash.wear (w : Wear) (f : Flash) : Flash :=
  w.worn.foldl (fun f p => f.modBlock p.1 p.2.1 p.2.2 (fun k => { k with worn := true }))
    (w.lost.foldl (fun f p => f.modBlock p.1 p.2.1 p.2.2 (fun k => { k with lost := true })) f)

/-- One request of rood `r` (`Rood.fx`). -/
def Dev.applyFx (r : Nat) (f : Fx) (d : Dev) : Dev :=
  match f with
  | .chain peer typ dstRood op payload => d.chainSend peer typ r dstRood op payload
  | .log e => d.log e
  | .out o => { d with out := d.out ++ [o] }
  | .count k n => { d with counters := counterAdd k n d.counters }
  | .assigned slot p i n =>
    match d.rood? r with
    | some x => { d with counters := counterAdd ⟨.slice, x.firstSg + d.assignedAt x slot p, i⟩ n d.counters }
    | none => d
  | .internal k => { d with
      counters := counterAdd k (Config.internalCount (k.code + 2 ^ 20 * d.boot.draws)) d.counters
      boot := { d.boot with draws := d.boot.draws + 1 } }
  | .programmed c l b => { d with flash := d.flash.modBlock c l b (fun k => { k with reads := 0, lost := false }) }
  | .retire c l b => { d with flash := d.flash.modBlock c l b (fun k => { k with bad := true }) }
  | .pagesRead c l b n => { d with flash := d.flash.modBlock c l b (fun k => { k with reads := k.reads + n }) }
  | .start tiles => { d with energy := tiles.foldl Energy.startTile d.energy }
  | .draw => { d with boot := { d.boot with draws := d.boot.draws + 1 } }
  | .op => { d with chain := { d.chain with nextOp := (d.chain.nextOp + 1) % 2 ^ 32 } }

/-- Puts a rood back, with the most pool frames it has had in use (Table 18.4), and carries out its requests, the oldest first. -/
def Dev.flushRood (x : Rood) (d : Dev) : Dev :=
  x.fx.foldr (fun f d => d.applyFx x.num f) (d.setRood { x with
    fx := [], tally := { x.tally with peakFrames := max x.tally.peakFrames x.kv.frames.length } })

/-- A rood after its work: the layout alone decides its number and its stack groups (R45, R46). -/
def Rood.inPlace (x y : Rood) : Rood := { y with num := x.num, firstSg := x.firstSg, width := x.width }

/-- Runs an operation of rood `r`; a rood that does not exist leaves the device as it is (log entry 1). -/
def Dev.atRood (r : Nat) (f : Ctx → Rood → Rood) (time : W64) (d : Dev) : Dev :=
  match d.rood? r with
  | some x => d.flushRood (x.inPlace (f ⟨time, d⟩ x))
  | none => d

/-- Runs an operation of every rood, in ascending number. -/
def Dev.atEach (f : Ctx → Rood → Rood) (time : W64) (d : Dev) : Dev :=
  (d.roods.map (fun x => x.num)).foldl (fun d r => d.atRood r f time) d

/-- A meaning that is the work of one rood; a rood that takes no part in work leaves the device as it is (R79, log entry 1). -/
def onRood (r : Nat) (f : Ctx → Rood → Rood) (s : State) : State :=
  onDev (fun t d => if d.roodsLive then d.atRood r f t else d) s

/-- A meaning of a rood that reads or writes over CXL.cache or CXL.mem: it needs a link that presents them (R163). -/
def onCxl (r : Nat) (f : Ctx → Rood → Rood) (s : State) : State :=
  onDev (fun t d => if d.cxlReady then d.atRood r f t else d) s

/-- A meaning of a rood during which the NAND behaves as `w` says (R383, R384). -/
def onFlash (w : Wear) (r : Nat) (f : Ctx → Rood → Rood) (s : State) : State :=
  onDev (fun t d => if d.roodsLive then ({ d with flash := d.flash.wear w } : Dev).atRood r f t else d) s

/-- The work of an accepted command, named by its number and one of its opcodes, at stage `accepted`; any other number leaves
the rood as it is (log entries 1 and 13). -/
def Rood.onCmd (id : Nat) (ops : List Nat) (f : Cmd → Rood → Rood) (x : Rood) : Rood :=
  match x.cmd? id with
  | some c => if ops.contains c.opcode && c.stage == .accepted then f c x else x
  | none => x

/-- A command of one of these opcodes was accepted before `c` and has not been judged: commands that take effect in the order of
their acceptance are judged in it (R241, R363, R417). -/
def Rood.unjudgedBefore (ops : List Nat) (c : Cmd) (x : Rood) : Bool :=
  x.cmds.any (fun d => decide (d.id < c.id) && d.stage == .accepted && ops.contains d.opcode)

/-- `onCmd` for such commands: one that is not next in that order leaves the rood as it is, as one that does not exist does
(log entry 13). -/
def Rood.onNext (id : Nat) (ops fam : List Nat) (f : Cmd → Rood → Rood) (x : Rood) : Rood :=
  x.onCmd id ops (fun c x => if x.unjudgedBefore fam c then x else f c x)

/-- The n-th draw that this command takes from the generator (R60, R400; log entry 9). -/
def Rood.draw64 (ctx : Ctx) (x : Rood) : W64 × Rood :=
  (Config.random64 (ctx.dev.boot.draws + (x.fx.filter (fun f => f == .draw)).length), x.ask .draw)

/-- Sends a chain message for the rood, and counts it (Tables 18.1, 18.4; log entry 22). -/
def Rood.sendChain (peer typ dstRood op : Nat) (payload : List Byte) (x : Rood) : Rood :=
  ((x.ask (.chain peer typ dstRood op payload)).count 9 (max 1 (ceilDiv payload.length chainPayload))).mapTally
    (fun t => { t with chainBytesOut := t.chainBytesOut + payload.length })

/-- A fresh operation number for a chain operation: the device counts them (log entry 21). -/
def Rood.newOp (ctx : Ctx) (x : Rood) : Nat × Rood :=
  ((ctx.dev.chain.nextOp + (x.fx.filter (fun f => f == .op)).length) % 2 ^ 32, x.ask .op)

def Ctx.licence (c : Ctx) : Option Licence := c.dev.boot.licence

def Ctx.vectorOk (c : Ctx) : Bool := (c.licence.map (fun l => l.vector)).getD false
def Ctx.retrievalOk (c : Ctx) : Bool := (c.licence.map (fun l => l.retrieval)).getD false
def Ctx.chainOk (c : Ctx) : Bool := c.dev.licensedPorts != 0

end Sys2Proof.Machine
end

