-- ==== Sys2Proof/Machine/Float.lean ====
section
/-! DEFINITION. Scalar formats and their rounding (R186 to R189): codes are numbers, a value is exact until it is rounded once. -/
namespace Sys2Proof.Machine
open Sys2Proof

/-- A scalar format of Table 6.3: exponent bits, fraction bits, bias, the largest finite magnitude code and the code of the
magnitude that an overflow rounds to. -/
structure Fmt where
  ebits : Nat
  mbits : Nat
  bias : Nat
  maxFin : Nat
  ovf : Nat
  nan : Nat

def fp32 : Fmt := { ebits := 8, mbits := 23, bias := 127, maxFin := 0x7F7FFFFF, ovf := 0x7F800000, nan := 0x7FC00000 }
def fp16 : Fmt := { ebits := 5, mbits := 10, bias := 15, maxFin := 0x7BFF, ovf := 0x7C00, nan := 0x7E00 }
def bf16 : Fmt := { ebits := 8, mbits := 7, bias := 127, maxFin := 0x7F7F, ovf := 0x7F80, nan := 0x7FC0 }
/-- E4M3 has no infinity: rne8 saturates at 448 (R188). -/
def e4m3 : Fmt := { ebits := 4, mbits := 3, bias := 7, maxFin := 0x7E, ovf := 0x7E, nan := 0x7F }

/-- A value: a NaN, an infinity, or the exact number (-1)^neg × num × 2^exp. -/
inductive FVal where
  | nan
  | inf (neg : Bool)
  | fin (neg : Bool) (num : Nat) (exp : Int)
  deriving DecidableEq, Repr

/-- The value of a code (R186). -/
def fdec (f : Fmt) (code : Nat) : FVal :=
  let neg := bitAt code (f.ebits + f.mbits)
  let mag := code % 2 ^ (f.ebits + f.mbits)
  if mag ≤ f.maxFin then
    let e := mag >>> f.mbits
    let m := mag % 2 ^ f.mbits
    if e = 0 then .fin neg m (1 - (f.bias : Int) - f.mbits)
    else .fin neg (2 ^ f.mbits + m) ((e : Int) - f.bias - f.mbits)
  else if f.ovf = mag ∧ f.maxFin < f.ovf then .inf neg
  else .nan

/-- The exponent of the leading bit of num / den, both positive. -/
def ratLog (num den : Nat) : Int :=
  let l : Int := (Nat.log2 num : Int) - Nat.log2 den
  let below := if 0 ≤ l then decide (num < den * 2 ^ l.toNat) else decide (num * 2 ^ (-l).toNat < den)
  if below then l - 1 else l

/-- num / den divided by 2^q, as a quotient of two numbers. -/
def ratScale (num den : Nat) (q : Int) : Nat × Nat :=
  if 0 ≤ q then (num, den * 2 ^ q.toNat) else (num * 2 ^ (-q).toNat, den)

/-- Nearest integer, ties to even. -/
def rneDiv (num den : Nat) : Nat :=
  let q := num / den
  let r := num % den
  if 2 * r < den then q else if den < 2 * r then q + 1 else if q % 2 = 0 then q else q + 1

/-- The magnitude code of num / den under an integer rounding `div`, without the overflow test. -/
def magCode (f : Fmt) (div : Nat → Nat → Nat) (num den : Nat) : Nat :=
  if num = 0 then 0
  else
    let e := max (ratLog num den) (1 - (f.bias : Int))
    let s := ratScale num den (e - f.mbits)
    (e + f.bias - 1).toNat * 2 ^ f.mbits + div s.1 s.2

def signBit (f : Fmt) (neg : Bool) : Nat := if neg then 2 ^ (f.ebits + f.mbits) else 0

/-- Round to nearest even of (-1)^neg × num / den (R188). -/
def rnd (f : Fmt) (neg : Bool) (num den : Nat) : Nat :=
  let m := magCode f rneDiv num den
  signBit f neg + (if f.maxFin < m then f.ovf else m)

/-- Round to nearest even of an exact value (R188). -/
def frnd (f : Fmt) (v : FVal) : Nat :=
  match v with
  | .nan => f.nan
  | .inf neg => signBit f neg + f.ovf
  | .fin neg m e => if 0 ≤ e then rnd f neg (m * 2 ^ e.toNat) 1 else rnd f neg m (2 ^ (-e).toNat)

/-! ## Exact operations (R189) -/

/-- The exact product, with the signs and special values of IEEE 754 (R188). -/
def vmul (a b : FVal) : FVal :=
  match a, b with
  | .nan, _ => .nan
  | _, .nan => .nan
  | .inf s, .inf t => .inf (s != t)
  | .inf s, .fin t m _ => if m = 0 then .nan else .inf (s != t)
  | .fin s m _, .inf t => if m = 0 then .nan else .inf (s != t)
  | .fin s m e, .fin t n g => .fin (s != t) (m * n) (e + g)

/-- The signed integer that a finite value is at exponent `e`. -/
def vint (neg : Bool) (m : Nat) (x e : Int) : Int := (if neg then -1 else 1) * ((m : Int) * 2 ^ (x - e).toNat)

/-- The exact sum; a zero sum of opposite signs is +0 (R189). -/
def vadd (a b : FVal) : FVal :=
  match a, b with
  | .nan, _ => .nan
  | _, .nan => .nan
  | .inf s, .inf t => if s = t then .inf s else .nan
  | .inf s, .fin _ _ _ => .inf s
  | .fin _ _ _, .inf t => .inf t
  | .fin s m x, .fin t n y =>
    let e := min x y
    let i := vint s m x e + vint t n y e
    if i = 0 then .fin (s && t) 0 0 else .fin (decide (i < 0)) i.natAbs e

def vneg (a : FVal) : FVal :=
  match a with
  | .nan => .nan
  | .inf s => .inf (!s)
  | .fin s m e => .fin (!s) m e

def vofInt (i : Int) : FVal := .fin (decide (i < 0)) i.natAbs 0

/-- The sign of a - b for values that are no NaN: -1, 0 or 1. Zeros are equal (R189). -/
def vcmp (a b : FVal) : Int :=
  match vadd a (vneg b) with
  | .nan => 0
  | .inf s => if s then -1 else 1
  | .fin s m _ => if m = 0 then 0 else if s then -1 else 1

/-! ## FP32 operations on codes -/

def d32 (a : Nat) : FVal := fdec fp32 a
def r32 (v : FVal) : Nat := frnd fp32 v
def fadd (a b : Nat) : Nat := r32 (vadd (d32 a) (d32 b))
def fmul (a b : Nat) : Nat := r32 (vmul (d32 a) (d32 b))

/-- The rounded quotient of two values. -/
def vdivRnd (f : Fmt) (a b : FVal) : Nat :=
  match a, b with
  | .nan, _ => f.nan
  | _, .nan => f.nan
  | .inf _, .inf _ => f.nan
  | .inf s, .fin t _ _ => signBit f (s != t) + f.ovf
  | .fin s _ _, .inf t => signBit f (s != t)
  | .fin s m e, .fin t n g =>
    if n = 0 then (if m = 0 then f.nan else signBit f (s != t) + f.ovf)
    else
      let q := e - g
      if 0 ≤ q then rnd f (s != t) (m * 2 ^ q.toNat) n else rnd f (s != t) m (n * 2 ^ (-q).toNat)

def fdiv (a b : Nat) : Nat := vdivRnd fp32 (d32 a) (d32 b)

def isNan32 (a : Nat) : Bool := d32 a == .nan
def isFinite32 (a : Nat) : Bool := decide (a % 2 ^ 31 < 0x7F800000)

/-- a < b on FP32 codes that are no NaN. -/
def flt (a b : Nat) : Bool := vcmp (d32 a) (d32 b) == -1

def fneg (a : Nat) : Nat := (a + 2 ^ 31) % 2 ^ 32

/-- The FP32 code of a BF16 code: the same value. -/
def bfTo32 (a : Nat) : Nat := a * 2 ^ 16

/-- The FP32 code of a number that FP32 holds exactly, or its nearest. -/
def f32OfNat (n : Nat) : Nat := rnd fp32 false n 1

/-! ## The tree sum (R198) -/

/-- The largest power of two below `n`, for n ≥ 2. -/
def treeSplit (n : Nat) : Nat := 2 ^ Nat.log2 (n - 1)

def tsumAux : (fuel : Nat) → List Nat → Nat
  | 0, _ => 0
  | _ + 1, [] => 0
  | _ + 1, [c] => c
  | f + 1, c :: d :: l =>
    let h := treeSplit (l.length + 2)
    fadd (tsumAux f ((c :: d :: l).take h)) (tsumAux f ((c :: d :: l).drop h))

/-- tsum of FP32 codes; +0 for no term. -/
def tsum (l : List Nat) : Nat := tsumAux (Nat.log2 l.length + 2) l

/-! ## Reciprocal square root (Table 6.4) -/

/-- ⌊√n⌋ of a number below 2^(2 k). -/
def isqrt (k n : Nat) : Nat :=
  go k 0
where
  go : Nat → Nat → Nat
    | 0, a => a
    | i + 1, a => if (a + 2 ^ i) * (a + 2 ^ i) ≤ n then go i (a + 2 ^ i) else go i a

/-- rsqrt: the nearest FP32 value of 1 / √x. The root is taken to 64 bits below its leading bit, with a sticky bit. -/
def frsqrt (a : Nat) : Nat :=
  match d32 a with
  | .nan => fp32.nan
  | .inf neg => if neg then fp32.nan else 0
  | .fin neg m e =>
    if m = 0 then fp32.ovf
    else if neg then fp32.nan
    else
      -- 1 / (m × 2^e) = 2^(2 s) / (m × 2^(e + 2 s)); the root of 2^w / m with w even above
      let e' := if e % 2 = 0 then e else e - 1
      let m' := if e % 2 = 0 then m else 2 * m
      let w : Nat := 200
      let n : Nat := 2 ^ (2 * w) / m'
      let t := isqrt 210 n
      let exact := t * t * m' == 2 ^ (2 * w)
      -- 1 / √x = √(2^(2 w) / m') × 2^(-w - e' / 2)
      let num := 2 * t + (if exact then 0 else 1)
      let p : Int := -(w : Int) - e' / 2 - 1
      if 0 ≤ p then rnd fp32 false (num * 2 ^ p.toNat) 1 else rnd fp32 false num (2 ^ (-p).toNat)

end Sys2Proof.Machine
end

