-- ==== Sys2Proof/Machine/Transcendental.lean ====
section
/-! DEFINITION. The functions of Table 6.4, correctly rounded (R190), and the rotary frequencies (R205). Each value is
enclosed between two fixed-point numbers with `k` fraction bits; the precision rises until both ends round alike (log entry 12). -/
namespace Sys2Proof.Machine
open Sys2Proof

/-! ## Intervals of fixed-point numbers with k fraction bits -/

structure Ivl where
  lo : Int
  hi : Int
  deriving DecidableEq, Repr

/-- ⌊a / 2^k⌋ and ⌈a / 2^k⌉. -/
def shrFloor (k : Nat) (a : Int) : Int := a / (2 ^ k : Nat)
def shrCeil (k : Nat) (a : Int) : Int := -((-a) / (2 ^ k : Nat))

def iadd (a b : Ivl) : Ivl := { lo := a.lo + b.lo, hi := a.hi + b.hi }
def ineg (a : Ivl) : Ivl := { lo := -a.hi, hi := -a.lo }
def isub (a b : Ivl) : Ivl := iadd a (ineg b)

def min4 (a b c d : Int) : Int := min (min a b) (min c d)
def max4 (a b c d : Int) : Int := max (max a b) (max c d)

def imul (k : Nat) (a b : Ivl) : Ivl :=
  let p := a.lo * b.lo
  let q := a.lo * b.hi
  let r := a.hi * b.lo
  let s := a.hi * b.hi
  { lo := shrFloor k (min4 p q r s), hi := shrCeil k (max4 p q r s) }

/-- Division by a positive number. -/
def idivNat (n : Nat) (a : Ivl) : Ivl := { lo := a.lo / (n : Int), hi := -((-a.hi) / (n : Int)) }

def imulInt (n : Int) (a : Ivl) : Ivl :=
  if 0 ≤ n then { lo := n * a.lo, hi := n * a.hi } else { lo := n * a.hi, hi := n * a.lo }

/-- a / b for b positive. -/
def idivPos (k : Nat) (a b : Ivl) : Ivl :=
  let f := fun (x y : Int) => x * (2 ^ k : Nat) / y
  let c := fun (x y : Int) => -((-(x * (2 ^ k : Nat))) / y)
  if b.lo ≤ 0 then { lo := a.lo, hi := a.lo }
  else { lo := min (f a.lo b.lo) (f a.lo b.hi), hi := max (c a.hi b.lo) (c a.hi b.hi) }

def ione (k : Nat) : Ivl := { lo := 2 ^ k, hi := 2 ^ k }

/-- The interval of a rational number num / den. -/
def irat (k : Nat) (num : Int) (den : Nat) : Ivl :=
  { lo := num * (2 ^ k : Nat) / (den : Int), hi := -((-(num * (2 ^ k : Nat))) / (den : Int)) }

def iwiden (e : Int) (a : Ivl) : Ivl := { lo := a.lo - e, hi := a.hi + e }

/-- A finite value as an interval. -/
def ival (k : Nat) (neg : Bool) (m : Nat) (e : Int) : Ivl :=
  let i : Int := (if neg then -1 else 1) * m
  if 0 ≤ e then { lo := i * (2 ^ (k + e.toNat) : Nat), hi := i * (2 ^ (k + e.toNat) : Nat) } else irat k i (2 ^ (-e).toNat)

/-! ## Series -/

/-- Σ term / (i (i + 1) …): the Taylor terms t, t x / 1, t x² / 2, …; `n` terms from index `i`. -/
def expTerms (k : Nat) (x : Ivl) : (n i : Nat) → (t acc : Ivl) → Ivl
  | 0, _, _, acc => acc
  | n + 1, i, t, acc => expTerms k x n (i + 1) (idivNat (i + 1) (imul k t x)) (iadd acc t)

/-- eˣ for |x| ≤ 1 / 2: enough terms, and the remainder within one unit of the last place. -/
def iexpSmall (k : Nat) (x : Ivl) : Ivl := iwiden 2 (expTerms k x (k / 3 + 10) 0 (ione k) { lo := 0, hi := 0 })

/-- Σ y^(2 i + 1) / (2 i + 1) for |y| ≤ 1 / 3, with alternating signs when `alt`. -/
def atanTerms (k : Nat) (alt : Bool) (y2 : Ivl) : (n i : Nat) → (p acc : Ivl) → Ivl
  | 0, _, _, acc => acc
  | n + 1, i, p, acc =>
    let t := idivNat (2 * i + 1) p
    atanTerms k alt y2 n (i + 1) (imul k p y2) (if alt && i % 2 == 1 then isub acc t else iadd acc t)

def iatanh (k : Nat) (y : Ivl) : Ivl := iwiden 2 (atanTerms k false (imul k y y) (k / 3 + 10) 0 y { lo := 0, hi := 0 })
def iatan (k : Nat) (y : Ivl) : Ivl := iwiden 2 (atanTerms k true (imul k y y) (k / 2 + 10) 0 y { lo := 0, hi := 0 })

def iln2 (k : Nat) : Ivl := imulInt 2 (iatanh k (irat k 1 3))

/-- π by Machin's formula. -/
def ipi (k : Nat) : Ivl := isub (imulInt 16 (iatan k (irat k 1 5))) (imulInt 4 (iatan k (irat k 1 239)))

/-- Nearest integer of the middle of a / b, for b positive. -/
def iround (a b : Ivl) : Int := (2 * a.lo + b.lo) / (2 * b.lo)

/-- 2^n × a. -/
def ishift (n : Int) (a : Ivl) : Ivl :=
  if 0 ≤ n then { lo := a.lo * (2 ^ n.toNat : Nat), hi := a.hi * (2 ^ n.toNat : Nat) }
  else { lo := shrFloor (-n).toNat a.lo, hi := shrCeil (-n).toNat a.hi }

/-- eˣ. -/
def iexp (k : Nat) (x : Ivl) : Ivl :=
  let l := iln2 k
  let n := iround x l
  ishift n (iexpSmall k (isub x (imulInt n l)))

/-- ln of a positive value m × 2^e. -/
def ilnVal (k : Nat) (m : Nat) (e : Int) : Ivl :=
  let p := Nat.log2 m
  -- m = 2^p × f with 1 ≤ f < 2; ln f = 2 atanh ((f - 1) / (f + 1))
  iadd (imulInt ((p : Int) + e) (iln2 k)) (imulInt 2 (iatanh k (irat k ((m : Int) - 2 ^ p) (m + 2 ^ p))))

/-- The terms of the sine (from x) or the cosine (from 1). -/
def trigTerms (k : Nat) (x2 : Ivl) : (n i : Nat) → (t acc : Ivl) → Ivl
  | 0, _, _, acc => acc
  | n + 1, i, t, acc =>
    trigTerms k x2 n (i + 2) (ineg (idivNat ((i + 1) * (i + 2)) (imul k t x2))) (iadd acc t)

def isinSmall (k : Nat) (x : Ivl) : Ivl := iwiden 2 (trigTerms k (imul k x x) (k / 4 + 10) 1 x { lo := 0, hi := 0 })
def icosSmall (k : Nat) (x : Ivl) : Ivl := iwiden 2 (trigTerms k (imul k x x) (k / 4 + 10) 0 (ione k) { lo := 0, hi := 0 })

/-- cos (sine false) or sin (sine true) of an angle. -/
def itrig (k : Nat) (sine : Bool) (x : Ivl) : Ivl :=
  let h := { lo := (ipi k).lo / 2, hi := -((-(ipi k).hi) / 2) : Ivl }
  let n := iround x h
  let r := isub x (imulInt n h)
  let q := ((n + if sine then 3 else 0) % 4).toNat
  match q with
  | 0 => icosSmall k r
  | 1 => ineg (isinSmall k r)
  | 2 => ineg (icosSmall k r)
  | _ => isinSmall k r

/-- √ of a non-negative number given at scale k. -/
def isqrtI (k : Nat) (a : Ivl) : Ivl :=
  let s := fun (i : Int) => isqrt (k + 64) (i.toNat * 2 ^ k)
  { lo := s a.lo, hi := (s a.hi : Int) + 1 }

/-- Σ of the positive terms of erf: t ← t × 2 z² / (2 i + 3). -/
def erfTerms (k : Nat) (w : Ivl) : (n i : Nat) → (t acc : Ivl) → Ivl
  | 0, _, _, acc => acc
  | n + 1, i, t, acc => erfTerms k w n (i + 1) (idivNat (2 * i + 3) (imul k t w)) (iadd acc t)

/-- erf z for 0 ≤ z ≤ 15: 2 / √π × e^(-z²) × Σ 2^i z^(2 i + 1) / (2 i + 1)!!. -/
def ierf (k : Nat) (z : Ivl) : Ivl :=
  let z2 := imul k z z
  let s := iwiden 4 (erfTerms k (imulInt 2 z2) (1000 + k) 0 z { lo := 0, hi := 0 })
  idivPos k (imulInt 2 (imul k (iexp k (ineg z2)) s)) (isqrtI k (ipi k))

/-! ## Rounding an enclosed value -/

/-- FP32 code of an end of an interval at scale k. -/
def rndEnd (k : Nat) (i : Int) : Nat := rnd fp32 (decide (i < 0)) i.natAbs (2 ^ k)

/-- The rounding on which both ends agree, over rising precisions; the last precision's lower end when none agrees. -/
def ziv (f : Nat → Ivl) : List Nat → Nat
  | [] => 0
  | [k] => rndEnd k (f k).lo
  | k :: ks =>
    let i := f k
    if rndEnd k i.lo = rndEnd k i.hi then rndEnd k i.lo else ziv f ks

/-- Fraction bits tried in turn. -/
def zivBits : List Nat := [256, 512, 1024, 2048]

/-! ## The functions of Table 6.4 on FP32 codes -/

/-- The value exceeds `n` in magnitude. -/
def magAbove (n : Nat) (v : FVal) : Bool :=
  match v with
  | .nan => false
  | .inf _ => true
  | .fin _ m e => vcmp (.fin false m e) (.fin false n 0) == 1

def fexp (a : Nat) : Nat :=
  match d32 a with
  | .nan => fp32.nan
  | .inf neg => if neg then 0 else fp32.ovf
  | .fin neg m e =>
    if magAbove 120 (.fin neg m e) then (if neg then 0 else fp32.ovf)
    else if m = 0 then 0x3F800000
    else ziv (fun k => iexp k (ival k neg m e)) zivBits

/-- tanh x = 1 - 2 / (e^(2 x) + 1). -/
def itanh (k : Nat) (x : Ivl) : Ivl :=
  isub (ione k) (idivPos k (imulInt 2 (ione k)) (iadd (iexp k (imulInt 2 x)) (ione k)))

/-- Where the exact value is 0 the result is +0, here and in `sigmoidForm`, `fgelue` and `fsinr`: R190 states no sign for it
(DESIGN CHOICE, log entry 76). -/
def ftanh (a : Nat) : Nat :=
  match d32 a with
  | .nan => fp32.nan
  | .inf neg => signBit fp32 neg + 0x3F800000
  | .fin neg m e =>
    if m = 0 then 0
    else if magAbove 40 (.fin neg m e) then signBit fp32 neg + 0x3F800000
    else ziv (fun k => itanh k (ival k neg m e)) zivBits

/-- p × ω, exact. -/
def angle (k p w : Nat) : Ivl :=
  match d32 w with
  | .fin neg m e => ival k neg (p * m) e
  | _ => { lo := 0, hi := 0 }

def fcosr (p w : Nat) : Nat := ziv (fun k => itrig k false (angle k p w)) zivBits

def fsinr (p w : Nat) : Nat :=
  match d32 w with
  | .fin _ m _ => if p * m = 0 then 0 else ziv (fun k => itrig k true (angle k p w)) zivBits
  | _ => 0

/-- x / (1 + e^(-y)), the common form of SiLU and the GELUs; beyond `lim` it is x or a value that rounds to a zero. -/
def sigmoidForm (lim : Nat) (y : Nat → Ivl → Ivl) (a : Nat) : Nat :=
  match d32 a with
  | .nan => fp32.nan
  | .inf neg => if neg then 0 else fp32.ovf
  | .fin neg m e =>
    if m = 0 then 0
    else if magAbove lim (.fin neg m e) then (if neg then 2 ^ 31 else a)
    else ziv (fun k =>
      let x := ival k neg m e
      idivPos k x (iadd (ione k) (iexp k (ineg (y k x))))) zivBits

def fsilu (a : Nat) : Nat := sigmoidForm 130 (fun _ x => x) a

/-- 0.5 x (1 + tanh u) = x / (1 + e^(-2 u)) with u = √(2 / π) (x + 0.044715 x³). -/
def fgelut (a : Nat) : Nat :=
  sigmoidForm 20 (fun k x =>
    let c := isqrtI k (idivPos k (imulInt 2 (ione k)) (ipi k))
    let x3 := imul k x (imul k x x)
    imulInt 2 (imul k c (iadd x (imul k (irat k 44715 1000000) x3)))) a

/-- 0.5 x (1 + erf (x / √2)). -/
def fgelue (a : Nat) : Nat :=
  match d32 a with
  | .nan => fp32.nan
  | .inf neg => if neg then 0 else fp32.ovf
  | .fin neg m e =>
    if m = 0 then 0
    else if magAbove 20 (.fin neg m e) then (if neg then 2 ^ 31 else a)
    else ziv (fun k =>
      let x := ival k neg m e
      let z := idivPos k (ival k false m e) (isqrtI k (imulInt 2 (ione k)))
      let f := ierf k z
      let p := if neg then isub (ione k) f else iadd (ione k) f
      idivNat 2 (imul k x p)) zivBits

/-- (max (0, x))². -/
def frelu2 (a : Nat) : Nat :=
  match d32 a with
  | .nan => fp32.nan
  | .inf neg => if neg then 0 else fp32.ovf
  | .fin neg m e => if neg then 0 else frnd fp32 (.fin false (m * m) (e + e))

/-- The activation that ACT chooses (R209). -/
def factivate (act a : Nat) : Nat :=
  match act with
  | 0 => fsilu a
  | 1 => fgelut a
  | 2 => fgelue a
  | _ => frelu2 a

/-! ## Rotary frequencies (R205) -/

/-- ω_i = rne32(θ^(-2 i / dh)). -/
def ropeBaseFreq (theta dh i : Nat) : Nat :=
  if i = 0 then 0x3F800000
  else
    match d32 theta with
    | .fin _ m e => ziv (fun k => iexp k (idivNat dh (imulInt (-2 * (i : Int)) (ilnVal k m e)))) zivBits
    | _ => 0

/-- ρ_i = L0 ω_i / (2 π), at scale k. -/
def ropeRho (k l0 w : Nat) : Ivl := idivPos k (angle k l0 w) (imulInt 2 (ipi k))

/-- The sign of ρ_i - β, settled at the first precision at which the enclosures part. -/
def rhoCmp (l0 w beta : Nat) : List Nat → Int
  | [] => 0
  | k :: ks =>
    let r := ropeRho k l0 w
    let b := angle k 1 beta
    if b.hi < r.lo then 1 else if r.hi < b.lo then -1 else rhoCmp l0 w beta ks

/-- ω′_i for ROPE_SCALING 2 between the band edges: (1 - γ) ω_i / s + γ ω_i. -/
def ropeBlend (l0 w s bf bs : Nat) : Nat :=
  ziv (fun k =>
    let o := angle k 1 w
    let g := idivPos k (isub (ropeRho k l0 w) (angle k 1 bs)) (isub (angle k 1 bf) (angle k 1 bs))
    iadd (imul k (isub (ione k) g) (idivPos k o (angle k 1 s))) (imul k g o)) zivBits

/-- The scaled frequency of pair i (R205). -/
def ropeFreq (theta scaling s l0 bf bs dh i : Nat) : Nat :=
  let w := ropeBaseFreq theta dh i
  match scaling with
  | 0 => w
  | 1 => fdiv w s
  | _ =>
    if rhoCmp l0 w bf zivBits ≠ -1 then w
    else if rhoCmp l0 w bs zivBits ≠ 1 then fdiv w s
    else ropeBlend l0 w s bf bs

end Sys2Proof.Machine
end

