-- ==== Sys2Proof/Machine/Quant.lean ====
section
/-! DEFINITION. Block formats, quantization, block dot products and matrix products (R187, R191 to R198). -/
namespace Sys2Proof.Machine
open Sys2Proof

/-- A block of 32 elements with its scale: integer codes, E4M3 codes, or BF16 elements without a scale (Table 6.5). -/
inductive Blk where
  | int (codes : List Int) (scale : FVal)
  | f8 (codes : List Nat) (scale : FVal)
  | bf (codes : List Nat)
  deriving DecidableEq, Repr

/-- Weight formats of Table 6.5. -/
inductive WFmt where
  | w4 | w8 | f8w | bf16
  deriving DecidableEq, Repr

/-- Activation formats of Table 6.5. -/
inductive AFmt where
  | a4 | a8 | f8a | bf16
  deriving DecidableEq, Repr

/-- Table 6.6. -/
def pairWeight : Nat → WFmt
  | 0 => .w4
  | 1 => .w4
  | 2 => .w8
  | 3 => .f8w
  | _ => .bf16

def pairAct : Nat → AFmt
  | 0 => .a4
  | 1 => .a8
  | 2 => .a8
  | 3 => .f8a
  | _ => .bf16

/-- Products for each lane and step (Table 6.6). -/
def pairProducts : Nat → Nat
  | 0 => 64
  | 1 => 32
  | 2 => 32
  | 3 => 32
  | _ => 8

/-- Bytes of one block (Table 6.5). -/
def WFmt.bytes : WFmt → Nat
  | .w4 => 17
  | .w8 => 34
  | .f8w => 34
  | .bf16 => 64

/-- The two codes of a byte of a 4-bit block: element 2i in bits [3:0] (R191). -/
def nibbles (b : Byte) : List Int := [signedOf 4 (b.toNat % 16), signedOf 4 (b.toNat / 16)]

/-- The 16-bit elements of a BF16 block. -/
def halfwords (bs : List Byte) : List Nat := (chunks 2 bs).map leVal

/-- Reads one stored weight block: codes, then the scale (R191, R219). -/
def readBlk (f : WFmt) (bs : List Byte) : Blk :=
  match f with
  | .w4 => .int ((bs.take 16).flatMap nibbles) (fdec e4m3 (u8At 16 bs))
  | .w8 => .int ((bs.take 32).map (fun b => signedOf 8 b.toNat)) (fdec bf16 (u16At 32 bs))
  | .f8w => .f8 ((bs.take 32).map (fun b => b.toNat)) (fdec bf16 (u16At 32 bs))
  | .bf16 => .bf (halfwords (bs.take 64))

/-! ## Quantization (R194) -/

/-- The least FP16 code of a finite value at or above num / den; 65,504 when there is none. -/
def upScale (num den : Nat) : Nat := min (magCode fp16 ceilDiv num den) fp16.maxFin

/-- The magnitude of a finite value as a quotient. -/
def vrat (v : FVal) : Nat × Nat :=
  match v with
  | .fin _ m e => if 0 ≤ e then (m * 2 ^ e.toNat, 1) else (m, 2 ^ (-e).toNat)
  | _ => (0, 1)

def vneg? (v : FVal) : Bool :=
  match v with
  | .fin s _ _ => s
  | .inf s => s
  | .nan => false

def vfinite (v : FVal) : Bool :=
  match v with
  | .fin _ _ _ => true
  | _ => false

/-- The largest magnitude of a block, as a quotient. -/
def maxMag (xs : List FVal) : Nat × Nat :=
  xs.foldl (fun m v => let r := vrat v; if m.1 * r.2 < r.1 * m.2 then r else m) (0, 1)

/-- x / s to the nearest integer, ties to even, limited to ±q. -/
def quantCode (q : Nat) (s : Nat × Nat) (v : FVal) : Int :=
  let r := vrat v
  let c := min q (rneDiv (r.1 * s.2) (r.2 * s.1))
  if vneg? v then -(c : Int) else c

/-- quantize(x, Q) for the integer formats: FP32 codes in, integer codes and an FP16 scale code out. -/
def quantInt (q : Nat) (x : List Nat) : List Int × Nat :=
  let vs := x.map d32
  if !vs.all vfinite then (x.map (fun _ => 0), fp16.nan)
  else
    let m := maxMag vs
    if m.1 = 0 then (x.map (fun _ => 0), 0)
    else
      let s := upScale m.1 (m.2 * q)
      (vs.map (quantCode q (vrat (fdec fp16 s))), s)

/-- quantize(x, 448): E4M3 codes and an FP16 scale code. In a block of zeros a -0 takes the code 0x80, as the text after the procedure
says of every -0; the procedure itself gives 0 there (DESIGN CHOICE, log entry 76). -/
def quantF8 (x : List Nat) : List Nat × Nat :=
  let vs := x.map d32
  if !vs.all vfinite then (x.map (fun _ => 0), fp16.nan)
  else
    let m := maxMag vs
    if m.1 = 0 then (vs.map (fun v => signBit e4m3 (vneg? v)), 0)
    else
      let s := upScale m.1 (m.2 * 448)
      let d := vrat (fdec fp16 s)
      (vs.map (fun v => let r := vrat v; rnd e4m3 (vneg? v) (r.1 * d.2) (r.2 * d.1)), s)

/-- Quantizes one block of FP32 values into an activation format (R194, R195). -/
def quantBlk (f : AFmt) (x : List Nat) : Blk :=
  match f with
  | .a4 => let r := quantInt 7 x; .int r.1 (fdec fp16 r.2)
  | .a8 => let r := quantInt 127 x; .int r.1 (fdec fp16 r.2)
  | .f8a => let r := quantF8 x; .f8 r.1 (fdec fp16 r.2)
  | .bf16 => .bf (x.map (fun a => frnd bf16 (d32 a)))

/-- Cuts a vector into groups of `n`. -/
def groupsAux {α : Type} (n : Nat) : (fuel : Nat) → List α → List (List α)
  | 0, _ => []
  | f + 1, l => if l.isEmpty then [] else l.take n :: groupsAux n f (l.drop n)

def groups {α : Type} (n : Nat) (l : List α) : List (List α) := groupsAux n l.length l

/-- Quantizes a vector block by block. -/
def quantVec (f : AFmt) (x : List Nat) : List Blk := (groups 32 x).map (quantBlk f)

/-! ## Dot products (R196 to R198) -/

/-- c_b of one weight block and one activation block, as an FP32 code. -/
def blkDot (w a : Blk) : Nat :=
  match w, a with
  | .int cw sw, .int ca sa => r32 (vmul (vofInt ((cw.zipWith (· * ·) ca).sum)) (vmul sw sa))
  | .f8 cw sw, .f8 ca sa =>
    r32 (vmul ((cw.zipWith (fun x y => vmul (fdec e4m3 x) (fdec e4m3 y)) ca).foldl vadd (.fin false 0 0)) (vmul sw sa))
  | .bf cw, .bf ca => tsum (cw.zipWith (fun x y => fmul (bfTo32 x) (bfTo32 y)) ca)
  | _, _ => fp32.nan

/-- One output of a matrix product: tsum over the row's blocks. -/
def rowDot (row a : List Blk) : Nat := tsum (row.zipWith blkDot a)

def readRow (f : WFmt) (bs : List Byte) : List Blk := (chunks f.bytes bs).map (readBlk f)

/-- Element j of a block as an FP32 code: its code times its scale, exact (R202). -/
def Blk.elems (b : Blk) : List Nat :=
  match b with
  | .int cs s => cs.map (fun c => r32 (vmul (vofInt c) s))
  | .f8 cs s => cs.map (fun c => r32 (vmul (fdec e4m3 c) s))
  | .bf cs => cs.map bfTo32

/-! ## Residues (R200) -/

/-- ρ of an integer: its remainder modulo 3. -/
def residue3 (i : Int) : Int := i % 3

/-- The check of one block product over the integer values of its operands. -/
def residueOk (cw ca : List Int) : Bool :=
  residue3 ((cw.zipWith (fun x y => residue3 x * residue3 y) ca).sum) == residue3 ((cw.zipWith (· * ·) ca).sum)

/-- The value of an E4M3 code × 2⁹, an integer; the sum of products is then P_b × 2¹⁸. -/
def e4m3Int (c : Nat) : Int :=
  let m := if c / 8 % 16 = 0 then c % 8 else (8 + c % 8) * 2 ^ (c / 8 % 16 - 1)
  if c / 128 = 1 then -(m : Int) else m

/-- The significand of a BF16 code with its sign. -/
def bfSig (c : Nat) : Int :=
  let m := if c / 128 % 256 = 0 then c % 128 else 128 + c % 128
  if c / 32768 = 1 then -(m : Int) else m

/-- The check of one FP32 addition over the aligned significands of its operands. -/
def addResidueOk (x y : Int) : Bool := residue3 (residue3 x + residue3 y) == residue3 (x + y)

/-- The check that a lane or a bank engine makes of a block dot product before c_b leaves it: the integer values in the integer and
F8 modes, each product of significands in the BF16 mode. The arithmetic of the model is exact and passes it (Laws/Residue); a part
whose arithmetic fails it is an operand of STEP_END, a hit of class 0x01 (log entry 19). -/
def blkResidueOk (w a : Blk) : Bool :=
  match w, a with
  | .int cw _, .int ca _ => residueOk cw ca
  | .f8 cw _, .f8 ca _ => residueOk (cw.map e4m3Int) (ca.map e4m3Int)
  | .bf cw, .bf ca => (cw.zipWith (fun x y => residueOk [bfSig x] [bfSig y]) ca).all (fun b => b)
  | _, _ => true

/-! ## KV blocks (Table 6.5, R207) -/

/-- Bytes of a stored key or value block: codes, then the FP16 scale. -/
def kvBlkBytes (kv4 : Bool) (codes : List Int) (scale : Nat) : List Byte × List Byte :=
  (if kv4 then (groups 2 codes).map (fun p => byteOf (fieldOf 4 (p.getD 0 0) + 16 * fieldOf 4 (p.getD 1 0)))
    else codes.map (fun c => byteOf (fieldOf 8 c)), leBytes 2 scale)

/-- The codes of a stored key or value block. -/
def kvCodes (kv4 : Bool) (bs : List Byte) : List Int :=
  if kv4 then bs.flatMap nibbles else bs.map (fun b => signedOf 8 b.toNat)

end Sys2Proof.Machine
end

