-- ==== Sys2Proof/Machine/KvStore.lean ====
section
/-! DEFINITION. The KV store (chapter 8): geometry, pecks, frame pool, the allocator, peck directories, look-aside buffers. -/
namespace Sys2Proof.Machine
open Sys2Proof

/-! ## Geometry (R243, R252, R266) -/

/-- Bytes of one KV block (Table 6.5). -/
def kvBlk (kv4 : Bool) : Nat := if kv4 then 18 else 34

/-- T of R243. -/
def tokensPerPeck (hkv dh : Nat) (kv4 : Bool) : Nat := 2 ^ Nat.log2 (65536 / (2 * hkv * (dh / 32) * kvBlk kv4))

/-- The geometry of a session's key/value data. -/
structure KvGeom where
  layers : Nat
  hkv : Nat
  dh : Nat
  kv4 : Bool
  retr : Bool

def Entry.geom (e : Entry) : KvGeom :=
  { layers := e.geo.layers, hkv := e.geo.kvHeads, dh := e.geo.headDim, kv4 := e.kv4, retr := e.retrieval }

def KvGeom.nb (g : KvGeom) : Nat := g.dh / 32

/-- T. -/
def KvGeom.tok (g : KvGeom) : Nat := tokensPerPeck g.hkv g.dh g.kv4

/-- S of R266. -/
def KvGeom.sums (g : KvGeom) : Nat := tokensPerPeck g.hkv g.dh false

/-- Z of R266. -/
def KvGeom.sumBytes (g : KvGeom) : Nat := g.hkv * g.nb * 66

/-- b of R243. -/
def KvGeom.posBytes (g : KvGeom) : Nat := 2 * g.hkv * g.nb * kvBlk g.kv4

/-- VOFF of Table 8.2. -/
def KvGeom.voff (g : KvGeom) : Nat := g.hkv * g.tok * g.nb * kvBlk g.kv4

/-- Frames of each kind that a layer holds for `s` stored positions (R252): pecks, summary frames, super frames. -/
def KvGeom.held (g : KvGeom) (s : Nat) : Nat × Nat × Nat :=
  let f := s / g.tok
  (ceilDiv s g.tok, if g.retr then ceilDiv f g.sums else 0, if g.retr then ceilDiv (f / 64) g.sums else 0)

/-- Frames of a session with `s` stored positions. -/
def KvGeom.frames (g : KvGeom) (s : Nat) : Nat := let h := g.held s; g.layers * (h.1 + h.2.1 + h.2.2)

/-- d of R255. -/
def treeDepth (n : Nat) : Nat := ([1, 2, 3, 4].find? (fun d => n ≤ 64 ^ d)).getD 5

/-- Lines of a tree of `n` entries (R255). -/
def treeLines (n : Nat) : Nat :=
  if n = 0 then 0 else ((List.range (treeDepth n)).map (fun k => ceilDiv n (64 ^ (k + 1)))).sum

/-- Directory lines of a session with `s` stored positions (R252, R254, R255). -/
def KvGeom.lines (g : KvGeom) (s : Nat) : Nat :=
  let h := g.held s
  if s = 0 then 0
  else ceilDiv g.layers 16 + g.layers * (treeLines h.1 + treeLines h.2.1 + treeLines h.2.2)

/-- Stored positions of a session of a given LENGTH (R92). -/
def storedOf (length : Nat) : Nat := length - 1

/-! ## Frames (R248 to R251) -/

/-- The first pool frame of a channel (Table 8.3). -/
def poolBase (pos : Nat) : Nat := if pos = 0 then 2072 else 0

def frameKey (pos chan f : Nat) : Nat := (pos * 64 + chan) * 32768 + f

/-- The pointer of a frame (Table 8.4) and the frame of a pointer. -/
def ptrOf (key : Nat) : Nat := 2 ^ 31 + key
def ptrKey (p : Nat) : Nat := p % 2 ^ 31

/-- The position of the stack that holds a frame. -/
def keyPos (key : Nat) : Nat := key / (64 * 32768)
def keyChan (key : Nat) : Nat := key / 32768 % 64

/-- The lowest number from `a` on, below `a + fuel`, that is not in the list. -/
def lowestNot (used : List Nat) : (fuel a : Nat) → Option Nat
  | 0, _ => none
  | n + 1, a => if used.contains a then lowestNot used n (a + 1) else some a

/-- The lowest free pool frame of a channel. -/
def Kv.chanFree (pos chan : Nat) (k : Kv) : Option Nat :=
  let lo := frameKey pos chan 0
  let inChan := fun a => decide (lo ≤ a) && decide (a < lo + 32768)
  lowestNot ((k.frames.map (fun p => p.1)).filter inChan ++ k.zeroing.filter inChan) (32256 - poolBase pos)
    (lo + poolBase pos)

/-- Pool frames of a rood of `w` stack groups (Table 8.3). -/
def poolFrames (w : Nat) : Nat := w * 64 * 32256 - 64 * 2072

/-- Free pool frames. -/
def Kv.free (w : Nat) (k : Kv) : Nat := poolFrames w - k.frames.length - k.zeroing.length

/-- Free pool frames of the stack at a position. -/
def Kv.freeAt (pos : Nat) (k : Kv) : Nat :=
  64 * (32256 - poolBase pos) - (k.frames.filter (fun p => keyPos p.1 == pos)).length -
    (k.zeroing.filter (fun a => keyPos a == pos)).length

def Kv.putFrame (key : Nat) (f : Frame) (k : Kv) : Kv := { k with frames := putKey key f k.frames }

/-- R250: a frame for number `j` of layer `l` of the session in slot `i`. -/
def Kv.alloc (w i l j : Nat) (use : FrameUse) (k : Kv) : Option (Nat × Kv) :=
  let u := (7 * i + 67 * l + j) % (64 * w)
  match (List.range (64 * w)).findSome? (fun n =>
      let v := (u + n) % (64 * w)
      k.chanFree (v % w) (v / w)) with
  | some key => some (key, k.putFrame key { refs := 1, use := use, data := [] })
  | none => none

/-- The number that R250 uses for a frame of a kind: 0 peck, 1 summary frame, 2 super frame. -/
def allocNum (kind n : Nat) : Nat := if kind = 1 then n + 32 else if kind = 2 then n + 48 else n

def kindUse (kind : Nat) : FrameUse := if kind = 1 then .summary else if kind = 2 then .super else .peck

/-- The frame loses one reference; at zero it is zeroed before it returns to the pool (R247, R251). -/
def Kv.unref (key : Nat) (k : Kv) : Kv :=
  match lookKey key k.frames with
  | some f =>
    if f.refs ≤ 1 then { k with frames := delKey key k.frames, zeroing := k.zeroing ++ [key] }
    else k.putFrame key { f with refs := f.refs - 1 }
  | none => k

def Kv.addRef (key : Nat) (k : Kv) : Kv :=
  match lookKey key k.frames with
  | some f => k.putFrame key { f with refs := f.refs + 1 }
  | none => k

def Kv.refs (key : Nat) (k : Kv) : Nat := ((lookKey key k.frames).map (fun f => f.refs)).getD 0

def Kv.frameWrite (key off : Nat) (bs : List Byte) (k : Kv) : Kv :=
  match lookKey key k.frames with
  | some f => k.putFrame key { f with data := memWrite f.data off bs }
  | none => k

def Kv.frameRead (key off n : Nat) (k : Kv) : List Byte :=
  match lookKey key k.frames with
  | some f => memReadN f.data off n
  | none => zeros n

/-- Bytes of a frame. -/
def frameBytes : Nat := 65536

/-! ## Directory lines (R253 to R256) -/

/-- The key of a line of the stack at `pos`, from a line pointer (Table 8.5). -/
def lineKey (pos ptr : Nat) : Nat := pos * 8388608 + ptr % 2 ^ 31

def linePtr (chan line : Nat) : Nat := 2 ^ 31 + chan * 131072 + line

/-- A line of zero entries. -/
def blankLine : List W32 := List.replicate 64 0

def Kv.lineWord (pos ptr i : Nat) (k : Kv) : Nat :=
  match lookKey (lineKey pos ptr) k.lines with
  | some ws => (ws.getD i 0).toNat
  | none => 0

def Kv.setWord (pos ptr i v : Nat) (k : Kv) : Kv :=
  match lookKey (lineKey pos ptr) k.lines with
  | some ws => { k with lines := putKey (lineKey pos ptr) (ws.set i (BitVec.ofNat 32 v)) k.lines }
  | none => k

/-- Line numbers in use in a channel of the stack at `pos`. -/
def Kv.linesIn (pos chan : Nat) (k : Kv) : List Nat :=
  let lo := pos * 8388608 + chan * 131072
  (k.lines.filter (fun p => decide (lo ≤ p.1) && decide (p.1 < lo + 131072))).map (fun p => p.1 - lo)

/-- Free directory lines of the stack at `pos`. -/
def Kv.linesFree (pos : Nat) (k : Kv) : Nat :=
  8388608 - (k.lines.filter (fun p => p.1 / 8388608 == pos)).length

/-- The lowest `a` such that `n` lines from it on are free. -/
def lowestRun (used : List Nat) (n : Nat) : (fuel a : Nat) → Option Nat
  | 0, _ => none
  | f + 1, a => if (List.range n).all (fun i => !used.contains (a + i)) then some a else lowestRun used n f (a + 1)

def Kv.putBlank (pos ptr n : Nat) (k : Kv) : Kv :=
  { k with lines := (List.range n).foldl (fun m i => putKey (lineKey pos (ptr + i)) blankLine m) k.lines }

/-- R256: `n` consecutive free lines for slot `i`, from channel (i // W) mod 64 upwards. -/
def Kv.newLines (w i n : Nat) (k : Kv) : Option (Nat × Kv) :=
  let pos := i % w
  match (List.range 64).findSome? (fun d =>
      let c := (i / w + d) % 64
      (lowestRun (k.linesIn pos c) n (131073 - n) 0).map (fun a => linePtr c a)) with
  | some p => some (p, k.putBlank pos p n)
  | none => none

/-- The entry of number `x` of a tree of depth `d` (R255, R257). -/
def Kv.treeGet (pos : Nat) (k : Kv) : (d ptr x : Nat) → Nat
  | 0, ptr, _ => ptr
  | d + 1, ptr, x => k.treeGet pos d (k.lineWord pos ptr (x / 64 ^ d % 64)) x

/-- Writes entry `x` of a tree of depth `d`, with the lines that its path lacks. -/
def treePut (w i : Nat) : (d ptr x v : Nat) → Kv → Option Kv
  | 0, _, _, _, k => some k
  | d + 1, ptr, x, v, k =>
    let pos := i % w
    let s := x / 64 ^ d % 64
    if d = 0 then some (k.setWord pos ptr s v)
    else
      let c := k.lineWord pos ptr s
      if c = 0 then
        match k.newLines w i 1 with
        | some (c, k) => treePut w i d c x v (k.setWord pos ptr s c)
        | none => none
      else treePut w i d c x v k

/-- Adds entry `n` to a tree of `n` entries: the root and the store after it. -/
def treeAdd (w i root n v : Nat) (k : Kv) : Option (Nat × Kv) :=
  let pos := i % w
  if n = 0 then
    match k.newLines w i 1 with
    | some (r, k) => some (r, k.setWord pos r 0 v)
    | none => none
  else if treeDepth (n + 1) = treeDepth n then (treePut w i (treeDepth n) root n v k).map (fun k => (root, k))
  else
    match k.newLines w i 1 with
    | some (r, k) => (treePut w i (treeDepth (n + 1)) r n v (k.setWord pos r 0 root)).map (fun k => (r, k))
    | none => none

/-- Word `f` of the layer table entry of layer `l` (Table 8.6): 0 PECK_ROOT, 1 SUM_ROOT, 2 SUPER_ROOT. -/
def Kv.tableWord (pos table l f : Nat) (k : Kv) : Nat := k.lineWord pos (table + l / 16) (l % 16 * 4 + f)

def Kv.setTable (pos table l f v : Nat) (k : Kv) : Kv := k.setWord pos (table + l / 16) (l % 16 * 4 + f) v

/-- Enters a frame as number `n` of a kind in a layer that holds `n` of them. -/
def Kv.enter (w i table l kind n key : Nat) (k : Kv) : Option Kv :=
  let pos := i % w
  match treeAdd w i (k.tableWord pos table l kind) n (ptrOf key) k with
  | some (r, k) => some (k.setTable pos table l kind r)
  | none => none

/-- Allocates frame `n` of a kind for a layer and enters it. -/
def Kv.addFrame (w i table l kind n : Nat) (k : Kv) : Option Kv :=
  match k.alloc w i l (allocNum kind n) (kindUse kind) with
  | some (key, k) => k.enter w i table l kind n key
  | none => none

/-- Brings every kind of one layer from the counts `a` to the counts `b`. -/
def Kv.growLayer (w i table l : Nat) (a b : Nat × Nat × Nat) (k : Kv) : Option Kv :=
  let run := fun kind lo hi (k : Option Kv) =>
    (List.range (hi - lo)).foldl (fun k n => k.bind (Kv.addFrame w i table l kind (lo + n))) k
  run 2 a.2.2 b.2.2 (run 1 a.2.1 b.2.1 (run 0 a.1 b.1 (some k)))

/-- Frames and lines for `s'` stored positions of a session that holds those of `s`; none where some frame or line is not
free. The answer is the layer table's pointer and the store. -/
def Kv.grow (w i : Nat) (g : KvGeom) (table s s' : Nat) (k : Kv) : Option (Nat × Kv) :=
  if s' = 0 then some (table, k)
  else
    let t := if s = 0 then k.newLines w i (ceilDiv g.layers 16) else some (table, k)
    match t with
    | none => none
    | some (table, k) =>
      ((List.range g.layers).foldl (fun k l => k.bind (Kv.growLayer w i table l (g.held s) (g.held s'))) (some k)).map
        (fun k => (table, k))

/-- Every line of a tree below and including its root. -/
def Kv.treeKeys (pos : Nat) (k : Kv) : (d ptr : Nat) → List Nat
  | 0, _ => []
  | d + 1, ptr =>
    if ptr = 0 then []
    else lineKey pos ptr :: (if d = 0 then [] else
      (List.range 64).flatMap (fun s => k.treeKeys pos d (k.lineWord pos ptr s)))

def Kv.dropLines (keys : List Nat) (k : Kv) : Kv := { k with lines := k.lines.filter (fun p => !keys.contains p.1) }

/-- Cuts a subtree of depth `d` back to its first `n` entries. -/
def treeCut (pos : Nat) : (d ptr n : Nat) → Kv → Kv
  | 0, _, _, k => k
  | d + 1, ptr, n, k =>
    (List.range 64).foldl (fun k s =>
      let lo := s * 64 ^ d
      let c := k.lineWord pos ptr s
      if c = 0 then k
      else if n ≤ lo then
        (if d = 0 then k else k.dropLines (k.treeKeys pos d c)).setWord pos ptr s 0
      else if d = 0 ∨ lo + 64 ^ d ≤ n then k
      else treeCut pos d c (n - lo) k) k

/-- Cuts a tree of `m` entries back to `n`: the root and the store after it. -/
def treeTrim (pos root m n : Nat) (k : Kv) : Nat × Kv :=
  if n = 0 then (0, k.dropLines (k.treeKeys pos (treeDepth m) root))
  else
    let k := treeCut pos (treeDepth m) root n k
    (List.range (treeDepth m - treeDepth n)).foldl (fun r _ =>
      (r.2.lineWord pos r.1 0, r.2.dropLines [lineKey pos r.1])) (root, k)

/-! ## The frames of a session -/

/-- A frame of a session: its layer, kind, number within layer and kind, and key. -/
structure SesFrame where
  layer : Nat
  kind : Nat
  num : Nat
  key : Nat

/-- The key of frame `n` of a kind of a layer that holds `m` of them (R257). -/
def Kv.translate (pos table l kind m n : Nat) (k : Kv) : Nat :=
  ptrKey (k.treeGet pos (treeDepth m) (k.tableWord pos table l kind) n)

/-- The frames that a session with `s` stored positions holds, in the order of the peck list (R374). -/
def Kv.sessionFrames (pos : Nat) (g : KvGeom) (table s : Nat) (k : Kv) : List SesFrame :=
  let h := g.held s
  (List.range g.layers).flatMap (fun l =>
    [(0, h.1), (1, h.2.1), (2, h.2.2)].flatMap (fun q =>
      (List.range q.2).map (fun n => { layer := l, kind := q.1, num := n, key := k.translate pos table l q.1 q.2 n })))

/-- A frame pointer passes its check: VALID, POS below W and FRAME in the pool of Table 8.3 (R259). -/
def framePtrOk (w ptr : Nat) : Bool :=
  let key := ptrKey ptr
  bitAt ptr 31 && decide (keyPos key < w) && decide (poolBase (keyPos key) ≤ key % 32768) && decide (key % 32768 < 32256)

/-- The first layer of a session in which some frame pointer fails its check. -/
def Kv.badLayer (w pos : Nat) (g : KvGeom) (table s : Nat) (k : Kv) : Option Nat :=
  let h := g.held s
  (List.range g.layers).find? (fun l => [(0, h.1), (1, h.2.1), (2, h.2.2)].any (fun q =>
    (List.range q.2).any (fun n => !framePtrOk w (k.treeGet pos (treeDepth q.2) (k.tableWord pos table l q.1) n))))

/-- Every directory line of a session. -/
def Kv.sessionLines (pos : Nat) (g : KvGeom) (table s : Nat) (k : Kv) : List Nat :=
  let h := g.held s
  if s = 0 then []
  else (List.range (ceilDiv g.layers 16)).map (fun i => lineKey pos (table + i)) ++
    (List.range g.layers).flatMap (fun l =>
      [(0, h.1), (1, h.2.1), (2, h.2.2)].flatMap (fun q =>
        if q.2 = 0 then [] else k.treeKeys pos (treeDepth q.2) (k.tableWord pos table l q.1)))

/-- Frees what a session holds: every frame loses a reference and every line is freed (R109, R256). -/
def Kv.freeSession (pos : Nat) (g : KvGeom) (table s : Nat) (k : Kv) : Kv :=
  let fs := k.sessionFrames pos g table s
  let k := k.dropLines (k.sessionLines pos g table s)
  fs.foldl (fun k f => k.unref f.key) k

/-- Slots of a frame that are written when `s` positions are stored: slots of a peck, summaries or super-summaries. -/
def KvGeom.fill (g : KvGeom) (s kind n : Nat) : Nat :=
  if kind = 0 then min g.tok (s - n * g.tok)
  else if kind = 1 then min g.sums (s / g.tok - n * g.sums)
  else min g.sums (s / g.tok / 64 - n * g.sums)

/-! ## Discarding a prefill (R103, R247) -/

/-- Zeroes slots `a` to `b - 1` of a peck. -/
def Kv.zeroSlots (g : KvGeom) (key a b : Nat) (k : Kv) : Kv :=
  (List.range g.hkv).foldl (fun k h =>
    let off := (h * g.tok + a) * g.nb * kvBlk g.kv4
    let n := (b - a) * g.nb * kvBlk g.kv4
    (k.frameWrite key off (zeros n)).frameWrite key (g.voff + off) (zeros n)) k

/-- Takes one kind of one layer of a session back from `s'` to `s` stored positions: written places beyond `s` become
zero, and frames beyond it return to the pool. -/
def Kv.discardKind (pos : Nat) (g : KvGeom) (table s s' l kind m n : Nat) (k : Kv) : Kv :=
  if m = 0 then k
  else
    let keys := (List.range m).map (fun i => (i, k.translate pos table l kind m i))
    let k := keys.foldl (fun k p =>
      if n ≤ p.1 then { k with frames := delKey p.2 k.frames }
      else
        let a := g.fill s kind p.1
        let b := g.fill s' kind p.1
        if kind = 0 then k.zeroSlots g p.2 a b
        else k.frameWrite p.2 (a * g.sumBytes) (zeros ((b - a) * g.sumBytes))) k
    let r := treeTrim pos (k.tableWord pos table l kind) m n k
    r.2.setTable pos table l kind r.1

/-- Takes a session back from `s'` to `s` stored positions. The answer is the layer table's pointer, 0 for none. -/
def Kv.discard (pos : Nat) (g : KvGeom) (table s s' : Nat) (k : Kv) : Nat × Kv :=
  let h := g.held s
  let h' := g.held s'
  let k := (List.range g.layers).foldl (fun k l =>
    ((k.discardKind pos g table s s' l 0 h'.1 h.1).discardKind pos g table s s' l 1 h'.2.1 h.2.1).discardKind pos g table
      s s' l 2 h'.2.2 h.2.2) k
  if s = 0 then (0, k.dropLines ((List.range (ceilDiv g.layers 16)).map (fun i => lineKey pos (table + i)))) else (table, k)

/-! ## Look-aside buffers (R258) -/

/-- Uses the entry of a lowest-level line: the most recent first, at most 512. The flag says it was held. -/
def labUse (t : LabTag) (l : List LabTag) : Bool × List LabTag :=
  (l.contains t, (t :: l.filter (fun u => u != t)).take 512)

/-- A translation of the walker of the home stack, with its look-aside buffer and counters. -/
def Rood.walk (t : LabTag) (x : Rood) : Rood :=
  let pos := t.slot % x.width
  let r := labUse t (x.kv.labs.getD pos [])
  ({ x with kv := { x.kv with labs := x.kv.labs.set pos r.2 } }).countSlice pos (if r.1 then 9 else 10) 1

/-- Drops every entry of a slot. -/
def Rood.labDrop (slot : Nat) (x : Rood) : Rood :=
  { x with kv := { x.kv with labs := x.kv.labs.map (fun l => l.filter (fun t => t.slot != slot)) } }

/-! ## Reservations (R447, R450) -/

/-- Frames and lines that an arriving bushel needs in bonded DRAM (Table 13.2); none for one that lands in flash. -/
def Arrival.needs (a : Arrival) : Nat × Nat :=
  if a.toFlash then (0, 0)
  else
    let l := u8At 6 a.header
    let p := u32At 12 a.header
    (u32At 24 a.header, if p = 0 then 0 else ceilDiv l 16 +
      l * (treeLines p + treeLines (u32At 16 a.header) + treeLines (u32At 20 a.header)))

/-- Frames that admission has reserved and nothing has taken yet. -/
def Rood.reservedFrames (x : Rood) : Nat :=
  (x.seqs.map (fun q => q.resFrames)).sum + (x.moves.map (fun m => m.resFrames)).sum +
    (x.holds.map (fun h => h.frames)).sum + (x.arrivals.map (fun a => a.needs.1)).sum +
    (x.ckp.restore.map (fun r => r.resFrames)).getD 0

/-- Reserved directory lines of the stack at `pos`. -/
def Rood.reservedLines (pos : Nat) (x : Rood) : Nat :=
  let at' := fun (s : Nat) => s % x.width == pos
  ((x.seqs.filter (fun q => at' q.slot)).map (fun q => q.resLines)).sum +
    ((x.moves.filter (fun m => at' m.slot)).map (fun m => m.resLines)).sum +
    ((x.holds.filter (fun h => at' h.slot)).map (fun h => h.lines)).sum +
    ((x.arrivals.filter (fun a => at' a.slot)).map (fun a => a.needs.2)).sum +
    (x.ckp.restore.map (fun r => ((r.resLines.filter (fun q => q.1 == pos)).map (fun q => q.2)).sum)).getD 0

/-- Pool frames that are free and unreserved. -/
def Rood.framesOpen (x : Rood) : Nat := x.kv.free x.width - x.reservedFrames

def Rood.linesOpen (pos : Nat) (x : Rood) : Nat := x.kv.linesFree pos - x.reservedLines pos

/-- The memory test (R447) for a session of a latency class in slot `i`, with the FRAME_FLOOR in force at acceptance (R448). -/
def Rood.memoryTest (floor cls i frames lines : Nat) (x : Rood) : Bool :=
  (frames == 0 && lines == 0) ||
    (decide (frames + (if cls = 0 then 0 else floor) ≤ x.framesOpen) &&
      decide (lines ≤ x.linesOpen (i % x.width)))

end Sys2Proof.Machine
end

