-- ==== Sys2Proof/Machine/Select.lean ====
section
/-! DEFINITION. The selection engine and sampling (chapter 10). -/
namespace Sys2Proof.Machine
open Sys2Proof

/-- An entry of a request: its index and its FP32 value. -/
abbrev SelEntry := Nat × Nat

/-- key(v, order) of R297; none for a NaN. -/
def selKey (smallest : Bool) (v : Nat) : Option Nat :=
  if isNan32 v then none
  else
    let b := if v = 0x80000000 then 0 else v
    let k := if b < 0x80000000 then b + 0x80000000 else 0xFFFFFFFF - b
    some (if smallest then 0xFFFFFFFF - k else k)

/-- A valid entry: its key and its index. -/
structure Keyed where
  key : Nat
  idx : Nat
  deriving DecidableEq, Repr

def keyed (smallest : Bool) (es : List SelEntry) : List Keyed :=
  es.filterMap (fun e => (selKey smallest e.2).map (fun k => { key := k, idx := e.1 }))

/-! ## The radix passes (R298) -/

/-- From bin `b` downwards: the bin that holds the entry still needed, and what remains to take in it. -/
def radixBin (hist : Nat → Nat) : (b need : Nat) → Nat × Nat
  | 0, need => (0, need)
  | b + 1, need => if hist (b + 1) < need then radixBin hist b (need - hist (b + 1)) else (b + 1, need)

/-- Passes over digits d - 1 down to 0: the key at the k-th place and how many entries of that key are taken. -/
def radixPass (c : List Keyed) : (d lead need : Nat) → Nat × Nat
  | 0, p, need => (p, need)
  | d + 1, p, need =>
    let agree := c.filter (fun e => e.key >>> (8 * (d + 1)) == p)
    let hist := fun b => (agree.filter (fun e => (e.key >>> (8 * d)) % 256 == b)).length
    let r := radixBin hist 255 need
    radixPass c d (256 * p + r.1) r.2

/-- Better entry first: descending key, then ascending index (R299). -/
def keyedBefore (a b : Keyed) : Bool := decide (b.key < a.key) || (a.key == b.key && decide (a.idx ≤ b.idx))

def insertKeyed (a : Keyed) : List Keyed → List Keyed
  | [] => [a]
  | b :: l => if keyedBefore a b then a :: b :: l else b :: insertKeyed a l

def sortKeyed (l : List Keyed) : List Keyed := l.foldr insertKeyed []

/-- A selection result (Table 10.2): `taken` stands in the order of R299, `mass` and `left` are SEL_MASS and LEFT_MASS. -/
structure SelResult where
  offered : Nat
  valid : Nat
  nans : Nat
  k : Nat
  taken : List Keyed
  tieCount : Nat
  tieTaken : Nat
  mass : Nat
  left : Nat
  deriving DecidableEq, Repr

/-- SEL_MASS and LEFT_MASS with weights of 1, for `n` of `valid` entries (R304). -/
def unitMasses (n valid : Nat) : Nat × Nat :=
  if valid = 0 then (0, 0) else (rnd fp32 false n valid, rnd fp32 false (valid - n) valid)

def tiesOf (c taken : List Keyed) (key : Nat) : Nat × Nat :=
  ((c.filter (fun e => e.key == key)).length, (taken.filter (fun e => e.key == key)).length)

/-- One selection request (R295 to R302), with weights of 1 (R304). -/
def select (smallest : Bool) (k : Nat) (es : List SelEntry) : SelResult :=
  let c := keyed smallest es
  let taken :=
    if c.length ≤ k then sortKeyed c
    else
      let r := radixPass c 4 0 k
      sortKeyed (c.filter (fun e => decide (r.1 < e.key))) ++ (sortKeyed (c.filter (fun e => e.key == r.1))).take r.2
  let t := match taken.getLast? with
    | some e => tiesOf c taken e.key
    | none => (0, 0)
  let m := unitMasses taken.length c.length
  { offered := es.length, valid := c.length, nans := es.length - c.length, k := k, taken := taken, tieCount := t.1
    tieTaken := t.2, mass := m.1, left := m.2 }

/-- The indices taken, best first. -/
def SelResult.indices (r : SelResult) : List Nat := r.taken.map (fun e => e.idx)

/-! ## Sampling parameters (R305) -/

def bfNeg (v : Nat) : Bool := decide (2 ^ 15 ≤ v)
def bfZero (v : Nat) : Bool := v % 2 ^ 15 == 0
def bfFinite (v : Nat) : Bool := decide (v % 2 ^ 15 < 0x7F80)

/-- TEMPERATURE is zero, or positive and finite. -/
def temperatureOk (t : Nat) : Bool := bfZero t || (!bfNeg t && bfFinite t)

/-- TOP_P or MIN_P is zero, or above 0 and at most 1. -/
def probabilityOk (p : Nat) : Bool := bfZero p || (!bfNeg p && decide (p ≤ 0x3F80))

/-- TOP_K lies in its encoding; 0xFFFF is left to check 3. -/
def topKOk (k : Nat) : Bool := decide (k ≤ 1024) || k == 0xFFFF

/-! ## Weights (R310) -/

/-- The weight of a valid logit `z` with greatest logit `m` at temperature `t` (a BF16 code). -/
def sampleWeight (t m z : Nat) : Nat :=
  if bfZero t then (if vcmp (d32 z) (d32 m) = 0 then fOne' else 0)
  else
    match d32 m with
    | .inf false => if z = m then fOne' else 0
    | .inf true => fOne'
    | _ => fexp (vdivRnd fp32 (vadd (d32 z) (vneg (d32 m))) (fdec bf16 t))
where
  fOne' : Nat := 0x3F800000

/-- The masses of a sampling request (R304): `ws` are index and weight of the entries in ascending index, +0 for a NaN. -/
def sampleMasses (valid taken : Nat → Bool) (ws : List (Nat × Nat)) : Nat × Nat :=
  let z := tsum (ws.map (fun w => w.2))
  let s := tsum ((ws.filter (fun w => taken w.1)).map (fun w => w.2))
  let r := tsum ((ws.filter (fun w => valid w.1 && !taken w.1)).map (fun w => w.2))
  (fdiv s z, fdiv r z)

/-- A sampling result with its masses: the weights are those of R310 at temperature `t` and greatest logit `m`. -/
def SelResult.sampled (t m : Nat) (offered : List SelEntry) (r : SelResult) : SelResult :=
  let weight := fun (e : SelEntry) => if isNan32 e.2 then 0 else sampleWeight t m e.2
  let p := sampleMasses (fun i => offered.any (fun e => e.1 == i && !isNan32 e.2)) (fun i => r.taken.any (fun e => e.idx == i))
    (offered.map (fun e => (e.1, weight e)))
  { r with mass := p.1, left := p.2 }

/-! ## The draw (R312) -/

/-- The 24 bits of the n-th draw: SplitMix64. -/
def draw24 (seed : W64) (n : Nat) : Nat :=
  let x : W64 := seed + BitVec.ofNat 64 (n + 1) * 0x9E3779B97F4A7C15
  let x := (x ^^^ (x >>> 30)) * 0xBF58476D1CE4E5B9
  let x := (x ^^^ (x >>> 27)) * 0x94D049BB133111EB
  let x := x ^^^ (x >>> 31)
  (x >>> 40).toNat

/-- Prefix sums tsum(w, 0, j + 1). -/
def prefixSums (w : List Nat) : List Nat := (List.range w.length).map (fun j => tsum (w.take (j + 1)))

/-- The place that the draw takes among weights w[0 .. J]. -/
def drawPlace (u : Nat) (w : List Nat) : Nat :=
  let zf := tsum w
  let t := r32 (vmul (.fin false u (-24)) (d32 zf))
  match (prefixSums w).findIdx? (fun s => flt t s) with
  | some j => j
  | none => (((List.range w.length).filter (fun j => flt 0 (w.getD j 0))).getLast?).getD 0

/-! ## Stages (R307) -/

/-- Sampling fields and the state of the session's generator. -/
structure Sampling where
  temperature : Nat
  topK : Nat
  topP : Nat
  minP : Nat
  seed : W64
  counter : Nat

/-- The outcome of sampling one token: the token, none when VALID is 0; whether a draw was taken; and the selection. -/
structure Sampled where
  token : Option Nat
  drew : Bool
  sel : SelResult

/-- Stage 4: the last place kept. -/
def topPlace (p : Nat) (w : List Nat) : Nat :=
  if bfZero p then w.length - 1
  else
    let z := tsum w
    ((prefixSums w).findIdx? (fun s => !flt (fdiv s z) (bfTo32 p))).getD (w.length - 1)

/-- Stages 2 to 5 on the logits that masking leaves, as (token id, FP32 code). -/
def sample (s : Sampling) (offered : List SelEntry) : Sampled :=
  let greedy := bfZero s.temperature
  let k := if greedy then 1 else if s.topK = 0 then 1024 else s.topK
  let r := select false k offered
  match r.taken with
  | [] => { token := none, drew := false, sel := r }
  | best :: _ =>
    let value := fun i => ((offered.find? (fun e => e.1 == i)).map (fun e => e.2)).getD 0
    let m := value best.idx
    let r := r.sampled s.temperature m offered
    if greedy then { token := some best.idx, drew := false, sel := r }
    else
      let ws := r.taken.map (fun e => (e.idx, sampleWeight s.temperature m (value e.idx)))
      let kept := if bfZero s.minP then ws
        else ws.zipIdx.filterMap (fun p => if p.2 = 0 ∨ !flt p.1.2 (bfTo32 s.minP) then some p.1 else none)
      let w := kept.map (fun p => p.2)
      let j := topPlace s.topP w
      let place := drawPlace (draw24 s.seed s.counter) (w.take (j + 1))
      { token := some ((kept.getD place (best.idx, 0)).1), drew := true, sel := r }

end Sys2Proof.Machine
end

