-- ==== Sys2Proof/Machine/Attention.lean ====
section
/-! DEFINITION. Storing keys and values, summaries, choosing pecks, and attention beside the banks (R244 to R247, R260 to R272). -/
namespace Sys2Proof.Machine
open Sys2Proof

/-- What the KV side of a token leaves to be counted: partials and box scores of a bank engine, a selection, a translation. -/
inductive KvEvent where
  | partials (key n : Nat)
  | box (key : Nat)
  | sel (r : SelResult)
  | walk (kind layer line : Nat)
  deriving DecidableEq, Repr

/-- A session as its attention sees it: its home position, geometry, layer table and the stored positions that its frames
and directory have been brought to. -/
structure KvSes where
  pos : Nat
  g : KvGeom
  table : Nat
  stored : Nat

/-- Frames of a kind that each layer holds. -/
def KvSes.count (v : KvSes) (kind : Nat) : Nat :=
  let h := v.g.held v.stored
  if kind = 0 then h.1 else if kind = 1 then h.2.1 else h.2.2

/-- The key of a frame of the session. -/
def KvSes.frame (v : KvSes) (k : Kv) (l kind n : Nat) : Nat := k.translate v.pos v.table l kind (v.count kind) n

/-- The walk that finds it. -/
def walkEv (l kind n : Nat) : KvEvent := .walk kind l (n / 64)

/-! ## Blocks in frames -/

/-- Offset of block `b` of KV head `h` at slot `s` (Table 8.2). -/
def KvGeom.blkOff (g : KvGeom) (h s b : Nat) : Nat := ((h * g.tok + s) * g.nb + b) * kvBlk g.kv4

/-- A stored block: its codes, sign-extended (R193), and its FP16 scale. -/
def readKv (kv4 : Bool) (bs : List Byte) : Blk :=
  let n := kvBlk kv4 - 2
  .int (kvCodes kv4 (bs.take n)) (fdec fp16 (u16At n bs))

/-- The stored bytes of one head of dh values (R194, R207). -/
def kvHeadBytes (kv4 : Bool) (x : List Nat) : List Byte :=
  (groups 32 x).flatMap (fun b =>
    let q := quantInt (if kv4 then 7 else 127) b
    let r := kvBlkBytes kv4 q.1 q.2
    r.1 ++ r.2)

/-- The blocks of KV head `h` at slot `s`, keys from offset 0 and values from VOFF. -/
def KvSes.headBlks (v : KvSes) (k : Kv) (key base h s : Nat) : List Blk :=
  (chunks (kvBlk v.g.kv4) (k.frameRead key (base + v.g.blkOff h s 0) (v.g.nb * kvBlk v.g.kv4))).map (readKv v.g.kv4)

/-! ## Summaries (R266 to R268) -/

/-- A summary block: MAX_CODE and MIN_CODE of each element and the FP16 scale code. -/
structure SumBlk where
  hi : List Int
  lo : List Int
  scale : Nat

def SumBlk.bytes (b : SumBlk) : List Byte :=
  b.hi.map (fun c => byteOf (fieldOf 8 c)) ++ b.lo.map (fun c => byteOf (fieldOf 8 c)) ++ leBytes 2 b.scale

def readSum (bs : List Byte) : SumBlk :=
  { hi := (bs.take 32).map (fun b => signedOf 8 b.toNat), lo := (cut 32 32 bs).map (fun b => signedOf 8 b.toNat)
    scale := u16At 64 bs }

def vmax (a b : FVal) : FVal := if vcmp a b = -1 then b else a
def vmin (a b : FVal) : FVal := if vcmp a b = 1 then b else a

/-- A value as a signed quotient. -/
def vfrac (v : FVal) : Int × Nat := let r := vrat v; (if vneg? v then -(r.1 : Int) else r.1, r.2)

/-- ⌊v / sc⌋ and ⌈v / sc⌉ of exact quotients; sc is positive. -/
def floorQuot (v sc : FVal) : Int := let a := vfrac v; let s := vrat sc; (a.1 * s.2) / ((a.2 * s.1 : Nat) : Int)
def ceilQuot (v sc : FVal) : Int := let a := vfrac v; let s := vrat sc; -((-(a.1 * s.2)) / ((a.2 * s.1 : Nat) : Int))

/-- Element-wise best of lists of values. -/
def foldElems (f : FVal → FVal → FVal) : List (List FVal) → List FVal
  | [] => []
  | [a] => a
  | a :: l => a.zipWith f (foldElems f l)

/-- summarize of R267 over upper and lower bounds of each element; `nan` says that some scale is a NaN. -/
def summarize (nan : Bool) (his los : List (List FVal)) : SumBlk :=
  let zero := List.replicate 32 (0 : Int)
  if nan then { hi := zero, lo := zero, scale := fp16.nan }
  else
    let hi := foldElems vmax his
    let lo := foldElems vmin los
    let r := maxMag (hi ++ lo)
    if r.1 = 0 then { hi := zero, lo := zero, scale := 0 }
    else
      let c := upScale r.1 (r.2 * 127)
      let sc := fdec fp16 c
      { hi := hi.map (fun v => ceilQuot v sc), lo := lo.map (fun v => floorQuot v sc), scale := c }

/-- The elements of a stored block as exact values, and whether its scale is a NaN. -/
def blkVals (b : Blk) : Bool × List FVal :=
  match b with
  | .int cs s => (s == .nan, cs.map (fun c => vmul (vofInt c) s))
  | _ => (true, [])

/-- The summary of a full peck (R267). -/
def KvSes.summary (v : KvSes) (k : Kv) (key : Nat) : List Byte :=
  (List.range v.g.hkv).flatMap (fun h =>
    let slots := (List.range v.g.tok).map (fun s => v.headBlks k key 0 h s)
    (List.range v.g.nb).flatMap (fun b =>
      let vs := slots.map (fun bl => blkVals (bl.getD b (.bf [])))
      let xs := vs.map (fun p => p.2)
      (summarize (vs.any (fun p => p.1)) xs xs).bytes))

/-- The blocks of summary `n` of the summary or super frames of a layer. -/
def KvSes.sumBlks (v : KvSes) (k : Kv) (l kind n : Nat) : List SumBlk :=
  let key := v.frame k l kind (n / v.g.sums)
  (chunks 66 (k.frameRead key (n % v.g.sums * v.g.sumBytes) v.g.sumBytes)).map readSum

/-- The super-summary of group `n` (R268). -/
def KvSes.superSummary (v : KvSes) (k : Kv) (l n : Nat) : List Byte :=
  let all := (List.range 64).map (fun j => v.sumBlks k l 1 (64 * n + j))
  (List.range (v.g.hkv * v.g.nb)).flatMap (fun i =>
    let bs := all.map (fun s => s.getD i { hi := [], lo := [], scale := fp16.nan })
    let vals := fun (f : SumBlk → List Int) => bs.map (fun b => (f b).map (fun c => vmul (vofInt c) (fdec fp16 b.scale)))
    (summarize (bs.any (fun b => fdec fp16 b.scale == .nan)) (vals (fun b => b.hi)) (vals (fun b => b.lo))).bytes)

/-! ## Storing a position (R244 to R246, R260, R267, R268) -/

/-- Writes the key and value heads of position `p` of layer `l`, and the summaries that become due. -/
def KvSes.store (v : KvSes) (l p : Nat) (keys vals : List (List Nat)) (k : Kv) : Kv × List KvEvent :=
  let j := p / v.g.tok
  let s := p % v.g.tok
  let key := v.frame k l 0 j
  let put := fun (base : Nat) (hs : List (List Nat)) (k : Kv) =>
    hs.zipIdx.foldl (fun k q => k.frameWrite key (base + v.g.blkOff q.2 s 0) (kvHeadBytes v.g.kv4 q.1)) k
  let k := put v.g.voff vals (put 0 keys k)
  if v.g.retr && s + 1 == v.g.tok then
    let k := k.frameWrite (v.frame k l 1 (j / v.g.sums)) (j % v.g.sums * v.g.sumBytes) (v.summary k key)
    let evs := [walkEv l 0 j, walkEv l 1 (j / v.g.sums)]
    if j % 64 = 63 then
      let n := j / 64
      (k.frameWrite (v.frame k l 2 (n / v.g.sums)) (n % v.g.sums * v.g.sumBytes) (v.superSummary k l n),
        evs ++ [walkEv l 2 (n / v.g.sums)])
    else (k, evs)
  else (k, [walkEv l 0 j])

/-! ## Attention (R208, R261 to R263) -/

/-- fmax: a NaN where any operand is one; otherwise the largest, +0 for a zero. -/
def fmaxList (l : List Nat) : Nat :=
  if l.any isNan32 then fp32.nan
  else
    let m := l.foldl (fun m a => if flt m a then a else m) (l.headD 0)
    if m % 2 ^ 31 = 0 then 0 else m

def fsub (a b : Nat) : Nat := r32 (vadd (d32 a) (vneg (d32 b)))

/-- σ of a query against the stored key blocks of one slot (R208). -/
def slotScore (scale : Nat) (q key : List Blk) : Nat := fmul scale (tsum (key.zipWith blkDot q))

/-- A partial: mP, lP and vP. -/
structure Partial where
  m : Nat
  l : Nat
  v : List Nat

/-- The elements of a value head at a slot, as FP32 codes. -/
def valueElems (bs : List Blk) : List Nat := bs.flatMap Blk.elems

/-- The partial of peck `key` over its first `n` slots, for a query of KV head `h` (R261). -/
def KvSes.partialOf (v : KvSes) (k : Kv) (scale key h n : Nat) (q : List Blk) : Partial :=
  let sigma := (List.range n).map (fun s => slotScore scale q (v.headBlks k key 0 h s))
  let m := fmaxList sigma
  let e := sigma.map (fun x => fexp (fsub x m))
  let vals := (List.range n).map (fun s => valueElems (v.headBlks k key v.g.voff h s))
  { m := m, l := tsum e
    v := (List.range v.g.dh).map (fun x => tsum (e.zipWith (fun a row => fmul a (row.getD x 0)) vals)) }

/-- The merge of R262, over partials in ascending peck. -/
def mergePartials (dh : Nat) (ps : List Partial) : List Nat :=
  let m := fmaxList (ps.map (fun p => p.m))
  let a := ps.map (fun p => fexp (fsub p.m m))
  let lsum := tsum (a.zipWith (fun x p => fmul x p.l) ps)
  (List.range dh).map (fun x => fdiv (tsum (a.zipWith (fun y p => fmul y (p.v.getD x 0)) ps)) lsum)

/-- Visible slots of peck `j` for position `p` (R261). -/
def KvGeom.visible (g : KvGeom) (p j : Nat) : Nat := if j < p / g.tok then g.tok else p % g.tok + 1

/-- The output of one query head over the attended pecks. -/
def KvSes.attendHead (v : KvSes) (k : Kv) (scale l p h : Nat) (pecks : List Nat) (q : List Blk) : List Nat :=
  mergePartials v.g.dh (pecks.map (fun j => v.partialOf k scale (v.frame k l 0 j) h (v.g.visible p j) q))

/-! ## Scoring a box (R269) -/

/-- c_b of one summary block. -/
def boxBlk (q : Blk) (b : SumBlk) : Nat :=
  match q with
  | .int cs s =>
    let u := (List.zipWith3 (fun x hi lo => max (x * hi) (x * lo)) cs b.hi b.lo).sum
    r32 (vmul (vofInt u) (vmul s (fdec fp16 b.scale)))
  | _ => fp32.nan

/-- The score of a summary over every query head; G query heads share a KV head. -/
def KvSes.boxScore (v : KvSes) (scale g : Nat) (qs : List (List Blk)) (s : List SumBlk) : Nat :=
  fmaxList (qs.zipIdx.map (fun q =>
    fmul scale (tsum (q.1.zipWith boxBlk (cut' (q.2 / g * v.g.nb) v.g.nb s)))))
where
  cut' (a n : Nat) (l : List SumBlk) : List SumBlk := (l.drop a).take n

/-! ## Choosing the pecks (R270, R271) -/

def KvGeom.maxPecks (g : KvGeom) : Nat := min 1024 (16384 / g.tok)

/-- One top of R271 over frames of a kind, with what it leaves to be counted. -/
def KvSes.top (v : KvSes) (k : Kv) (scale g l kind n : Nat) (qs : List (List Blk)) (cand : List Nat) :
    List Nat × List KvEvent :=
  let es := cand.map (fun i => (i, v.boxScore scale g qs (v.sumBlks k l kind i)))
  let r := select false n es
  let frames := (cand.map (fun i => i / v.g.sums)).eraseDups
  (r.indices, cand.map (fun i => KvEvent.box (v.frame k l kind (i / v.g.sums))) ++ frames.map (walkEv l kind) ++ [.sel r])

def insertNat (a : Nat) : List Nat → List Nat
  | [] => [a]
  | b :: l => if a < b then a :: b :: l else if a = b then b :: l else b :: insertNat a l

/-- Ascending, without repeats. -/
def sortNat (l : List Nat) : List Nat := l.foldr insertNat []

/-- select_pecks of R271. -/
def KvSes.selectPecks (v : KvSes) (k : Kv) (scale g l p : Nat) (qs : List (List Blk)) : List Nat × List KvEvent :=
  let n := p / v.g.tok + 1
  let m := v.g.maxPecks
  if n ≤ m then (List.range n, [])
  else
    let ng := (n - 1) / 64
    let first : List Nat × List KvEvent :=
      if ng ≤ m / 16 then ((List.range (n - 3)).map (· + 1), [])
      else
        let t := v.top k scale g l 2 (m / 16) qs (List.range ng)
        let own := (sortNat t.1).flatMap (fun a => (List.range 64).map (fun i => 64 * a + i))
        ((own ++ (List.range (n - 2 - 64 * ng)).map (fun i => 64 * ng + i)).filter (· != 0), t.2)
    let r := v.top k scale g l 1 (m - 3) qs first.1
    (sortNat ([0, n - 2, n - 1] ++ r.1), first.2 ++ r.2)

/-- The pecks that the token at position `p` attends in layer `l`, in ascending order (R265, R271). -/
def KvSes.pecks (v : KvSes) (k : Kv) (scale g l p : Nat) (qs : List (List Blk)) : List Nat × List KvEvent :=
  if v.g.retr then v.selectPecks k scale g l p qs else (List.range (p / v.g.tok + 1), [])

/-- Positions up to `p` in the attended pecks: a[i] of R231 (R272). -/
def KvGeom.attended (g : KvGeom) (p : Nat) (pecks : List Nat) : Nat := (pecks.map (g.visible p)).sum

/-- The bound of R231, taken before the step runs. -/
def KvGeom.attendBound (g : KvGeom) (p : Nat) : Nat :=
  if !g.retr || decide (p / g.tok + 1 ≤ g.maxPecks) then p + 1 else (g.maxPecks - 1) * g.tok + p % g.tok + 1

/-- Attention of every query head of a token: outputs, positions attended, and what is to be counted. -/
def KvSes.attend (v : KvSes) (k : Kv) (scale g l p : Nat) (qs : List (List Blk)) :
    List (List Nat) × Nat × List KvEvent :=
  let s := v.pecks k scale g l p qs
  (qs.zipIdx.map (fun q => v.attendHead k scale l p (q.2 / g) s.1 q.1), v.g.attended p s.1,
    s.2 ++ s.1.flatMap (fun j => [walkEv l 0 j, KvEvent.partials (v.frame k l 0 j) qs.length]))

/-! ## Counting (Table 18.1) -/

/-- Counts a selection in the slice that the step director assigns to it. -/
def Rood.countSel (slot p : Nat) (r : SelResult) (x : Rood) : Rood :=
  ((x.countAssigned slot p 6 1).countAssigned slot p 7 r.nans).countAssigned slot p 8 (r.tieCount - r.tieTaken)

/-- One event of a session in slot `slot`, in the token at position `p`. -/
def Rood.kvEvent (slot gen p : Nat) (x : Rood) : KvEvent → Rood
  | .partials key n => x.countBank (keyPos key) (keyChan key) 0 n
  | .box key => x.countBank (keyPos key) (keyChan key) 1 1
  | .sel r => x.countSel slot p r
  | .walk kind layer line => x.walk { slot := slot, gen := gen, tree := kind, layer := layer, line := line }

end Sys2Proof.Machine
end

