-- ==== Sys2Proof/Machine/Flash.lean ====
section
/-! DEFINITION. The flash translation layer (R381 to R384): objects of a rood in extents, page encryption, free blocks and the
rood's share. The choice among equal blocks, the page number's fields and the extent numbers are internal (log entry 17). -/
namespace Sys2Proof.Machine
open Sys2Proof

/-- Bytes of an extent and of a page (R381). -/
def extentBytes : Nat := 4194304
def pageBytes : Nat := 16384

/-- Number of a LUN within its channel: up to four LUNs per chip enable (Table 13.5). -/
def lunId (ce lun : Nat) : Nat := 4 * ce + lun

def Lun.id (u : Lun) : Nat := lunId u.ce u.lun

/-- Blocks of a LUN that may hold extents: the good ones but for the first two, the system area (R384). -/
def Flash.usable (u : Lun) (f : Flash) : List Nat :=
  ((List.range u.blocks).filter (fun b => !(f.block u.chan u.id b).bad)).drop 2

/-- Where an extent lies. -/
def Extent.place (e : Extent) : Nat × Nat × Nat := (e.chan, e.lun, e.block)

/-- Places that hold an extent, or a freed one that is not yet erased. -/
def Rood.places (x : Rood) : List (Nat × Nat × Nat) :=
  ((x.flash.flatMap (fun o => o.exts)) ++ x.freedExts).map Extent.place

/-- Places in use anywhere on the device, with this rood as it stands now. -/
def Rood.usedPlaces (ctx : Ctx) (x : Rood) : List (Nat × Nat × Nat) :=
  ctx.dev.flash.freed ++ ctx.dev.roods.flatMap (fun r => if r.num == x.num then x.places else r.places)

/-- The free block of a channel with the lowest erase count (R384); the first LUN and block on a tie. -/
def Flash.freeBlock (used : List (Nat × Nat × Nat)) (c : Nat) (f : Flash) : Option Block :=
  ((f.luns.filter (fun u => u.chan == c && u.joined)).flatMap (fun u =>
    ((f.usable u).filter (fun b => !used.contains (c, u.id, b))).map (fun b => f.block c u.id b))).foldl
      (fun m b => match m with
        | none => some b
        | some a => if b.erases < a.erases then some b else some a) none

/-- The first channel from `c` on, in rotation, that has a free block. -/
def Flash.nextBlock (used : List (Nat × Nat × Nat)) (c : Nat) (f : Flash) : Option Block :=
  (List.range 16).findSome? (fun i => f.freeBlock used ((c + i) % 16))

/-- The block that a program ends on, and the blocks that failed it on the way: a failed program is rewritten into another block
of the same choice `pick`, and a block that fails is retired (R384). -/
def programBlock (pick : List (Nat × Nat × Nat) → Option Block) : (fuel : Nat) → (used : List (Nat × Nat × Nat)) →
    Option (Block × List Block)
  | 0, _ => none
  | n + 1, used =>
    match pick used with
    | none => none
    | some b =>
      if !b.worn then some (b, [])
      else (programBlock pick n ((b.chan, b.lun, b.block) :: used)).map (fun q => (q.1, b :: q.2))

/-- Attempts that suffice: every worn block fails once. -/
def Flash.tries (f : Flash) : Nat := (f.blocks.filter (fun b => b.worn)).length + 1

/-! ## Pages (R383) -/

/-- The 40-bit physical page number. -/
def pageNumber (c l b p : Nat) : Nat := (c <<< 36 ||| l <<< 31 ||| b <<< 8 ||| p) % 2 ^ 40

def pageNonce (e : Extent) (p : Nat) : List Byte :=
  leBytes 5 (pageNumber e.chan e.lun e.block p) ++ leBytes 4 e.erases ++ zeros 3

def pageAad (e : Extent) (p : Nat) : List Byte := leBytes 4 e.rood ++ leBytes 4 e.number ++ leBytes 4 p

def sealPage (key : BitVec 256) (e : Extent) (p : Nat) (bs : List Byte) : Page :=
  let r := gcmEncrypt (beBytes 32 key.toNat) (pageNonce e p) (pageAad e p) bs
  { cipher := r.1, tag := r.2 }

def openPage (key : BitVec 256) (e : Extent) (p : Nat) (g : Page) : Option (List Byte) :=
  gcmDecrypt (beBytes 32 key.toNat) (pageNonce e p) (pageAad e p) g.cipher g.tag

/-- An extent of 4 MiB of data on a block. -/
def sealExtent (key : BitVec 256) (rood number : Nat) (b : Block) (bs : List Byte) : Extent :=
  let e : Extent := { chan := b.chan, lun := b.lun, block := b.block, erases := b.erases, rood := rood, number := number, pages := [] }
  { e with pages := (chunks pageBytes (padTo extentBytes bs)).zipIdx.map (fun q => sealPage key e q.2 q.1) }

/-- The data of an extent; none where a page's tag fails (a media error). -/
def openExtent (key : BitVec 256) (e : Extent) : Option (List Byte) :=
  (e.pages.zipIdx.mapM (fun q => openPage key e q.2 q.1)).map List.flatten

/-! ## Objects (R381) -/

/-- Extents of an object of `n` bytes. -/
def extentsOf (n : Nat) : Nat := ceilDiv n extentBytes

/-- Extents that a rood may hold (R381). -/
def Rood.extentLimit (x : Rood) : Nat := 15 * x.flashShare * 10 ^ 9 / (16 * extentBytes)

def Rood.extentsHeld (x : Rood) : Nat := (x.flash.map (fun o => o.exts.length)).sum

/-- Bytes of a bushel of `n` frames (R373). -/
def framesOff (n : Nat) : Nat := 4096 * ceilDiv (512 + 8 * n) 4096
def bushelSize (n : Nat) : Nat := framesOff n + 65536 * n

/-- Extents that arrivals, shards in transit and a restore have reserved in the share. -/
def Rood.extentsReserved (x : Rood) : Nat :=
  ((x.arrivals.filter (fun a => a.toFlash)).map (fun a => extentsOf (bushelSize (u32At 24 a.header)))).sum +
    (x.ckp.incoming.map (fun i => extentsOf (4096 + i.hdr.shardLen))).sum +
    (x.ckp.restore.map (fun r => r.resExts)).getD 0

/-- The share holds `n` more extents. -/
def Rood.shareHolds (n : Nat) (x : Rood) : Bool := decide (x.extentsHeld + x.extentsReserved + n ≤ x.extentLimit)

/-- Extents of the present object, placed one after another, and the blocks that failed a program; none where no channel has a
free block. -/
def placeExtents (key : BitVec 256) (rood : Nat) (f : Flash) : (used : List (Nat × Nat × Nat)) → (chan number : Nat) →
    List (List Byte) → Option (List Extent × List Block)
  | _, _, _, [] => some ([], [])
  | used, chan, number, bs :: rest =>
    match programBlock (fun u => f.nextBlock u chan) f.tries used with
    | some (b, failed) =>
      (placeExtents key rood f ((b :: failed).map (fun k => (k.chan, k.lun, k.block)) ++ used) (chan + 1) (number + 1) rest).map
        (fun l => (sealExtent key rood number b bs :: l.1, failed ++ l.2))
    | none => none

/-- The first extent number above those in use. -/
def Rood.nextExtent (x : Rood) : Nat :=
  ((x.flash.flatMap (fun o => o.exts)).map (fun e => e.number + 1)).foldl max 0

/-- Writes an object; none where the share or the blocks do not hold it. The object takes the number `nextObj`. -/
def Rood.writeObject (ctx : Ctx) (kind : ObjKind) (bs : List Byte) (x : Rood) : Option Rood :=
  if !x.shareHolds (extentsOf bs.length) then none
  else
    match placeExtents x.storageKey x.num ctx.dev.flash (x.usedPlaces ctx) x.nextChan x.nextExtent (chunks extentBytes bs) with
    | none => none
    | some (es, failed) =>
      let x := es.foldl (fun x e => x.ask (.programmed e.chan e.lun e.block)) x
      let x := failed.foldl (fun x b => x.ask (.retire b.chan b.lun b.block)) x
      some (({ x with
        flash := x.flash ++ [{ id := x.nextObj, kind := kind, size := bs.length, exts := es }]
        nextObj := x.nextObj + 1, nextChan := (x.nextChan + 1) % 16 } : Rood).count 7 bs.length)

def Rood.object? (id : Nat) (x : Rood) : Option FlashObj := x.flash.find? (fun o => o.id == id)

/-- The data of an extent as the NAND gives it: none on a media error, where a page is beyond every decoding or its tag fails
(R383). -/
def Flash.readExtent (key : BitVec 256) (e : Extent) (f : Flash) : Option (List Byte) :=
  if (f.block e.chan e.lun e.block).lost then none else openExtent key e

/-- Reads an object: its bytes, none on a media error; a block that gives one is retired (R384). -/
def Rood.readObject (ctx : Ctx) (id : Nat) (x : Rood) : Rood × Option (List Byte) :=
  match x.object? id with
  | none => (x, none)
  | some o =>
    let read := fun e => ctx.dev.flash.readExtent x.storageKey e
    let bs := ((o.exts.mapM read).map List.flatten).map (fun b => b.take o.size)
    let y := o.exts.foldl (fun y e => y.ask (.pagesRead e.chan e.lun e.block e.pages.length)) x
    let y := (o.exts.filter (fun e => (read e).isNone)).foldl (fun y e => y.ask (.retire e.chan e.lun e.block)) y
    (y.count 8 o.size, bs)

/-- Frees an object: its extents wait for their erasure (R109, R384). -/
def Rood.freeObject (id : Nat) (x : Rood) : Rood :=
  match x.object? id with
  | some o => { x with flash := x.flash.filter (fun p => p.id != id), freedExts := x.freedExts ++ o.exts }
  | none => x

end Sys2Proof.Machine
end

