-- ==== Sys2Proof/Machine/Bushel.lean ====
section
/-! DEFINITION. The session table entry as bytes (Table 3.1) and the bushel: header, peck list, frames, and how a reader judges
and takes one up (R373 to R377). -/
namespace Sys2Proof.Machine
open Sys2Proof

/-! ## The entry as bytes (Table 3.1) -/

def SesState.code : SesState → Nat
  | .resident => 1
  | .queued => 2
  | .running => 3
  | .parked => 4
  | .moving => 5
  | .suspect => 6

def SesState.ofCode : Nat → SesState
  | 2 => .queued
  | 3 => .running
  | 4 => .parked
  | 5 => .moving
  | 6 => .suspect
  | _ => .resident

/-- The 128 bytes of an entry with generation `gen`. -/
def Entry.bytes (gen : Nat) (e : Entry) : List Byte :=
  leBytes 4 (e.state.code ||| e.moveKind <<< 4 ||| gen <<< 8 ||| e.latClass <<< 16 ||| bit e.retrieval <<< 18 |||
      bit e.kv4 <<< 19 ||| bit (decide (1 ≤ e.length)) <<< 20 ||| e.modelSlot <<< 24) ++
    leBytes 4 (e.adapterSlot ||| e.listSet <<< 16 ||| e.lastYield <<< 24 ||| e.carry.length <<< 28) ++
    leBytes 4 (leVal (padTo 3 e.carry)) ++ leBytes 4 e.modelSeq ++ leBytes 4 e.length ++ leBytes 4 e.contextLimit ++
    leBytes 4 (if e.length = 0 then 0 else e.pendingToken) ++ leBytes 4 e.pecks ++ leBytes 8 e.dirRoot.toNat ++
    leBytes 8 e.streamBytes ++ leBytes 8 e.seed.toNat ++ leBytes 8 e.rng.toNat ++ leBytes 8 e.openTime.toNat ++
    leBytes 8 e.lastTime.toNat ++ leBytes 8 e.bushel ++ leBytes 4 e.parent.toNat ++ leBytes 4 e.genCount ++
    leBytes 8 e.grains ++ zeros 24

/-- The entry that 128 bytes hold, for a session of a given geometry. -/
def readEntry (geo : SesGeo) (b : List Byte) : Entry :=
  let w0 := u32At 0 b
  let w1 := u32At 4 b
  { state := SesState.ofCode (bitsOf w0 0 4), moveKind := bitsOf w0 4 4, latClass := bitsOf w0 16 2, retrieval := bitAt w0 18
    kv4 := bitAt w0 19, modelSlot := bitsOf w0 24 8, adapterSlot := bitsOf w1 0 16, listSet := bitsOf w1 16 8
    lastYield := bitsOf w1 24 4, carry := cut 8 (bitsOf w1 28 2) b, modelSeq := u32At 12 b, length := u32At 16 b
    contextLimit := u32At 20 b, pendingToken := u32At 24 b, pecks := u32At 28 b, dirRoot := BitVec.ofNat 32 (u64At 32 b)
    streamBytes := u64At 40 b, seed := BitVec.ofNat 64 (u64At 48 b), rng := BitVec.ofNat 64 (u64At 56 b)
    openTime := BitVec.ofNat 64 (u64At 64 b), lastTime := BitVec.ofNat 64 (u64At 72 b), bushel := u64At 80 b
    parent := BitVec.ofNat 32 (u32At 88 b), genCount := u32At 92 b, grains := u64At 96 b, geo := geo }

/-- Stored positions of a session as its entry stands (R92). -/
def Entry.stored (e : Entry) : Nat := storedOf e.length

/-! ## Digests of what a session is bound to (Table 2.9) -/

def Rood.adapterDigest (e : Entry) (x : Rood) : List Byte :=
  if e.adapterSlot = 0xFFFF then zeros 48 else ((lookKey e.adapterSlot x.obj.adapters).map (fun a => a.digest)).getD (zeros 48)

/-- The version of a list set in force: the newest of its number. -/
def Rood.listNow (n : Nat) (x : Rood) : Option ListSet := x.obj.lists.find? (fun s => s.num == n)

def Rood.listDigest (e : Entry) (x : Rood) : List Byte :=
  if e.listSet = 0xFF then zeros 48 else ((x.listNow e.listSet).map (fun s => s.digest)).getD (zeros 48)

/-! ## Writing a bushel (R373, R374) -/

/-- The header of a bushel (Table 13.2), with the digests of the adapter and the list set. -/
def Entry.bushelHead (gen : Nat) (da dl : List Byte) (e : Entry) : List Byte :=
  let g := e.geom
  let h := g.held e.stored
  let n := g.frames e.stored
  let e' := { e with state := .resident, moveKind := 0, dirRoot := 0, bushel := 0 }
  let body := leBytes 4 0x4C485342 ++ leBytes 4 (1 ||| g.layers <<< 16) ++ leBytes 4 (g.tok ||| g.hkv <<< 16 ||| g.dh <<< 24) ++
    leBytes 4 h.1 ++ leBytes 4 h.2.1 ++ leBytes 4 h.2.2 ++ leBytes 4 n ++ leBytes 4 (framesOff n) ++
    e'.bytes gen ++ padTo 48 e.geo.digest ++ da ++ dl ++ zeros 204
  body ++ leBytes 4 (crc32c body).toNat

/-- The header of a session's bushel. -/
def Rood.bushelHeader (slot : Nat) (e : Entry) (x : Rood) : List Byte :=
  e.bushelHead (x.slot slot).gen (x.adapterDigest e) (x.listDigest e)

/-- A peck list entry (Table 13.3). -/
def listEntry (g : KvGeom) (s : Nat) (f : SesFrame) (bs : List Byte) : List Byte :=
  leBytes 8 (f.layer <<< 56 ||| f.kind <<< 48 ||| g.fill s f.kind f.num <<< 32 ||| (crc32c bs).toNat)

/-- Frames of a session in peck-list order, with their bytes. -/
def Rood.frameList (slot : Nat) (e : Entry) (x : Rood) : List (SesFrame × List Byte) :=
  (x.kv.sessionFrames (slot % x.width) e.geom e.dirRoot.toNat e.stored).map (fun f => (f, x.kv.frameRead f.key 0 frameBytes))

/-- The bushel of a session whose frames are in bonded DRAM. -/
def Rood.bushelOf (slot : Nat) (e : Entry) (x : Rood) : List Byte :=
  let fs := x.frameList slot e
  let list := fs.flatMap (fun f => listEntry e.geom e.stored f.1 f.2)
  padTo (framesOff fs.length) (x.bushelHeader slot e ++ list) ++ fs.flatMap (fun f => f.2)

/-! ## Reading a bushel (R375, R376) -/

def hdrOk (h : List Byte) : Bool :=
  u32At 0 h == 0x4C485342 && u16At 4 h == 1 && u32At 508 h == (crc32c (h.take 508)).toNat

/-- The geometry that a header names. -/
def hdrGeo (h : List Byte) : SesGeo :=
  { layers := u8At 6 h, kvHeads := u8At 10 h, headDim := u8At 11 h, digest := cut 160 48 h }

/-- The entry of a header. -/
def hdrEntry (h : List Byte) : Entry := readEntry (hdrGeo h) (cut 32 128 h)

def hdrFrames (h : List Byte) : Nat := u32At 24 h

/-- The frames that a geometry holds for `s` positions, in peck-list order. -/
def KvGeom.frameOrder (g : KvGeom) (s : Nat) : List SesFrame :=
  let h := g.held s
  (List.range g.layers).flatMap (fun l => [(0, h.1), (1, h.2.1), (2, h.2.2)].flatMap (fun q =>
    (List.range q.2).map (fun n => { layer := l, kind := q.1, num := n, key := 0 })))

/-- PECKS, SUMS, SUPERS, N, T and every FILL agree with the LENGTH of ENTRY, and every frame's CRC matches (R376). -/
def bushelOk (h list : List Byte) (frames : List (List Byte)) : Bool :=
  let e := hdrEntry h
  let g := e.geom
  let c := g.held e.stored
  let order := g.frameOrder e.stored
  hdrOk h && u16At 8 h == g.tok && u32At 12 h == c.1 && u32At 16 h == c.2.1 && u32At 20 h == c.2.2 &&
    hdrFrames h == order.length && frames.length == order.length && list.length == 8 * order.length &&
    ((chunks 8 list).zip (order.zip frames)).all (fun q => q.1 == listEntry g e.stored q.2.1 q.2.2)

/-- Header, peck list and frames of a bushel as it lies in flash. -/
def bushelParts (b : List Byte) : List Byte × List Byte × List (List Byte) :=
  let h := b.take 512
  let n := hdrFrames h
  (h, cut 512 (8 * n) b, (List.range n).map (fun i => cut (framesOff n + frameBytes * i) frameBytes b))

/-- Allocates the frames and lines of a session for slot `i` and copies the frames of a bushel into them (R377): the layer
table's pointer and the store. -/
def Kv.install (w i : Nat) (g : KvGeom) (s : Nat) (frames : List (List Byte)) (k : Kv) : Option (Nat × Kv) :=
  match k.grow w i g 0 0 s with
  | none => none
  | some (t, k) =>
    if s = 0 then some (0, k)
    else some (t, ((k.sessionFrames (i % w) g t s).zip frames).foldl (fun k q => k.frameWrite q.1.key 0 q.2) k)

/-- Pecks that a session of `s` stored positions references (Table 3.1). -/
def KvGeom.peckCount (g : KvGeom) (s : Nat) : Nat := g.layers * (g.held s).1

/-- Keys of the frames that a session holds in bonded DRAM. -/
def Rood.frameKeys (slot : Nat) (e : Entry) (x : Rood) : List Nat :=
  (x.kv.sessionFrames (slot % x.width) e.geom e.dirRoot.toNat e.stored).map (fun f => f.key)

/-- The mover of each position counts the frames of its own stack that it copies (R28, R375, Table 18.1). -/
def Rood.countCopied (keys : List Nat) (x : Rood) : Rood :=
  (List.range x.width).foldl (fun x p => x.countSlice p 23 (keys.filter (fun k => keyPos k == p)).length) x

/-- Frees every bushel of a slot: a session has at most one (R109). -/
def Rood.freeBushel (slot : Nat) (x : Rood) : Rood :=
  (x.flash.filter (fun o => o.kind == .bushel slot)).foldl (fun x o => x.freeObject o.id) x

/-- Frees what a session holds in bonded DRAM; its look-aside entries go with it (R109, R258). A session without a layer
table holds nothing there. -/
def Rood.freeKv (slot : Nat) (e : Entry) (x : Rood) : Rood :=
  (if e.dirRoot = 0 then x
   else { x with kv := x.kv.freeSession (slot % x.width) e.geom e.dirRoot.toNat e.stored } : Rood).labDrop slot

end Sys2Proof.Machine
end

