-- ==== Sys2Proof/Machine/Tally.lean ====
section
/-! DEFINITION. The rood tally as bytes (Table 18.4) and its reading. -/
namespace Sys2Proof.Machine
open Sys2Proof

/-- The 512 bytes of a tally. -/
def Tally.bytes (t : Tally) : List Byte :=
  padTo 464 (leBytes 4 0x594C4154 ++ leBytes 4 (1 ||| t.rood <<< 16 ||| t.width <<< 24) ++ leBytes 8 t.composition ++
    leBytes 8 t.openTime.toNat ++ leBytes 8 t.time.toNat ++
    [t.grains, t.sharedGrains, t.activeNs, t.tokensGenerated, t.positionsPrefilled, t.textBytesIn, t.streamBytes, t.vecScores,
      t.frameIntervals, t.extentIntervals, t.chainBytesOut, t.chainBytesIn].flatMap (leBytes 8) ++
    [t.sessionsOpened, t.loads, t.events, t.peakFrames, bit t.closed ||| bit t.carried <<< 1].flatMap (leBytes 4)) ++
    padTo 48 t.eventChain

/-- The tally that 512 bytes hold. -/
def readTally (b : List Byte) : Tally :=
  { rood := u8At 6 b, width := u8At 7 b, composition := u64At 8 b, openTime := BitVec.ofNat 64 (u64At 16 b)
    time := BitVec.ofNat 64 (u64At 24 b), grains := u64At 32 b, sharedGrains := u64At 40 b, activeNs := u64At 48 b
    tokensGenerated := u64At 56 b, positionsPrefilled := u64At 64 b, textBytesIn := u64At 72 b, streamBytes := u64At 80 b
    vecScores := u64At 88 b, frameIntervals := u64At 96 b, extentIntervals := u64At 104 b, chainBytesOut := u64At 112 b
    chainBytesIn := u64At 120 b, sessionsOpened := u32At 128 b, loads := u32At 132 b, events := u32At 136 b
    peakFrames := u32At 140 b, closed := bitAt (u32At 144 b) 0, carried := bitAt (u32At 144 b) 1, eventChain := cut 464 48 b }

/-- The rood's live tally as it is taken at `now` (R508). -/
def Rood.takeTally (now : W64) (x : Rood) : Tally := { x.tally with time := now, eventChain := x.obj.eventChain }

end Sys2Proof.Machine
end

