-- ==== Sys2Proof/Machine/Intake.lean ====
section
/-! DEFINITION. Intake and completion rings, index lines, MSI-X masks and the bulk window: the commands of chapter 4 that
reach the host interface itself. -/
namespace Sys2Proof.Machine
open Sys2Proof

/-! ## Snooped lines (R138, R140, R135) -/

/-- A line that the host interface has read. A poisoned line is kept only at the next expected slot: read as a prefetch it is not
acted on before it is read again (R540). -/
def IRing.readLine (slot : Nat) (line : SlotLine) (i : IRing) : IRing :=
  { i with lines := if line == .poison && slot != i.next % 2 ^ i.sizeLog2 then delKey slot i.lines else putKey slot line i.lines }

/-- The host interface reads a snooped intake line again and accepts what it may. -/
def Rood.snoopIntake (now : W64) (n slot : Nat) (line : SlotLine) (x : Rood) : Rood :=
  ({ x with irings := modIdx n (IRing.readLine slot line) x.irings }).pump now

/-- INTAKE_LINE_SNOOP (R138): a snoop takes the line of slot `slot` of ring `n`, and the host interface reads it again. -/
def execIntakeLineSnoop (r n slot : Nat) (line : SlotLine) (s : State) : Result :=
  .next (onCxl r (fun c x => x.snoopIntake c.time n slot line) s)

/-- HOST_INDEX_LINE_SNOOP (R140): host software has written CRING_CONS_n; its freed records let waiting rings proceed. -/
def execHostIndexLineSnoop (r n cons : Nat) (s : State) : Result :=
  .next (onCxl r (fun c x => (x.modCring n (fun q => { q with cons := cons % 2 ^ 32 })).pump c.time) s)

/-- IRING_CONS_WRITE (R135): the host interface writes IRING_CONS_n. -/
def execIringConsWrite (r n : Nat) (s : State) : Result := .next (onCxl r (fun _ x => x.writeCons n) s)

/-- CRING_MOD_TIMEOUT (R158): the oldest unsignalled record of ring `n` has waited TIME_US (log entry 4). -/
def execCringModTimeout (r n : Nat) (s : State) : Result :=
  .next (onRood r (fun c x => x.moderate c.time n true) s)

/-! ## MSI-X masks (R158, R514) -/

/-- Clears the Mask bit of an entry; true when a pending message is to be sent. -/
def msixClear (vec : Nat) (l : List MsixEntry) : List MsixEntry × Bool :=
  match l[vec]? with
  | some e => (l.set vec { e with masked := false, pend := false }, e.pend)
  | none => (l, false)

/-- Unmasks a vector of the physical function. -/
def Dev.pfUnmask (vec : Nat) (d : Dev) : Dev :=
  let p := msixClear vec d.regs.msix
  { d with regs := { d.regs with msix := p.1 }, out := if p.2 then d.out ++ [.msix 0 vec] else d.out }

/-- Unmasks a vector of the rood's function. -/
def Rood.unmask (vec : Nat) (x : Rood) : Rood :=
  let p := msixClear vec x.regs.msix
  let x := { x with regs := { x.regs with msix := p.1 } }
  if p.2 then x.msix vec else x

/-- MSIX_UNMASK (R158): host software unmasks a vector, and a message that was held is sent. Function 0 is the physical
function, function r + 1 the virtual function of rood r (R51). -/
def execMsixUnmask (fn vec : Nat) (s : State) : Result :=
  .next (onDev (fun t d => if fn = 0 then d.pfUnmask vec else if !d.roodsLive then d else d.atRood (fn - 1) (fun _ x => x.unmask vec) t) s)

/-! ## The bulk window (R51, R52, R160) -/

/-- Bytes of a bulk window (R51). -/
def bulkSize : Nat := 2 ^ 33

/-- Lines of the staging region that a write of `n` bytes at `off` covers whole. -/
def wholeLines (off n : Nat) : List Nat := (List.range ((off + n) / 64 - ceilDiv off 64)).map (fun i => ceilDiv off 64 + i)

/-- Lines that the write touches. -/
def touchedLines (off n : Nat) : List Nat := (List.range (ceilDiv (off + n) 64 - off / 64)).map (fun i => off / 64 + i)

/-- A host write of the staging region. Poisoned data makes the lines it touches bad; clean data makes whole lines good. -/
def Rood.bulkWrite (off : Nat) (bytes : List Byte) (poison : Bool) (x : Rood) : Rood :=
  let good := wholeLines off bytes.length
  let bad := x.stagingBad.filter (fun p => !good.contains p.1)
  { x with
    staging := memWrite x.staging off bytes
    stagingBad := if poison then (touchedLines off bytes.length).foldl (fun m l => putKey l false m) bad else bad }

/-- HDM decoder r committed by host software at a host address, for the whole bulk window (R51). -/
def Hdm.whole (base : Nat) : Hdm := { base := base, size := bulkSize, committed := true }

/-- The offset in the bulk window of `n` bytes at a host address, where the decoder decodes them (R160). -/
def Hdm.decode (addr n : Nat) (h : Hdm) : Option Nat :=
  if h.committed ∧ h.base ≤ addr ∧ addr + n ≤ h.base + h.size then some (addr - h.base) else none

/-- A host write at an address that the decoder decodes. -/
def Rood.cxlWrite (addr : Nat) (bytes : List Byte) (poison : Bool) (x : Rood) : Rood :=
  match x.hdm.decode addr bytes.length with
  | some off => x.bulkWrite off bytes poison
  | none => x

/-- BULK_WINDOW_WRITE (R160): a host write to the staging region through HDM decoder r, which host software has committed at
`a.base` (log entry 72), of clean data or with CXL poison. An address that the 8 GiB window does not hold does not exist (R51). -/
def execBulkWindowWrite (r : Nat) (a : BulkAddr) (bytes : List Byte) (poison : Bool) (s : State) : Result :=
  if ((Hdm.whole a.base).decode a.addr bytes.length).isSome then
    .next (onCxl r (fun _ x => ({ x with hdm := Hdm.whole a.base } : Rood).cxlWrite a.addr bytes poison) s)
  else .fault .outsideBulkWindow

/-- Reads a range of the bulk window for a command: the status that a bad line gives, 0 for none, and the bytes (Table 16.1
class 0x0D, Table 16.2, Table 18.1). -/
def Rood.readBulk (now : W64) (off len : Nat) (x : Rood) : Rood × Nat × List Byte :=
  let marks := (touchedLines off len).filterMap (fun l => lookKey l x.stagingBad)
  if len = 0 then (x, 0, [])
  else if marks.contains true then (x, stSuspect, [])
  else if marks.contains false then (x.poisonEvent now, stFormat, [])
  else (x.count 4 len, 0, memReadN x.staging off len)

/-! ## Ring control registers (R130 to R133, R519) -/

/-- SIZE_LOG2 lies from 6 to 16 (R129). -/
def legalSize (k : Nat) : Bool := decide (6 ≤ k) && decide (k ≤ 16)

/-- The ring is enabled, with its consumer index 0, its expected phase 1 and IRING_CONS_n written as 0 (R132, R135). The
ring's bytes are zero then, as host software must see to (R132; log entry 23). -/
def Rood.enableIring (n k cring : Nat) (x : Rood) : Rood :=
  ({ x with irings := modIdx n (fun i => { i with
      enable := true, sizeLog2 := k, cring := cring, next := 0, consWritten := 0, lines := [] }) x.irings }).writeCons n

/-- A write of ROOD_IRING_CTL_n. SIZE_LOG2 is fixed while ENABLE is 1 (R131); `ok` says whether the ring's addresses
translate when it is enabled (R519). -/
def Rood.writeIringCtl (now : W64) (n v : Nat) (ok : Bool) (x : Rood) : Rood :=
  match x.irings[n]? with
  | none => x
  | some i =>
    let off := 0x210 + 32 * n
    let k := if i.enable then i.sizeLog2 else bitsOf v 16 4
    let cring := bitsOf v 8 3
    let clash := i.enable && bitsOf v 16 4 != i.sizeLog2
    let x := if clash then x.configEntry now 2 off else x
    let set := fun (e : Bool) (x : Rood) =>
      { x with irings := modIdx n (fun i => { i with enable := e, sizeLog2 := k, cring := cring }) x.irings }
    if !bitAt v 31 then set false x
    else if i.enable then (set true x).pump now
    else if !legalSize k then (set false x).configEntry now 1 off
    else if !ok then (set false x).configEntry now 3 off
    else (x.enableIring n k cring).pump now

/-- IRING_CTL_WRITE (R132): a write of ROOD_IRING_CTL_n enables or disables an intake ring. -/
def execIringCtlWrite (r n : Nat) (value : W32) (xlatOk : Bool) (s : State) : Result :=
  .next (onRood r (fun c x => x.writeIringCtl c.time n value.toNat xlatOk) s)

/-- ACTIVE of a completion ring: enabled, or records held (Table 4.2). -/
def CRing.active (c : CRing) : Bool := c.enable || !c.held.isEmpty

/-- A write of ROOD_CRING_CTL_n. Enabling sets the producer index to 0 and the phase to 1, and held records are written. What
CRING_CONS_n counts then is the model's choice (DESIGN CHOICE, log entry 71). -/
def Rood.writeCringCtl (now : W64) (n v : Nat) (ok : Bool) (x : Rood) : Rood :=
  match x.crings[n]? with
  | none => x
  | some c =>
    let off := 0x214 + 32 * n
    let k := if c.active then c.sizeLog2 else bitsOf v 16 4
    let clash := c.active && bitsOf v 16 4 != c.sizeLog2
    let x := if clash then x.configEntry now 2 off else x
    let set := fun (e : Bool) (x : Rood) =>
      x.modCring n (fun c => { c with enable := e, sizeLog2 := k, vector := bitsOf v 8 5 })
    if !bitAt v 31 then (set false x).pump now
    else if c.enable then set true x
    else if !legalSize k then (set false x).configEntry now 1 off
    else if !ok then ((set false x).configEntry now 3 off).pump now
    else (((set true x).modCring n (fun c => { c with prod := 0 })).releaseHeld now n).pump now

/-- CRING_CTL_WRITE (R132): a write of ROOD_CRING_CTL_n enables a completion ring and releases held records. -/
def execCringCtlWrite (r n : Nat) (value : W32) (xlatOk : Bool) (s : State) : Result :=
  .next (onRood r (fun c x => x.writeCringCtl c.time n value.toNat xlatOk) s)

/-- CXL.cache is presented to the rood, or is not (R163): its held records are written once it is. -/
def Rood.present (now : W64) (up : Bool) (x : Rood) : Rood :=
  let x := { x with cacheOff := !up }
  if up then (List.range 8).foldl (fun x n =>
      if (x.crings[n]?).any (fun c => c.enable) then x.releaseHeld now n else x) x
  else x

/-- ACTIVE of an intake ring: enabled, or a slot of it held (Table 4.1); the model holds none beyond an accepted slot. -/
def IRing.active (i : IRing) : Bool := i.enable

/-- Some ring of the rood has ENABLE or ACTIVE set (R519). -/
def Rood.ringsActive (x : Rood) : Bool := x.irings.any IRing.active || x.crings.any CRing.active

/-- A write of ROOD_IDX_BASE, ignored while a ring is active (R519). Bits [6:0] are reserved (Table 19.14). -/
def Rood.writeIdxBase (now : W64) (v : Nat) (x : Rood) : Rood :=
  if x.ringsActive then x.configEntry now 2 0x100
  else { x with regs := { x.regs with idxBase := BitVec.ofNat 64 (v / 128 * 128) } }

/-- IDX_BASE_WRITE (R519): a write of ROOD_IDX_BASE, ignored while any ring is active. -/
def execIdxBaseWrite (r : Nat) (value : W64) (s : State) : Result :=
  .next (onRood r (fun c x => x.writeIdxBase c.time value.toNat) s)

/-! ## NOP (Table 4.6) -/

/-- Completes a NOP with ST_OK, or ST_FORMAT when a reserved field is set (R20, R142, R143). -/
def Rood.runNop (now : W64) (c : Cmd) (x : Rood) : Rood :=
  (x.fail now c (if c.wellFormed then stOk else stFormat)).pump now

/-- NOP (R143). -/
def execNop (r c : Nat) (s : State) : Result :=
  .next (onRood r (fun ctx x => x.onCmd c [0x3F] (fun d x => x.runNop ctx.time d)) s)

end Sys2Proof.Machine
end

