-- ==== Sys2Proof/Machine/Images.lean ====
section
/-! DEFINITION. Placement and adapter images (chapter 7): the file, the key envelope and the chunks, the parameter and
placement sections, and the checks of Tables 7.10 and 7.11. -/
namespace Sys2Proof.Machine
open Sys2Proof

/-! ## The file (Tables 7.1, 7.2) -/

def imgSections (f : List Byte) : Nat := u8At 7 f
def imgChunks (f : List Byte) : Nat := u32At 20 f
def imgBodyLen (f : List Byte) : Nat := u64At 24 f

/-- A section table entry: TYPE, OFFSET, LEN and whether its reserved bits are zero. -/
structure Section where
  typ : Nat
  off : Nat
  len : Nat
  clean : Bool
  deriving DecidableEq, Repr

def imgSection (f : List Byte) (i : Nat) : Section :=
  let e := cut (128 + 32 * i) 32 f
  { typ := u8At 0 e, off := u64At 8 e, len := u64At 16 e, clean := allZero (cut 1 7 e) && allZero (cut 24 8 e) }

def imgTable (f : List Byte) : List Section := (List.range (imgSections f)).map (imgSection f)

/-- Bytes of the header, the section table and the envelope section. -/
def imgClearLen (f : List Byte) : Nat := 128 + 32 * imgSections f + (imgSection f 0).len

/-- Bytes of the whole file (R214). -/
def imgFileLen (f : List Byte) : Nat := imgClearLen f + imgBodyLen f + 16 * imgChunks f

def chunkBytes : Nat := 1048576

/-- The file may be cut at `n`: at the end of the clear sections, between chunks, or at or beyond the end (R236). -/
def imgCutOk (f : List Byte) (n : Nat) : Bool :=
  decide (imgFileLen f ≤ n) || (decide (imgClearLen f ≤ n) && (n - imgClearLen f) % (chunkBytes + 16) == 0)

/-- Body sections follow one another without gaps. -/
def bodyContiguous : (off : Nat) → List Section → Bool
  | _, [] => true
  | o, s :: l => s.off == o && bodyContiguous (o + s.len) l

/-- The order of the sections' types (R216). -/
def sectionOrder (kind : Nat) (types : List Nat) : Bool :=
  if kind = 1 then
    types.take 2 == [1, 2] && types.getLast? == some 4 &&
      (let mid := (types.drop 2).dropLast
       decide (1 ≤ mid.length) && decide (mid.length ≤ 8) && mid.all (· == 3))
  else types == [1, 5, 4]

/-- Check 3 of Table 7.10; `kind` is the descriptor's KIND. -/
def imgHeaderOk (kind : Nat) (f : List Byte) : Bool :=
  let t := imgTable f
  let body := t.drop 1
  u32At 0 f == 0x4D494C50 && u16At 4 f == 1 && u8At 6 f == kind + 1 &&
    decide (3 ≤ imgSections f) && decide (imgSections f ≤ 16) && decide (1 ≤ imgBodyLen f) &&
    imgChunks f == ceilDiv (imgBodyLen f) chunkBytes && allZero (cut 48 80 f) && t.all (fun s => s.clean) &&
    sectionOrder (kind + 1) (t.map (fun s => s.typ)) &&
    (imgSection f 0).off == 128 + 32 * imgSections f && (imgSection f 0).len % 256 == 0 &&
    decide (256 ≤ (imgSection f 0).len) && decide ((imgSection f 0).len ≤ 32 * 256) &&
    bodyContiguous 0 body && (body.map (fun s => s.len)).sum == imgBodyLen f

/-! ## The key envelope (R61, R62) -/

/-- Unwraps the CEK with the device's exchange key; none where R64 gives ST_AUTH. Reserved bytes of an envelope are not tested: no check
of Table 7.10 names them (DESIGN CHOICE, log entry 77). -/
def imgUnwrap (dxk : Nat) (f : List Byte) : Option (BitVec 256) :=
  let me := sha384 (sec1 (ecPublic dxk))
  let envs := chunks 256 (cut (128 + 32 * imgSections f) (imgSection f 0).len f)
  match envs.find? (fun e => cut 8 48 e == me) with
  | none => none
  | some e =>
    let x := beVal (cut 57 48 e)
    let y := beVal (cut 105 48 e)
    if u32At 0 e == 0x564E454B && u16At 4 e == 1 && u8At 56 e == 4 && onCurve x y then
      match ecMul dxk (some (x, y)) with
      | none => none
      | some (s, _) =>
        let h := sha384 (f.take (128 + 32 * imgSections f))
        let kek := hkdf384 (cut 8 48 e) (beBytes 48 s) (ascii "SILTIS-KEK-1" ++ h) 32
        (gcmDecrypt kek (cut 160 12 e) h (cut 176 32 e) (cut 208 16 e)).map (fun k => BitVec.ofNat 256 (leVal k))
    else none

/-! ## Body chunks (R63) -/

/-- Nonce of chunk i: bytes 8 to 11 of the base nonce xor u32(i), taken little-endian. -/
def chunkNonce (f : List Byte) (i : Nat) : List Byte :=
  cut 8 8 f ++ leBytes 4 (u32At 16 f ^^^ i)

def chunkAad (f : List Byte) (i : Nat) : List Byte := leBytes 8 i ++ [if i + 1 = imgChunks f then 1 else 0]

/-- Plaintext bytes of chunk i. -/
def chunkLen (f : List Byte) (i : Nat) : Nat := min chunkBytes (imgBodyLen f - i * chunkBytes)

/-- Decrypts chunk i of the file. -/
def imgChunk (cek : BitVec 256) (f : List Byte) (i : Nat) : Option (List Byte) :=
  let o := imgClearLen f + i * (chunkBytes + 16)
  let n := chunkLen f i
  gcmDecrypt (leBytes 32 cek.toNat) (chunkNonce f i) (chunkAad f i) (cut o n f) (cut (o + n) 16 f)

/-! ## Parameters (Tables 6.1, 6.2, 7.3) -/

def readParams (b : List Byte) : Params :=
  let w := fun o => BitVec.ofNat 32 (u32At o b)
  { hidden := u16At 0 b, layers := u8At 2 b, qHeads := u8At 3 b, kvHeads := u8At 4 b, headDim := u8At 5 b
    normOffset := u8At 6 b, act := u8At 7 b, mlpWidth := u32At 8 b, vocab := u32At 12 b, normEps := w 16
    qkvBias := u8At 20 b, qkNorm := u8At 21 b, ropePairing := u8At 22 b, ropeScaling := u8At 23 b, ropeBase := w 24
    ropeFactor := w 28, ropeOrigLen := u32At 32 b, ropeBetaFast := w 36, ropeBetaSlow := w 40, attnScale := w 44
    embMult := w 48, logitCap := w 52, tieEmbed := u8At 56 b, pairAttn := u8At 57 b, pairMlp := u8At 58 b
    pairEmbed := u8At 59 b, pairOut := u8At 60 b, ctxLimit := u32At 64 b }

/-- a is positive and finite. -/
def posFinite (a : W32) : Bool := isFinite32 a.toNat && decide (0 < a.toNat) && decide (a.toNat < 2 ^ 31)

/-- b < a for finite FP32 values. -/
def above (a b : Nat) : Bool := isFinite32 a && isFinite32 b && flt b a

def fOne : Nat := 0x3F800000

/-- Geometry of Table 6.1. -/
def geometryOk (hidden layers qHeads kvHeads headDim mlp : Nat) : Bool :=
  decide (64 ≤ hidden) && decide (hidden ≤ 16384) && hidden % 64 == 0 && decide (1 ≤ layers) && decide (layers ≤ 128) &&
    decide (1 ≤ qHeads) && decide (qHeads ≤ 128) && decide (1 ≤ kvHeads) && decide (kvHeads ≤ 32) && qHeads % kvHeads == 0 &&
    (headDim == 64 || headDim == 128) && decide (qHeads * headDim ≤ 16384) && decide (64 ≤ mlp) && decide (mlp ≤ 65536) &&
    mlp % 64 == 0

/-- Rotary scaling parameters: legal where they apply, zero where they do not (R185). -/
def ropeOk (p : Params) : Bool :=
  above p.ropeBase.toNat fOne && decide (p.ropeScaling ≤ 2) &&
    (if p.ropeScaling = 0 then p.ropeFactor == 0
     else isFinite32 p.ropeFactor.toNat && !flt p.ropeFactor.toNat fOne) &&
    (if p.ropeScaling = 2 then
       decide (1 ≤ p.ropeOrigLen) && decide (p.ropeOrigLen ≤ 4194304) && posFinite p.ropeBetaSlow &&
         above p.ropeBetaFast.toNat p.ropeBetaSlow.toNat
     else p.ropeOrigLen == 0 && p.ropeBetaFast == 0 && p.ropeBetaSlow == 0)

/-- Checks 1 and 3 of Table 7.11. Where Table 6.2 allows 0 for an FP32 parameter the code must be +0: -0 is refused (DEDUCED, log
entry 76). -/
def paramsOk (b : List Byte) : Bool :=
  let p := readParams b
  geometryOk p.hidden p.layers p.qHeads p.kvHeads p.headDim p.mlpWidth && decide (256 ≤ p.vocab) &&
    decide (p.vocab ≤ 262144) && posFinite p.normEps && decide (p.normOffset ≤ 1) && decide (p.act ≤ 3) &&
    decide (p.qkvBias ≤ 1) && decide (p.qkNorm ≤ 1) && decide (p.ropePairing ≤ 1) && ropeOk p && posFinite p.attnScale &&
    decide (p.tieEmbed ≤ 1) && isFinite32 p.embMult.toNat && p.embMult.toNat % 2 ^ 31 != 0 &&
    (p.logitCap == 0 || posFinite p.logitCap) && decide (p.pairAttn ≤ 4) && decide (p.pairMlp ≤ 4) &&
    decide (p.pairEmbed ≤ 4) && (if p.tieEmbed = 1 then p.pairOut == 0 else decide (p.pairOut ≤ 4)) &&
    decide (1 ≤ p.ctxLimit) && decide (p.ctxLimit ≤ 4194304) && allZero (cut 61 3 b) && allZero (cut 68 60 b)

/-! ## Matrices in canonical order (Table 7.4, R219) -/

/-- A matrix or vector of an image: its layer, code, rows, row length in elements (0 for a vector), weight format and the
tile unit of its slices. -/
structure Mat where
  layer : Nat
  code : Nat
  rows : Nat
  cols : Nat
  fmt : WFmt
  deriving DecidableEq, Repr

/-- Bytes of one row: K / 32 blocks, or one BF16 element of a vector. -/
def Mat.rowBytes (m : Mat) : Nat := if m.cols = 0 then 2 else m.cols / 32 * m.fmt.bytes

def Mat.bytes (m : Mat) : Nat := m.rows * m.rowBytes

/-- Elements of the matrix (R184). -/
def Mat.elements (m : Mat) : Nat := m.rows * max m.cols 1

def layerMats (p : Params) (l : Nat) : List Mat :=
  let at' := pairWeight p.pairAttn
  let ml := pairWeight p.pairMlp
  let qd := p.qHeads * p.headDim
  let kd := p.kvHeads * p.headDim
  let vec := fun c n => ({ layer := l, code := c, rows := n, cols := 0, fmt := .bf16 } : Mat)
  let opt := fun (b : Bool) (m : Mat) => if b then [m] else []
  [vec 0x00 p.hidden, { layer := l, code := 0x01, rows := qd, cols := p.hidden, fmt := at' }] ++
    opt (p.qkvBias == 1) (vec 0x02 qd) ++ opt (p.qkNorm == 1) (vec 0x03 p.headDim) ++
    [{ layer := l, code := 0x04, rows := kd, cols := p.hidden, fmt := at' }] ++
    opt (p.qkvBias == 1) (vec 0x05 kd) ++ opt (p.qkNorm == 1) (vec 0x06 p.headDim) ++
    [{ layer := l, code := 0x07, rows := kd, cols := p.hidden, fmt := at' }] ++ opt (p.qkvBias == 1) (vec 0x08 kd) ++
    [{ layer := l, code := 0x09, rows := p.hidden, cols := qd, fmt := at' }, vec 0x0A p.hidden,
     { layer := l, code := 0x0B, rows := p.mlpWidth, cols := p.hidden, fmt := ml },
     { layer := l, code := 0x0C, rows := p.mlpWidth, cols := p.hidden, fmt := ml },
     { layer := l, code := 0x0D, rows := p.hidden, cols := p.mlpWidth, fmt := ml }]

/-- Every present matrix, in canonical order. -/
def imageMats (p : Params) : List Mat :=
  [{ layer := 0xFE, code := 0x10, rows := p.vocab, cols := p.hidden, fmt := pairWeight p.pairEmbed }] ++
    (List.range p.layers).flatMap (layerMats p) ++
    [{ layer := 0xFF, code := 0x11, rows := p.hidden, cols := 0, fmt := .bf16 }] ++
    (if p.tieEmbed = 0 then
      [{ layer := 0xFF, code := 0x12, rows := p.vocab, cols := p.hidden, fmt := pairWeight p.pairOut }] else [])

/-- R184; Np of R443. -/
def paramCount (p : Params) : Nat := ((imageMats p).map Mat.elements).sum

/-- The canonical size of the WEIGHTS section. -/
def weightsLen (p : Params) : Nat := ((imageMats p).map Mat.bytes).sum

/-- Offset and matrix of a code in a layer; none when it is absent. -/
def findMat (layer code : Nat) : (off : Nat) → List Mat → Option (Nat × Mat)
  | _, [] => none
  | o, m :: l => if m.layer = layer ∧ m.code = code then some (o, m) else findMat layer code (o + m.bytes) l

/-- The rows of a matrix, each as stored. -/
def matRows (p : Params) (weights : List Byte) (layer code : Nat) : List (List Byte) × WFmt :=
  match findMat layer code 0 (imageMats p) with
  | some (o, m) => (chunks m.rowBytes (cut o m.bytes weights), m.fmt)
  | none => ([], .bf16)

/-- The elements of a vector, as BF16 codes. -/
def matVec (p : Params) (weights : List Byte) (layer code : Nat) : List Nat := (matRows p weights layer code).1.map leVal

/-! ## Weight values (R192) -/

def bfOk (v : Nat) : Bool := decide (v % 2 ^ 15 < 0x7F80)
def e4Ok (v : Nat) : Bool := v % 2 ^ 7 != 0x7F

/-- The complete values of a stored block, which may be cut short by the end of the bytes decrypted so far. -/
def blkOk (f : WFmt) (b : List Byte) : Bool :=
  match f with
  | .w4 => decide (b.length < 17) || e4Ok (u8At 16 b)
  | .w8 => decide (b.length < 34) || bfOk (u16At 32 b)
  | .f8w => (b.take 32).all (fun x => e4Ok x.toNat) && (decide (b.length < 34) || bfOk (u16At 32 b))
  | .bf16 => (chunks 2 b).all (fun x => decide (x.length < 2) || bfOk (leVal x))

def matOk (m : Mat) (b : List Byte) : Bool :=
  if m.cols = 0 then blkOk .bf16 b else (chunks m.fmt.bytes b).all (blkOk m.fmt)

/-- Check 9 over the weight bytes decrypted so far. -/
def weightsOk : List Mat → List Byte → Bool
  | [], _ => true
  | m :: l, b => b.isEmpty || (matOk m (b.take m.bytes) && weightsOk l (b.drop m.bytes))

/-! ## Placements (Tables 7.5 to 7.8) -/

def readSlice (e : List Byte) : SliceEntry :=
  { layer := u8At 0 e, matrix := u8At 1 e, tile := u8At 2 e, firstRow := u32At 4 e, rows := u32At 8 e }

def sliceClean (e : List Byte) : Bool := u8At 3 e == 0 && u32At 12 e == 0

def readPrice (e : List Byte) : PriceEntry :=
  { layer := u8At 0 e, stepMg := u32At 4 e, tokenMg := u32At 8 e, ctxMg := u32At 12 e }

def placementSlices (b : List Byte) : Nat := u32At 4 b

def readPlacement (layers : Nat) (b : List Byte) : Placement :=
  let n := placementSlices b
  { width := u8At 0 b, stepTokens := u16At 2 b, workBytes := u32At 8 b, sgBytes := u64At 16 b
    maxTileBytes := u64At 24 b, slices := (chunks 16 (cut 64 (16 * n) b)).map readSlice
    prices := (chunks 16 (cut (64 + 16 * n) (16 * (layers + 2)) b)).map readPrice }

/-- Rank of a layer code in stream order (R221): 0xFE, then 0 to L - 1, then 0xFF. -/
def layerRank (l : Nat) : Nat := if l = 0xFE then 0 else if l = 0xFF then 1000 else l + 1

def sliceBefore (a b : SliceEntry) : Bool :=
  let x := (layerRank a.layer, a.matrix, a.tile)
  let y := (layerRank b.layer, b.matrix, b.tile)
  decide (x.1 < y.1) || (x.1 == y.1 && (decide (x.2.1 < y.2.1) || (x.2.1 == y.2.1 && decide (x.2.2 < y.2.2))))

def slicesOrdered : List SliceEntry → Bool
  | a :: b :: l => sliceBefore a b && slicesOrdered (b :: l)
  | _ => true

/-- A gain vector (codes 0x00, 0x03, 0x06, 0x0A, 0x11). -/
def isGain (code : Nat) : Bool := [0x00, 0x03, 0x06, 0x0A, 0x11].contains code
def isBias (code : Nat) : Bool := [0x02, 0x05, 0x08].contains code

/-- Rows in ascending order cover 0 to n - 1 without gap or overlap. -/
def rowsCover (n : Nat) : (next : Nat) → List (Nat × Nat) → Bool
  | k, [] => k == n
  | k, (f, r) :: l => f == k && decide (1 ≤ r) && rowsCover n (k + r) l

def insertPair (a : Nat × Nat) : List (Nat × Nat) → List (Nat × Nat)
  | [] => [a]
  | b :: l => if a.1 ≤ b.1 then a :: b :: l else b :: insertPair a l

def sortPairs (l : List (Nat × Nat)) : List (Nat × Nat) := l.foldr insertPair []

/-- The slices of one matrix obey R221. -/
def matSlicesOk (p : Params) (w : Nat) (all : List SliceEntry) (m : Mat) : Bool :=
  let own := all.filter (fun s => s.layer == m.layer && s.matrix == m.code)
  if isGain m.code then
    match own with
    | [s] => s.tile == 0xFF && s.firstRow == 0 && s.rows == m.rows
    | _ => false
  else
    own.all (fun s => decide (s.tile < 4 * w)) &&
      rowsCover m.rows 0 (sortPairs (own.map (fun s => (s.firstRow, s.rows)))) &&
      (own.map (fun s => s.tile)).Nodup &&
      (if m.code = 0x01 ∨ m.code = 0x04 ∨ m.code = 0x07 then
        own.all (fun s => s.firstRow % p.headDim == 0 && s.rows % p.headDim == 0) else true) &&
      (if isBias m.code then
        let proj := all.filter (fun s => s.layer == m.layer && s.matrix + 1 == m.code)
        proj.length == own.length && own.all (fun s => proj.any (fun q =>
          q.tile == s.tile && q.firstRow == s.firstRow && q.rows == s.rows)) else true)

/-- Bytes of a slice. -/
def sliceBytes (mats : List Mat) (s : SliceEntry) : Nat :=
  match mats.find? (fun m => m.layer == s.layer && m.code == s.matrix) with
  | some m => s.rows * m.rowBytes
  | none => 0

/-- Weight bytes that the stack group at crew position `i` holds: the slices of its four tiles and one copy of every vector slice
(R224). -/
def sgBytesAt (mats : List Mat) (pl : Placement) (i : Nat) : Nat :=
  ((pl.slices.filter (fun s => s.tile == 0xFF || s.tile / 4 == i || isBias s.matrix)).map (sliceBytes mats)).sum

def sgBytesMax (mats : List Mat) (pl : Placement) : Nat :=
  (List.range pl.width).foldl (fun m i => max m (sgBytesAt mats pl i)) 0

/-- The stream of crew tile `j` in a step that samples (R225). -/
def tileStream (p : Params) (mats : List Mat) (pl : Placement) (j : Nat) : Nat :=
  ((pl.slices.filter (fun s => (s.tile == 0xFF || s.tile == j) && (s.matrix != 0x10 || p.tieEmbed == 1))).map
    (sliceBytes mats)).sum

def tileStreamMax (p : Params) (mats : List Mat) (pl : Placement) : Nat :=
  (List.range (4 * pl.width)).foldl (fun m j => max m (tileStream p mats pl j)) 0

/-- Price entries in the order of R230. -/
def pricesOk (p : Params) (pl : Placement) : Bool :=
  pl.prices.map (fun e => e.layer) == [0xFE] ++ List.range p.layers ++ [0xFF] &&
    pl.prices.all (fun e => decide (e.layer < 0xFE) || e.ctxMg == 0)

/-- Checks 5 to 10 of Table 7.11 for one PLACEMENT section. -/
def placementOk (p : Params) (b : List Byte) : Bool :=
  let pl := readPlacement p.layers b
  let mats := imageMats p
  let n := placementSlices b
  b.length == 64 + 16 * n + 16 * (p.layers + 2) && u8At 1 b == 0 && u32At 12 b == 0 && allZero (cut 32 32 b) &&
    (chunks 16 (cut 64 (16 * n) b)).all sliceClean &&
    (chunks 16 (b.drop (64 + 16 * n))).all (fun e => allZero (cut 1 3 e)) &&
    decide (1 ≤ pl.width) && decide (pl.width ≤ 24) &&
    pl.slices.all (fun s => mats.any (fun m => m.layer == s.layer && m.code == s.matrix) &&
      (s.tile == 0xFF || decide (s.tile < 4 * pl.width))) &&
    mats.all (matSlicesOk p pl.width pl.slices) && slicesOrdered pl.slices && decide (64 ≤ pl.stepTokens) &&
    decide (pl.stepTokens ≤ 8192) && decide (pl.workBytes ≤ 4194304) && decide (pl.sgBytes ≤ 96 * 2 ^ 30) &&
    pl.sgBytes == sgBytesMax mats pl && pl.maxTileBytes == tileStreamMax p mats pl && pricesOk p pl

/-- Check 6 of Table 7.10 for a placement image, over its body sections before WEIGHTS. -/
def placementImageOk (params : List Byte) (placements : List (List Byte)) (wlen : Nat) : Bool :=
  let p := readParams params
  params.length == 128 && paramsOk params && decide (paramCount p ≤ 90000000000) && wlen == weightsLen p &&
    placements.all (placementOk p) && (placements.map (fun b => u8At 0 b)).Nodup

/-! ## Adapters (Table 7.9, R233) -/

def readAdapter (b : List Byte) : AdapterParams :=
  { hidden := u16At 0 b, layers := u8At 2 b, qHeads := u8At 3 b, kvHeads := u8At 4 b, headDim := u8At 5 b
    targets := u8At 6 b, rank := u8At 7 b, mlpWidth := u32At 8 b, alpha := BitVec.ofNat 32 (u32At 12 b)
    fmt := u32At 16 b }

/-- N and K of a target (Table 7.4). -/
def targetShape (a : AdapterParams) (t : Nat) : Nat × Nat :=
  match t with
  | 0 => (a.qHeads * a.headDim, a.hidden)
  | 1 => (a.kvHeads * a.headDim, a.hidden)
  | 2 => (a.kvHeads * a.headDim, a.hidden)
  | 3 => (a.hidden, a.qHeads * a.headDim)
  | 4 => (a.mlpWidth, a.hidden)
  | 5 => (a.mlpWidth, a.hidden)
  | _ => (a.hidden, a.mlpWidth)

def adapterFmt (a : AdapterParams) : WFmt := if a.fmt = 0 then .w8 else .bf16

/-- The targets of an adapter, in ascending bit order. -/
def adapterTargets (a : AdapterParams) : List Nat := (List.range 7).filter (fun t => bitAt a.targets t)

/-- A and B of every target of a layer; a B matrix is marked by code 0x81 plus the target, A by 0x80. -/
def adapterMats (a : AdapterParams) : List Mat :=
  (List.range a.layers).flatMap (fun l => (adapterTargets a).flatMap (fun t =>
    let s := targetShape a t
    [{ layer := l, code := 0x80 + t, rows := a.rank, cols := s.2, fmt := adapterFmt a },
     { layer := l, code := 0x90 + t, rows := s.1, cols := 32 * ceilDiv a.rank 32, fmt := adapterFmt a }]))

def adapterLen (a : AdapterParams) : Nat := ((adapterMats a).map Mat.bytes).sum

/-- Check 11 of Table 7.11, with check 4. -/
def adapterImageOk (b : List Byte) (wlen body : Nat) : Bool :=
  let a := readAdapter b
  b.length == 64 && geometryOk a.hidden a.layers a.qHeads a.kvHeads a.headDim a.mlpWidth && a.targets != 0 &&
    decide (a.targets < 128) && decide (1 ≤ a.rank) && decide (a.rank ≤ 64) && isFinite32 a.alpha.toNat &&
    decide (a.fmt ≤ 1) && allZero (cut 20 44 b) && decide (body ≤ 2 ^ 30) && wlen == adapterLen a

/-- The columns of a B row at or beyond the rank hold code 0 or BF16 zero (R233). -/
def zeroColumns (a : AdapterParams) (row : List Byte) : Bool :=
  let vals := (chunks (adapterFmt a).bytes row).flatMap (fun b =>
    if a.fmt = 0 then (b.take 32).map (fun x => x.toNat) else (halfwords b).map (fun v => v % 2 ^ 15))
  (vals.drop a.rank).all (· == 0)

/-- Check 9 for the columns of R233, over the rows decrypted so far, a row that a chunk cuts among them. -/
def columnsOk (a : AdapterParams) : List Mat → List Byte → Bool
  | [], _ => true
  | m :: l, b =>
    (decide (m.code < 0x90) || (chunks m.rowBytes (b.take m.bytes)).all (zeroColumns a)) && columnsOk a l (b.drop m.bytes)

/-- The A rows and B rows of a target of a layer. -/
def adapterRows (a : AdapterParams) (weights : List Byte) (layer t : Nat) : List (List Byte) × List (List Byte) :=
  let get := fun c => match findMat layer c 0 (adapterMats a) with
    | some (o, m) => chunks m.rowBytes (cut o m.bytes weights)
    | none => []
  (get (0x80 + t), get (0x90 + t))

end Sys2Proof.Machine
end

