-- ==== Sys2Proof/Machine/Forward.lean ====
section
/-! DEFINITION. The forward pass (R201 to R212): embedding, norms, projections with adapters, rotary positions, the gated MLP
and the logits. -/
namespace Sys2Proof.Machine
open Sys2Proof

/-- The image, and the adapter when the session is bound to one, as one session's tokens use them. -/
structure FwdModel where
  p : Params
  weights : List Byte
  freqs : List Nat
  adapter : Option (AdapterParams × List Byte)

/-! ## Norms and projections -/

/-- rmsnorm of R203, with BF16 gains. -/
def rmsnorm (p : Params) (x gains : List Nat) : List Nat :=
  let ss := tsum (x.map (fun a => fmul a a))
  let ms := vdivRnd fp32 (d32 ss) (vofInt x.length)
  let r := frsqrt (fadd ms p.normEps.toNat)
  x.zipWith (fun a g =>
    let gj := if p.normOffset = 1 then fadd 0x3F800000 (bfTo32 g) else bfTo32 g
    fmul (fmul a r) gj) gains

/-- headnorm of R203: rmsnorm of each head when QK_NORM is 1. -/
def FwdModel.headnorm (m : FwdModel) (layer code : Nat) (x : List Nat) : List Nat :=
  if m.p.qkNorm = 1 then
    let g := matVec m.p m.weights layer code
    (groups m.p.headDim x).flatMap (fun h => rmsnorm m.p h g)
  else x

/-- Every output of a stored matrix for a quantized activation. -/
def FwdModel.matrix (m : FwdModel) (layer code : Nat) (a : List Blk) : List Nat :=
  let r := matRows m.p m.weights layer code
  r.1.map (fun row => rowDot (readRow r.2 row) a)

/-- The adapter term of a target (R211): α × B (A a). The activation is held in A8 for W8 matrices, in BF16 otherwise. -/
def adapterTerm (ap : AdapterParams) (w : List Byte) (layer t : Nat) (x : List Nat) : List Nat :=
  let f := adapterFmt ap
  let act := if ap.fmt = 0 then AFmt.a8 else AFmt.bf16
  let r := adapterRows ap w layer t
  let a := quantVec act x
  let u := r.1.map (fun row => rowDot (readRow f row) a)
  let u := u ++ List.replicate (32 * ceilDiv ap.rank 32 - u.length) 0
  let b := quantVec act u
  r.2.map (fun row => fmul ap.alpha.toNat (rowDot (readRow f row) b))

/-- The output of a target: base projection, adapter term, then bias (R204, R211). -/
def FwdModel.project (m : FwdModel) (layer code pair t : Nat) (bias : Option Nat) (x : List Nat) : List Nat :=
  let y := m.matrix layer code (quantVec (pairAct pair) x)
  let y := match m.adapter with
    | some (ap, w) => if bitAt ap.targets t then y.zipWith fadd (adapterTerm ap w layer t x) else y
    | none => y
  match bias with
  | some b => if m.p.qkvBias = 1 then y.zipWith (fun a v => fadd a (bfTo32 v)) (matVec m.p m.weights layer b) else y
  | none => y

/-! ## Rotary positions (R205, R206) -/

/-- Index of the two elements of pair `i`. -/
def ropePair (pairing dh i : Nat) : Nat × Nat := if pairing = 0 then (i, i + dh / 2) else (2 * i, 2 * i + 1)

/-- rope(v, p) of one head. -/
def FwdModel.rope (m : FwdModel) (pos : Nat) (v : List Nat) : List Nat :=
  let dh := m.p.headDim
  (List.range (dh / 2)).foldl (fun out i =>
    let ab := ropePair m.p.ropePairing dh i
    let w := m.freqs.getD i 0
    let c := d32 (fcosr pos w)
    let n := d32 (fsinr pos w)
    let x := d32 (v.getD ab.1 0)
    let y := d32 (v.getD ab.2 0)
    (out.set ab.1 (r32 (vadd (vmul x c) (vneg (vmul y n))))).set ab.2 (r32 (vadd (vmul x n) (vmul y c)))) v

/-- The scaled frequencies of an image, computed when its load takes effect (R205). -/
def imageFreqs (p : Params) : List W32 :=
  (List.range (p.headDim / 2)).map (fun i => BitVec.ofNat 32
    (ropeFreq p.ropeBase.toNat p.ropeScaling p.ropeFactor.toNat p.ropeOrigLen p.ropeBetaFast.toNat p.ropeBetaSlow.toNat
      p.headDim i))

/-! ## One token (R201) -/

/-- embed(t) of R202. -/
def FwdModel.embed (m : FwdModel) (t : Nat) : List Nat :=
  let r := matRows m.p m.weights 0xFE 0x10
  ((readRow r.2 (r.1.getD t [])).flatMap Blk.elems).map (fun e => fmul e m.p.embMult.toNat)

/-- Keys and values of a layer for a normed activation: rotated keys, values, head by head. -/
def FwdModel.keysValues (m : FwdModel) (l pos : Nat) (a : List Nat) : List (List Nat) × List (List Nat) :=
  let heads := groups m.p.headDim
  let k := heads (m.headnorm l 0x06 (m.project l 0x04 m.p.pairAttn 1 (some 0x05) a))
  (k.map (m.rope pos), heads (m.project l 0x07 m.p.pairAttn 2 (some 0x08) a))

/-- The A8 query blocks of a layer, head by head (R208). -/
def FwdModel.queries (m : FwdModel) (l pos : Nat) (a : List Nat) : List (List Blk) :=
  (groups m.p.headDim (m.headnorm l 0x03 (m.project l 0x01 m.p.pairAttn 0 (some 0x02) a))).map
    (fun h => quantVec .a8 (m.rope pos h))

/-- The MLP half of a layer (R209). -/
def FwdModel.mlp (m : FwdModel) (l : Nat) (x : List Nat) : List Nat :=
  let a := rmsnorm m.p x (matVec m.p m.weights l 0x0A)
  let u := m.project l 0x0B m.p.pairMlp 4 none a
  let w := m.project l 0x0C m.p.pairMlp 5 none a
  let t := u.zipWith (fun x y => fmul (factivate m.p.act x) y) w
  x.zipWith fadd (m.project l 0x0D m.p.pairMlp 6 none t)

/-- What one token leaves behind: the hidden state, the KV store, positions attended in each layer, newest first, and what
is to be counted. -/
structure FwdRun where
  x : List Nat
  kv : Kv
  att : List Nat
  evs : List KvEvent

/-- One layer of the token at position `pos`. A token that is only appended ends after the stores of the last layer. -/
def FwdModel.layer (m : FwdModel) (v : KvSes) (pos l : Nat) (sampled : Bool) (r : FwdRun) : FwdRun :=
  let a := rmsnorm m.p r.x (matVec m.p m.weights l 0x00)
  let kvs := m.keysValues l pos a
  let st := v.store l pos kvs.1 kvs.2 r.kv
  if !sampled && l + 1 == m.p.layers then
    { r with kv := st.1, att := v.g.attendBound pos :: r.att, evs := r.evs ++ st.2 }
  else
    let o := v.attend st.1 m.p.attnScale.toNat (m.p.qHeads / m.p.kvHeads) l pos (m.queries l pos a)
    let x := r.x.zipWith fadd (m.project l 0x09 m.p.pairAttn 3 none o.1.flatten)
    { x := m.mlp l x, kv := st.1, att := o.2.1 :: r.att, evs := r.evs ++ st.2 ++ o.2.2 }

/-- The pass of one token through every layer. -/
def FwdModel.pass (m : FwdModel) (v : KvSes) (tok pos : Nat) (sampled : Bool) (kv : Kv) : FwdRun :=
  (List.range m.p.layers).foldl (fun r l => m.layer v pos l sampled r) { x := m.embed tok, kv := kv, att := [], evs := [] }

/-! ## Logits (R210) -/

def softCap (c z : Nat) : Nat := if c = 0 then z else fmul c (ftanh (fdiv z c))

/-- Every logit of the token, in ascending token id. -/
def FwdModel.logits (m : FwdModel) (x : List Nat) : List Nat :=
  let y := rmsnorm m.p x (matVec m.p m.weights 0xFF 0x11)
  let pair := if m.p.tieEmbed = 1 then m.p.pairEmbed else m.p.pairOut
  let a := quantVec (pairAct pair) y
  let z := if m.p.tieEmbed = 1 then m.matrix 0xFE 0x10 a else m.matrix 0xFF 0x12 a
  z.map (softCap m.p.logitCap.toNat)

end Sys2Proof.Machine
end

