-- ==== Sys2Proof/Machine/Matcher.lean ====
section
/-! DEFINITION. Banned and forced sequences, stop blocks and the stop string search (chapter 11). -/
namespace Sys2Proof.Machine
open Sys2Proof

/-! ## List sets (Tables 11.1 to 11.4) -/

def lstBanned (b : List Byte) : Nat := u32At 8 b
def lstForced (b : List Byte) : Nat := u32At 12 b
def lstPoolLen (b : List Byte) : Nat := u32At 16 b

/-- The end of the structure (R318). -/
def lstEnd (b : List Byte) : Nat := 32 + 8 * (lstBanned b + lstForced b) + 4 * lstPoolLen b

/-- One entry of Table 11.2 or 11.3. -/
structure LstEntry where
  off : Nat
  trig : Nat
  body : Nat
  clean : Bool
  deriving DecidableEq, Repr

def bannedEntry (e : List Byte) : LstEntry :=
  { off := u32At 0 e, trig := u8At 4 e, body := 0, clean := allZero (cut 5 3 e) }

def forcedEntry (e : List Byte) : LstEntry :=
  { off := u32At 0 e, trig := u8At 4 e, body := u8At 5 e, clean := allZero (cut 6 2 e) }

def lstBannedEntries (b : List Byte) : List LstEntry := (chunks 8 (cut 32 (8 * lstBanned b) b)).map bannedEntry

def lstForcedEntries (b : List Byte) : List LstEntry :=
  (chunks 8 (cut (32 + 8 * lstBanned b) (8 * lstForced b) b)).map forcedEntry

def lstPool (b : List Byte) : List Nat :=
  (chunks 4 (cut (32 + 8 * (lstBanned b + lstForced b)) (4 * lstPoolLen b) b)).map leVal

/-- The ids that an entry names. -/
def LstEntry.ids (e : LstEntry) (pool : List Nat) : List Nat := (pool.drop e.off).take (e.trig + e.body)

def nodupLists : List (List Nat) → Bool
  | [] => true
  | a :: l => !l.contains a && nodupLists l

/-- Table 11.4, for a descriptor of `len` bytes. -/
def lstOk (b : List Byte) (len : Nat) : Bool :=
  let bs := lstBannedEntries b
  let fs := lstForcedEntries b
  let pool := lstPool b
  u32At 0 b == 0x5453494C && u16At 4 b == 1 && u16At 6 b == 0 && allZero (cut 20 12 b) && decide (lstBanned b ≤ 262144) &&
    decide (lstForced b ≤ 1024) && decide (lstPoolLen b ≤ 4194304) && len == lstEnd b && (bs ++ fs).all (fun e => e.clean) &&
    bs.all (fun e => decide (1 ≤ e.trig) && decide (e.trig ≤ 16)) &&
    fs.all (fun e => decide (e.trig ≤ 16) && decide (1 ≤ e.body) && decide (e.body ≤ 64)) &&
    (bs ++ fs).all (fun e => decide (e.off + e.trig + e.body ≤ lstPoolLen b)) && pool.all (fun i => decide (i < 262144)) &&
    nodupLists (fs.map (fun e => (e.ids pool).take e.trig))

/-- The banned sequences, and the trigger and body of each forced entry. -/
def lstSequences (b : List Byte) : List (List Nat) × List (List Nat × List Nat) :=
  let pool := lstPool b
  ((lstBannedEntries b).map (fun e => e.ids pool),
    (lstForcedEntries b).map (fun e => ((e.ids pool).take e.trig, (e.ids pool).drop e.trig)))

/-- Frames of the automaton at most (R321). -/
def automatonFrames (poolLen : Nat) : Nat := (16 * (poolLen + 1) + 65535) / 65536

/-! ## The decision of a position (R324 to R328) -/

/-- The list ends with the other (R324). -/
def endsWith (x y : List Nat) : Bool := y.isSuffixOf x

/-- Every banned id that would finish a banned sequence after `h` (R325). -/
def maskedIds (banned : List (List Nat)) (h : List Nat) : List Nat :=
  banned.filterMap (fun b => if endsWith h b.dropLast then b.getLast? else none)

/-- The forced entry that fires: the longest trigger first. -/
def firing (forced : List (List Nat × List Nat)) (h fired : List Nat) : Option (Nat × List Nat) :=
  let live := forced.zipIdx.filter (fun e => !fired.contains e.2 &&
    (if e.1.1.isEmpty then h.isEmpty else endsWith h e.1.1))
  (live.foldl (fun b e => match b with
    | none => some e
    | some c => if c.1.1.length < e.1.1.length then some e else some c)
    (none : Option ((List Nat × List Nat) × Nat))).map (fun e => (e.2, e.1.2))

/-- decide of R325: the injected token, if any, and the generating part after it. -/
def decideToken (set : Option ListSet) (g : Gen) : Option Nat × Gen :=
  match set with
  | none => (none, g)
  | some s =>
    match g.body with
    | t :: rest => (some t, { g with body := rest })
    | [] =>
      match firing s.forced g.history g.fired with
      | some (i, t :: rest) => (some t, { g with fired := i :: g.fired, body := rest })
      | some (_, []) => (none, g)
      | none => (none, g)

/-- The masked ids of a sampled position. -/
def masked (set : Option ListSet) (g : Gen) : List Nat :=
  match set with
  | none => []
  | some s => maskedIds s.banned g.history

/-! ## The stop block (R332, R333) -/

/-- A stop block as read, or the status that its check gives; 0 where it passes. -/
structure StopBlock where
  toks : List Nat
  strs : List (List Byte)

/-- The string entries that lie wholly within the block, whether their reserved bits and padding are zero and no LEN is 0,
how many entries were found, and the bytes they take. -/
def stopStrings : (n : Nat) → List Byte → List (List Byte) × Bool × Nat × Nat
  | 0, _ => ([], true, 0, 0)
  | n + 1, bs =>
    let len := u8At 0 bs
    let size := 4 + 4 * ceilDiv len 4
    if bs.length < 4 ∨ bs.length < size then ([], true, 0, 0)
    else
      let r := stopStrings n (bs.drop size)
      (cut 4 len bs :: r.1, allZero (cut 1 3 bs) && len != 0 && allZero (cut (4 + len) (size - 4 - len) bs) && r.2.1,
        r.2.2.1 + 1, size + r.2.2.2)

/-- Check 2 over what lies wholly within the block: false where it fails. `vocab` is V where the test of token ids is made
(R96). -/
def stopFormatOk (vocab : Option Nat) (b : List Byte) : Bool :=
  let toks := u16At 0 b
  let strs := u16At 2 b
  let ids := (chunks 4 (cut 8 (4 * toks) b)).filter (fun c => c.length == 4)
  let r := stopStrings strs (b.drop (8 + 4 * toks))
  decide (b.length < 4) ||
    ((decide (toks ≤ 64) || toks == 0xFFFF) && (decide (strs ≤ 16) || strs == 0xFFFF) &&
      (decide (b.length < 8) ||
        (u32At 4 b == 0 &&
          (match vocab with
            | some v => ids.all (fun c => decide (leVal c < v))
            | none => true) &&
          (decide (b.length < 8 + 4 * toks) ||
            (r.2.1 && (r.2.2.1 != strs || 8 + 4 * toks + r.2.2.2 == b.length))))))

/-- Check 3: false where it fails. -/
def stopLengthOk (b : List Byte) : Bool :=
  b.isEmpty || (decide (8 ≤ b.length) &&
    (let toks := u16At 0 b
     let strs := u16At 2 b
     toks != 0xFFFF && strs != 0xFFFF && decide (8 + 4 * toks ≤ b.length) &&
       (stopStrings strs (b.drop (8 + 4 * toks))).2.2.1 == strs))

def readStops (b : List Byte) : StopBlock :=
  if b.length < 8 then { toks := [], strs := [] }
  else
    let toks := u16At 0 b
    { toks := (chunks 4 (cut 8 (4 * toks) b)).map leVal, strs := (stopStrings (u16At 2 b) (b.drop (8 + 4 * toks))).1 }

/-! ## The search (R335) -/

/-- The longest stop string that ends at the last byte of the text; 0 for none. -/
def longestStop (strs : List (List Byte)) (text : List Byte) : Nat :=
  (strs.filter (fun s => s.isSuffixOf text)).foldl (fun m s => max m s.length) 0

/-- Examines the bytes `bs` after the text scanned so far: STOP_OFFSET at the first completing byte. -/
def scanStops (strs : List (List Byte)) : (text bs : List Byte) → Option Nat
  | _, [] => none
  | text, b :: bs =>
    let t := text ++ [b]
    let n := longestStop strs t
    if 0 < n then some (t.length - n) else scanStops strs t bs

end Sys2Proof.Machine
end

