-- ==== Sys2Proof/Machine/Price.lean ====
section
/-! DEFINITION. Prices, projections and the grains available to a step (R231, R442 to R446), and the sequences they are taken
over (R274, R275). -/
namespace Sys2Proof.Machine
open Sys2Proof

/-! ## Quotients -/

/-- A quotient of naturals; denominator 0 stands for infinity. -/
structure Quot' where
  n : Nat
  d : Nat

def qNat (n : Nat) : Quot' := { n := n, d := 1 }
def qAdd (a b : Quot') : Quot' := { n := a.n * b.d + b.n * a.d, d := a.d * b.d }
def qMul (a b : Quot') : Quot' := { n := a.n * b.n, d := a.d * b.d }
def qLe (a b : Quot') : Bool := decide (a.n * b.d ≤ b.n * a.d)
def qMax (a b : Quot') : Quot' := if qLe a b then b else a
def qCeil (a : Quot') : Nat := ceilDiv a.n a.d

/-! ## Sequences -/

/-- Stored positions of a sequence's session now (R275). -/
def Seq.storedNow (q : Seq) (e : Entry) : Nat := if q.appendDone then storedOf e.length else q.base + q.stored

/-- Prefill positions still to run (R275). -/
def Seq.prefillLeft (q : Seq) : Nat := if q.appendDone then 0 else q.toks.length - 1 - q.stored

/-- The sequence is in decode phase. -/
def Seq.decodePhase (q : Seq) : Bool := q.gen.isSome && q.prefillLeft == 0

/-- The sequence has a decode part that may sample: its appended tokens stop short of CONTEXT_LIMIT (R106). -/
def Seq.mayDecode (q : Seq) (e : Entry) : Bool :=
  q.gen.isSome && (q.appendDone || decide (q.base + q.toks.length < e.contextLimit))

/-- R95: the class number, then the order of becoming QUEUED. -/
def seqBefore (a b : Seq) : Bool := decide (a.cls < b.cls) || (a.cls == b.cls && decide (a.order < b.order))

def insertSeq (a : Seq) : List Seq → List Seq
  | [] => [a]
  | b :: l => if seqBefore a b then a :: b :: l else b :: insertSeq a l

/-- The order of R95. -/
def sortSeqs (l : List Seq) : List Seq := l.foldr insertSeq []

def Rood.setSeq (q : Seq) (x : Rood) : Rood :=
  { x with seqs := x.seqs.map (fun p => if p.cmd == q.cmd then q else p) }

def Rood.seq? (cmd : Nat) (x : Rood) : Option Seq := x.seqs.find? (fun q => q.cmd == cmd)

def Rood.seqOfSlot (i : Nat) (x : Rood) : Option Seq := x.seqs.find? (fun q => q.slot == i)

/-- The sequence is in a step that runs. -/
def Rood.inStep (q : Seq) (x : Rood) : Bool :=
  x.crews.any (fun c => match c.step with
    | some s => s.parts.any (fun p => p.cmd == q.cmd)
    | none => false)

/-- Its last boundary is held back under R545. -/
def Rood.inHeld (q : Seq) (x : Rood) : Bool :=
  x.crews.any (fun c => match c.held with
    | some s => s.parts.any (fun p => p.cmd == q.cmd)
    | none => false)

/-! ## Images of a rood -/

/-- The parameters and selected placement of a model slot (R222). -/
def Rood.placed (m : Nat) (x : Rood) : Option (Image × Params × Placement) :=
  match lookKey m x.obj.models with
  | some im => match im.kind with
    | .placement p pl => some (im, p, pl)
    | .adapter _ => none
  | none => none

/-- Crews of an image of width `w` (R222). -/
def Rood.crewCount (w : Nat) (x : Rood) : Nat := x.width / max w 1

/-- Stack groups of crew `c` (R222). -/
def Rood.crewSgs (w c : Nat) (x : Rood) : List Nat := (List.range w).map (fun i => x.firstSg + c * w + i)

/-- Tiles of a list of stack groups (Table 1.3). -/
def sgTiles (sgs : List Nat) : List Nat := sgs.flatMap (fun g => [4 * g, 4 * g + 1, 4 * g + 2, 4 * g + 3])

/-! ## Prices (R231, R442) -/

/-- Tokens processed and sampled by a step, and the sum of ⌈a[i] / 1,024⌉ over its tokens. -/
structure Load where
  tokens : Nat
  sampled : Nat
  ctx : Nat

/-- ⌈a / 1,024⌉ of R231. -/
def ctxUnits (a : Nat) : Nat := (a + 1023) / 1024

def Part.positions (p : Part) : List Nat := (List.range p.count).map (fun i => p.first + i)

def Part.samples (p : Part) : Bool := p.decode && !p.inject

/-- Context units of the positions of one part, by the bound of R231. -/
def partCtx (g : KvGeom) (p : Part) : Nat := (p.positions.map (fun i => ctxUnits (g.attendBound i))).sum

def Rood.geomOf (i : Nat) (x : Rood) : KvGeom :=
  match x.entry? i with
  | some e => e.geom
  | none => { layers := 0, hkv := 1, dh := 32, kv4 := false, retr := false }

def Rood.loadOf (parts : List Part) (x : Rood) : Load :=
  { tokens := (parts.map (fun p => p.count)).sum, sampled := (parts.filter Part.samples).length
    ctx := (parts.map (fun p => partCtx (x.geomOf p.slot) p)).sum }

/-- Milligrains of one price entry. -/
def entryMg (l : Load) (e : PriceEntry) : Nat :=
  if e.layer = 0xFE then e.stepMg + e.tokenMg * l.tokens
  else if e.layer = 0xFF then (if l.sampled = 0 then 0 else e.stepMg + e.tokenMg * l.sampled)
  else e.stepMg + e.tokenMg * l.tokens + e.ctxMg * l.ctx

/-- The price of a step, in grains (R231). -/
def stepPrice (pl : Placement) (l : Load) : Nat := ((pl.prices.map (entryMg l)).sum + 999) / 1000

def sumAt (l : List Nat) (is : List Nat) : Nat := (is.map (fun i => l.getD i 0)).sum

/-- e of R442, times 256: the square of the mean target supply over 0.80 V, rounded up. -/
def supplyFactor (supply tiles : List Nat) : Nat :=
  let v := sumAt (supply) tiles
  let n := 800 * tiles.length
  ceilDiv (256 * v * v) (n * n)

/-- The scaled price (R442). -/
def scaledPrice (e : Energy) (tiles : List Nat) (price : Nat) : Nat := ceilDiv (price * supplyFactor e.supply tiles) 256

/-! ## Projections (R443 to R445) -/

/-- s of R443: the mean step time of the tiles over the nominal step time, by the ring-oscillator counts. -/
def Ctx.speed (c : Ctx) (tiles : List Nat) : Quot' :=
  let a := sumAt c.dev.energy.ro tiles
  let b := sumAt c.dev.boot.nominal tiles
  if a = 0 ∨ b = 0 then qNat 1 else { n := a, d := b }

/-- Distinct positions that a sequence's tokens attend, as R443 takes them. -/
def partDistinct (g : KvGeom) (p : Part) : Nat :=
  let last := p.first + p.count
  if g.retr then min last ((p.positions.map g.attendBound).sum) else last

/-- T_seed in ns, with a given s (R443). -/
def Rood.seedTime (s : Quot') (p : Params) (pl : Placement) (parts : List Part) (x : Rood) : Quot' :=
  let f := qNat (1000 + 500 * p.layers)
  let str : Quot' := { n := pl.maxTileBytes, d := 1000 }
  let n := (parts.map (fun q => q.count)).sum
  let c : Quot' := { n := n * paramCount p, d := 4096 * pl.width * pairProducts p.pairMlp }
  let a := (parts.map (fun q => let g := x.geomOf q.slot; partDistinct g q * p.layers * g.posBytes)).sum
  qAdd (qAdd (qMul s f) (qMax str (qMul s c))) { n := a, d := x.width * 4000 }

/-- A projection: T_seed, T_time, T_energy and T, the scaled price and the sum of the banks. -/
structure Proj where
  seed : Quot'
  time : Quot'
  energy : Quot'
  price : Nat
  bank : Int

def Proj.total (p : Proj) : Quot' := qMax p.time p.energy

def Rood.crew? (m c : Nat) (x : Rood) : Option Crew := x.crews.find? (fun k => k.model == m && k.idx == c)

/-- κ of a crew for a duty, times 256; 1 before its first step (R444). -/
def Rood.kappa (m c : Nat) (prefill : Bool) (x : Rood) : Nat :=
  match x.crew? m c with
  | some k => if prefill then k.kappaP else k.kappaD
  | none => 256

def bankSum (e : Energy) (sgs : List Nat) : Int := (sgs.map (fun g => e.bank.getD g 0)).sum

/-- The projection of a step of crew `c` of the image in slot `m` (R443). -/
def Rood.project (ctx : Ctx) (m c : Nat) (p : Params) (pl : Placement) (prefill : Bool) (parts : List Part) (x : Rood) :
    Proj :=
  let e := ctx.dev.energy
  let sgs := x.crewSgs pl.width c
  let tiles := sgTiles sgs
  let seed := x.seedTime (ctx.speed tiles) p pl parts
  let price := scaledPrice e tiles (stepPrice pl (x.loadOf parts))
  let bank := bankSum e sgs
  let excess := ((price : Int) - bank).toNat
  { seed := seed, time := qMul { n := x.kappa m c prefill, d := 256 } seed
    energy := if excess = 0 then qNat 0 else { n := 10000 * excess, d := e.share * pl.width }
    price := price, bank := bank }

/-- The grains available to a step (R445). -/
def availGrains (e : Energy) (pl : Placement) (p : Proj) : Int :=
  p.bank + (e.share * pl.width * qCeil { p.time with d := p.time.d * 10000 } : Nat)

/-! ## What a decode position will do (R327) -/

/-- The list set of a sequence: the version its command took (R322). -/
def Rood.listOf (q : Seq) (x : Rood) : Option ListSet :=
  match x.cmd? q.cmd with
  | some c => if c.listSeq = 0 then none else x.obj.lists.find? (fun s => s.loadSeq == c.listSeq)
  | none => none

/-- The tokenizer table of a command (R169). -/
def Rood.tableOf (c : Cmd) (x : Rood) : List Byte :=
  ((x.obj.tables.find? (fun t => t.loadSeq == c.tokSeq)).map (fun t => t.bytes)).getD []

/-- The next decode position of the sequence injects. -/
def Rood.injects (q : Seq) (x : Rood) : Bool :=
  match q.gen with
  | some g => (decideToken (x.listOf q) g).1.isSome
  | none => false

/-- The part that a sequence's decode position forms (R279). -/
def Rood.decodePart (q : Seq) (x : Rood) : Part :=
  { cmd := q.cmd, slot := q.slot, first := match x.entry? q.slot with
      | some e => q.storedNow e
      | none => 0
    count := 1, decode := true, inject := x.injects q }

/-- The part of a prefill chunk of `n` positions, its sampled position included when `dec`. -/
def Rood.chunkPart (q : Seq) (n : Nat) (dec : Bool) (x : Rood) : Part :=
  { cmd := q.cmd, slot := q.slot, first := q.base + q.stored, count := n, decode := dec
    inject := dec && x.injects q }

end Sys2Proof.Machine
end

