-- ==== Sys2Proof/Machine/Window.lean ====
section
/-! DEFINITION. Window stores (R226 to R228): the stream of a crew tile for a step, its segments, and the eight buffers into which
a tile fetches them. -/
namespace Sys2Proof.Machine
open Sys2Proof

/-! ## Streams (R225, R234) -/

/-- The target of Table 7.9 that a matrix code of Table 7.4 names. -/
def targetOf (code : Nat) : Option Nat :=
  match code with
  | 0x01 => some 0
  | 0x04 => some 1
  | 0x07 => some 2
  | 0x09 => some 3
  | 0x0B => some 4
  | 0x0C => some 5
  | 0x0D => some 6
  | _ => none

/-- The bytes of a slice in the image of a model slot. -/
def slicePiece (slot seq : Nat) (mats : List Mat) (s : SliceEntry) : List StreamPiece :=
  match findMat s.layer s.matrix 0 mats with
  | some (o, m) => [{ adapter := false, slot := slot, loadSeq := seq, off := o + s.firstRow * m.rowBytes, len := s.rows * m.rowBytes }]
  | none => []

/-- All of A and the rows of B that match a slice of a target (R234). -/
def adapterPieces (a : AdapterParams) (slot seq : Nat) (s : SliceEntry) : List StreamPiece :=
  match targetOf s.matrix with
  | none => []
  | some t =>
    match findMat s.layer (0x80 + t) 0 (adapterMats a), findMat s.layer (0x90 + t) 0 (adapterMats a) with
    | some (oa, ma), some (ob, mb) =>
      [{ adapter := true, slot := slot, loadSeq := seq, off := oa, len := ma.bytes },
       { adapter := true, slot := slot, loadSeq := seq, off := ob + s.firstRow * mb.rowBytes, len := s.rows * mb.rowBytes }]
    | _, _ => []

/-- The slices that crew tile `j` streams, in stream order: no EMBED, which follows FINAL_NORM where it is tied; FINAL_NORM and what
comes after it only in a step that samples (R225). -/
def streamSlices (p : Params) (pl : Placement) (samples : Bool) (j : Nat) : List SliceEntry :=
  let own := pl.slices.filter (fun s => s.tile == 0xFF || s.tile == j)
  own.flatMap (fun s =>
    if s.matrix = 0x10 ∨ (s.layer = 0xFF ∧ !samples) then []
    else if s.matrix = 0x11 ∧ p.tieEmbed = 1 then s :: own.filter (fun e => e.matrix == 0x10)
    else [s])

/-- The stream of crew tile `j`: each slice, and after it the adapter terms of its target (R225, R234). -/
def stepStream (p : Params) (pl : Placement) (slot seq : Nat) (ads : List (Nat × Nat × AdapterParams)) (samples : Bool) (j : Nat) :
    List StreamPiece :=
  (streamSlices p pl samples j).flatMap (fun s =>
    slicePiece slot seq (imageMats p) s ++ ads.flatMap (fun a => adapterPieces a.2.2 a.1 a.2.1 s))

/-- Bytes of a segment. -/
def segmentBytes : Nat := 2 ^ 20

/-- What lies of a stream between two of its bytes; `pos` is the place of the first piece. -/
def clipStream (lo hi : Nat) : (pos : Nat) → List StreamPiece → List StreamPiece
  | _, [] => []
  | pos, p :: l =>
    let a := max lo pos
    let b := min hi (pos + p.len)
    (if a < b then [{ p with off := p.off + (a - pos), len := b - a }] else []) ++ clipStream lo hi (pos + p.len) l

/-- A stream cut into segments from its first byte. -/
def segmentsOf (l : List StreamPiece) : List Segment :=
  (List.range (ceilDiv ((l.map (fun p => p.len)).sum) segmentBytes)).map (fun i =>
    clipStream (i * segmentBytes) ((i + 1) * segmentBytes) 0 l)

/-! ## The buffers (R226 to R228) -/

/-- Segment buffers of a tile. -/
def windowBuffers : Nat := 8

/-- The window store of a tile after a reset. -/
def WindowStore.empty : WindowStore := { buffers := [], work := 0 }

def Rood.win (t : Nat) (x : Rood) : WindowStore := (lookKey t x.wins).getD WindowStore.empty

def Rood.setWin (t : Nat) (w : WindowStore) (x : Rood) : Rood := { x with wins := (t, w) :: x.wins.filter (fun p => p.1 != t) }

/-- The window stores of these tiles are cleared. -/
def Rood.clearWins (ts : List Nat) (x : Rood) : Rood := { x with wins := x.wins.filter (fun p => !ts.contains p.1) }

/-- Counts the segments that a tile fetches (Table 18.1). -/
def Rood.countSegments (t n : Nat) (x : Rood) : Rood := if n = 0 then x else x.ask (.count ⟨.tile, t, 2⟩ n)

/-- Loaded adapters that the sessions of a step are bound to, in ascending slot, with their LOAD_SEQ. -/
def Rood.stepAdapters (parts : List Part) (x : Rood) : List (Nat × Nat × AdapterParams) :=
  let bound := parts.filterMap (fun p => (x.entry? p.slot).map (fun e => e.adapterSlot))
  (x.obj.adapters.filter (fun a => a.1 != 0xFFFF && bound.contains a.1)).filterMap (fun a => match a.2.kind with
    | .adapter ap => some (a.1, a.2.loadSeq, ap)
    | .placement _ _ => none)

/-- The segments of each tile of a crew for a step. -/
def Rood.crewSegments (m : Nat) (im : Image) (p : Params) (pl : Placement) (c : Nat) (parts : List Part) (x : Rood) :
    List (Nat × List Segment) :=
  (sgTiles (x.crewSgs pl.width c)).zipIdx.map (fun t =>
    (t.1, segmentsOf (stepStream p pl m im.loadSeq (x.stepAdapters parts) (parts.any Part.samples) t.2)))

/-- A step begins: each tile keeps what it has prefetched of the first eight segments, discards the rest, and fetches the others of
the eight (R228). -/
def Rood.openWindows (work : Nat) (l : List (Nat × List Segment)) (x : Rood) : Rood :=
  l.foldl (fun x t =>
    let first := t.2.take windowBuffers
    (x.countSegments t.1 (first.filter (fun s => !(x.win t.1).buffers.contains s)).length).setWin t.1
      { buffers := first, work := work }) x

/-- A step ends: each tile has fetched the segments beyond the eighth, and near its end the first ones again, for a next step of the
same image (R227, R228; log entry 69). -/
def Rood.closeWindows (l : List (Nat × List Segment)) (x : Rood) : Rood :=
  l.foldl (fun x t =>
    (x.countSegments t.1 t.2.length).setWin t.1 { buffers := t.2.take windowBuffers, work := 0 }) x

end Sys2Proof.Machine
end

