-- ==== Sys2Proof/Machine/Director.lean ====
section
/-! DEFINITION. The step director (chapter 9): the end of a sequence, the running batch, duties, placement, chunks, trimming
and the composition of a step. -/
namespace Sys2Proof.Machine
open Sys2Proof

/-! ## Frames and lines of a sequence -/

/-- Writes the layer table's pointer and the peck count into a session's entry (Table 3.1). -/
def Rood.setHeld (slot table s : Nat) (x : Rood) : Rood :=
  x.modEntry slot (fun e => { e with
    dirRoot := BitVec.ofNat 32 table, pecks := e.geo.layers * (e.geom.held s).1 })

/-- Takes what positions up to `s'` of a sequence need, from its reservation first (R286, R450); none where it is not free. -/
def Rood.takeKv (q : Seq) (s' : Nat) (x : Rood) : Option Rood :=
  match x.entry? q.slot with
  | none => none
  | some e =>
    let g := e.geom
    let s := q.storedNow e
    let f := g.frames s' - g.frames s
    let n := g.lines s' - g.lines s
    if f - q.resFrames ≤ x.framesOpen ∧ n - q.resLines ≤ x.linesOpen (q.slot % x.width) then
      match x.kv.grow x.width q.slot g e.dirRoot.toNat s s' with
      | some (t, k) =>
        some ((({ x with kv := k }).setHeld q.slot t s').setSeq
          { q with resFrames := q.resFrames - f, resLines := q.resLines - n })
      | none => none
    else none

/-- Takes a session's frames and lines back from `s'` to `s` positions, zeroing what was written between (R247). -/
def Rood.dropKv (slot s s' : Nat) (x : Rood) : Rood :=
  match x.entry? slot with
  | none => x
  | some e =>
    if s' ≤ s then x
    else
      let r := x.kv.discard (slot % x.width) e.geom e.dirRoot.toNat s s'
      ({ x with kv := r.2 }).setHeld slot r.1 s

/-! ## The end of a sequence -/

/-- RESULT of a sequence's command (Table 4.8). -/
def Seq.result (q : Seq) (e : Entry) : List Nat :=
  match q.gen with
  | none => if q.appendDone then [q.appended, q.byteTokens, e.length, 0] else [0, 0, e.length, 0]
  | some g => [e.genCount, q.stopOff.getD 0xFFFFFFFF, e.length, g.used]

/-- Ends a sequence whose frames have been brought to `alloc` positions: an append that has not taken effect is discarded
(R103), the session returns to RESIDENT, or stays SUSPECT, and the command completes (R105, R115). A cancelled append sets LAST_YIELD
like a generation (DESIGN CHOICE, log entry 74). -/
def Rood.endSeq (now : W64) (q : Seq) (alloc status yield : Nat) (x : Rood) : Rood :=
  let x := if q.appendDone then x else x.dropKv q.slot q.base alloc
  let x := { x with seqs := x.seqs.filter (fun p => p.cmd != q.cmd) }
  let x := x.modEntry q.slot (fun e => if yield = 0 then e else { e with lastYield := yield })
  let x := match x.entry? q.slot with
    | some e => if e.state = SesState.suspect then x else x.setState now q.slot .resident 0
    | none => x
  match x.cmd? q.cmd, x.entry? q.slot with
  | some c, some e => x.complete now c { c.record status with
      yield := yield, result := q.result e, byteTokens := q.appendDone && decide (0 < q.byteTokens)
      carried := q.appendDone && q.carried }
  | some c, none => x.fail now c status
  | none, _ => x

/-- The positions that a sequence's frames have been brought to: those of its step when it is in one. -/
def Rood.allocOf (q : Seq) (x : Rood) : Nat :=
  let own := match x.entry? q.slot with
    | some e => q.storedNow e
    | none => q.base
  (x.crews.map (fun c => match c.step with
    | some s => ((s.parts.filter (fun p => p.cmd == q.cmd)).map (fun p => p.first + p.count)).foldl max 0
    | none => 0)).foldl max own

/-- Completes the SES_CANCEL that waits on a sequence: ST_OK, as N when another outcome stood (R112, R114). -/
def Rood.endCancel (now : W64) (q : Seq) (nothing : Bool) (x : Rood) : Rood :=
  match q.cancel with
  | some id => match x.cmd? id with
    | some c => x.complete now c { c.record stOk with nothingDone := nothing }
    | none => x
  | none => x

/-- The append part of a sequence takes effect: LENGTH, the pending token and the carried bytes (R102, R106, Table 5.4). -/
def Rood.applyAppend (q : Seq) (x : Rood) : Rood :=
  if q.appendDone then x
  else
    (x.modEntry q.slot (fun e => { e with
      length := q.base + q.toks.length, pendingToken := q.toks.getLast?.getD 0, carry := q.newCarry })).setSeq
      { q with appendDone := true }

/-! ## What keeps a step from running (R455, R542, R545) -/

def Dev.tileDown (t : Nat) (d : Dev) : Bool :=
  d.integ.resets.any (fun l => match l with
    | .tile u => u == t
    | _ => false)

/-- The stack group at a position of the rood is under reset. -/
def Rood.posDown (ctx : Ctx) (pos : Nat) (x : Rood) : Bool := ctx.dev.sgDown (x.firstSg + pos)

/-- A load, an unload or a restore waits for every crew to stand between steps (R239, R240, R430). -/
def Rood.changeWaits (x : Rood) : Bool := x.cmds.any (fun c => c.stage == .ready)

/-- Steps of the rood may be composed at all. -/
def Rood.mayStep (ctx : Ctx) (x : Rood) : Bool :=
  !x.changeWaits &&
  ctx.dev.roodsLive && !x.fenced && x.powered && !ctx.dev.integ.clockLost && !x.quiet &&
    !ctx.dev.energy.thermTrip && !x.posDown ctx 0

/-- Positions of the stacks that hold a session's entry, directory and frames. -/
def Rood.stacksOf (slot stored : Nat) (x : Rood) : List Nat :=
  match x.entry? slot with
  | some e => (slot % x.width) :: ((x.kv.sessionFrames (slot % x.width) e.geom e.dirRoot.toNat stored).map
      (fun f => keyPos f.key)).eraseDups
  | none => [slot % x.width]

/-- The stacks that would hold a sequence's data once its positions up to `s` are stored, its new frames among them, are not under
reset (R545). -/
def Rood.stacksUp (ctx : Ctx) (q : Seq) (s : Nat) (x : Rood) : Bool :=
  match x.takeKv q s with
  | some y => (y.stacksOf q.slot s).all (fun p => !x.posDown ctx p)
  | none => true

/-- Some object that the sequence needs is being rebuilt (R544), or its adapter is about to be emptied. -/
def Rood.blocked (q : Seq) (x : Rood) : Bool :=
  (x.entry? q.slot).any (fun e => x.obj.emptying.contains (65536 + e.adapterSlot)) ||
  x.rebuilding.any (fun o => match o with
    | .adapter _ s => (x.entry? q.slot).any (fun e => e.adapterSlot == s)
    | .automaton _ s => q.gen.isSome && (x.entry? q.slot).any (fun e => e.listSet == s)
    | _ => false)

/-- The sequence is at a step boundary and nothing it needs is under reset. -/
def Rood.seqReady (ctx : Ctx) (q : Seq) (x : Rood) : Bool :=
  !x.inStep q && !x.inHeld q && !x.blocked q &&
    (match x.entry? q.slot with
     | some e => (x.stacksOf q.slot (q.storedNow e)).all (fun p => !x.posDown ctx p)
     | none => false)

/-- The tiles and stack groups of a crew may take a step. -/
def Rood.crewFree (ctx : Ctx) (m w c : Nat) (x : Rood) : Bool :=
  let sgs := x.crewSgs w c
  !x.obj.emptying.contains m && sgs.all (fun g => !ctx.dev.sgDown g) && (sgTiles sgs).all (fun t => !ctx.dev.tileDown t) &&
    !x.rebuilding.any (fun o => match o with
      | .weight _ s k => s == m && k == c
      | _ => false)

/-! ## The running batch (R95, R277, R278) -/

/-- Places of the running batch (R277). -/
def batchSize : Nat := 64

def Rood.batchCount (x : Rood) : Nat := (x.seqs.filter (fun q => q.running)).length

/-- The first QUEUED sequence joins the batch. -/
def Rood.joinBatch (now : W64) (q : Seq) (x : Rood) : Rood :=
  let fresh := match q.gen with
    | some g => g.history.isEmpty
    | none => true
  (x.setSeq { q with running := true, lastEnd := if fresh then now else q.lastEnd }).setState now q.slot .running 0

/-- QUEUED sequences join in R95 order while there is a place. -/
def Rood.fillBatch (now : W64) (x : Rood) : Rood :=
  (sortSeqs (x.seqs.filter (fun q => !q.running))).foldl (fun x q =>
    if x.batchCount < batchSize then x.joinBatch now q else x) x

/-- A RUNNING sequence returns to QUEUED with its original time (R278). -/
def Rood.requeue (now : W64) (q : Seq) (x : Rood) : Rood :=
  (((x.setSeq { q with running := false, crew := none }).setState now q.slot .queued 0)).countSlice 0 16 1

/-- The RUNNING sequence that R278 preempts for a class: the highest class number above it, then the latest. -/
def victim (cls : Nat) (marked : List Nat) (l : List Seq) : Option Seq :=
  (sortSeqs (l.filter (fun q => q.running && decide (cls < q.cls) && !marked.contains q.cmd))).getLast?

/-- Preemption: one sequence for each waiting one, at its boundary; then the places are taken (R278). -/
def Rood.preempt (now : W64) (x : Rood) : Rood :=
  if x.batchCount < batchSize then x
  else
    let r := (sortSeqs (x.seqs.filter (fun q => !q.running))).foldl (fun (r : Rood × List Nat) w =>
      match victim w.cls r.2 r.1.seqs with
      | some v => (if r.1.inStep v || r.1.inHeld v then r.1 else r.1.requeue now v, v.cmd :: r.2)
      | none => r) (x, [])
    r.1.fillBatch now

/-! ## Duties (R280, R282) -/

def Rood.batchOf (m : Nat) (x : Rood) : List Seq := x.seqs.filter (fun q => q.running && q.model == m)

/-- D and Q of R280. -/
def Rood.demand (m : Nat) (x : Rood) : Nat × Nat :=
  let l := x.batchOf m
  ((l.filter Seq.decodePhase).length, (l.map Seq.prefillLeft).sum)

/-- Crews on prefill duty (R280). -/
def prefillCrews (c d q st : Nat) : Nat := if q = 0 then 0 else min (if d = 0 then c else c - 1) (ceilDiv q st)

def Rood.setCrew (k : Crew) (x : Rood) : Rood :=
  { x with crews := x.crews.map (fun j => if j.model == k.model && j.idx == k.idx then k else j) }

def Crew.idle (k : Crew) : Bool := k.step.isNone && k.held.isNone

/-- The lesser projected time first, the lower crew number on a tie. -/
def insertTimed (a : Quot' × Crew) : List (Quot' × Crew) → List (Quot' × Crew)
  | [] => [a]
  | b :: l => if qLe a.1 b.1 && (!qLe b.1 a.1 || decide (a.2.idx < b.2.idx)) then a :: b :: l else b :: insertTimed a l

/-- The duties of the idle crews of an image with several crews (R280). -/
def Rood.manyDuties (ctx : Ctx) (m c : Nat) (p : Params) (pl : Placement) (x : Rood) : Rood :=
  let dq := x.demand m
  let own := x.crews.filter (fun k => k.model == m)
  let idle := own.filter Crew.idle
  let busyP := (own.filter (fun k => !k.idle && k.prefillDuty)).length
  let want := min idle.length (prefillCrews c dq.1 dq.2 pl.stepTokens - busyP)
  let parts := ((x.batchOf m).filter Seq.decodePhase).map (fun q => x.decodePart q)
  let sorted := (idle.map (fun k => ((x.project ctx m k.idx p pl false parts).total, k))).foldr insertTimed []
  let before := (own.filter (fun k => !k.prefillDuty)).length
  let x := sorted.zipIdx.foldl (fun x q =>
    x.setCrew { q.1.2 with prefillDuty := decide (idle.length - want ≤ q.2) }) x
  let after := ((x.crews.filter (fun k => k.model == m)).filter (fun k => !k.prefillDuty)).length
  if before < after then
    { x with crews := x.crews.map (fun k => if k.model == m && !k.prefillDuty then { k with rebalance := true } else k) }
  else x

/-- The duty of an image's only crew (R282). -/
def Rood.oneDuty (m : Nat) (x : Rood) : Rood :=
  match x.crew? m 0 with
  | some k =>
    let dq := x.demand m
    if k.idle then x.setCrew { k with prefillDuty := if k.ranPrefill then dq.1 == 0 else decide (0 < dq.2) } else x
  | none => x

/-! ## Placement (R281) -/

/-- Decode-phase sequences that a crew holds. -/
def Rood.crewLoad (m c : Nat) (x : Rood) : Nat :=
  ((x.batchOf m).filter (fun q => q.decodePhase && q.crew == some c)).length

/-- The crew of a list that holds the fewest, the lowest number on a tie. -/
def Rood.leastLoaded (m : Nat) (cs : List Nat) (x : Rood) : Option Nat :=
  cs.foldl (fun b c => match b with
    | none => some c
    | some a => if x.crewLoad m c < x.crewLoad m a then some c else some a) none

/-- One move of a rebalancing: the last of crew `c` in R95 order goes to the least-loaded decode crew. -/
def Rood.moveOne (m c : Nat) (cs : List Nat) (x : Rood) : Rood :=
  match x.leastLoaded m cs with
  | some lo =>
    if x.crewLoad m lo + 1 < x.crewLoad m c then
      match (sortSeqs ((x.batchOf m).filter (fun q =>
          q.decodePhase && q.crew == some c && !x.inStep q && !x.inHeld q))).getLast? with
      | some q => x.setSeq { q with crew := some lo }
      | none => x
    else x
  | none => x

/-- Places every decode-phase sequence at a boundary that has no decode crew, and rebalances crews at their boundary. -/
def Rood.placeSeqs (m c : Nat) (x : Rood) : Rood :=
  let cs := if c = 1 then [0]
    else ((x.crews.filter (fun k => k.model == m && !k.prefillDuty)).map (fun k => k.idx))
  let loose := sortSeqs ((x.batchOf m).filter (fun q =>
    q.decodePhase && !x.inStep q && !(match q.crew with
      | some k => cs.contains k
      | none => false)))
  let x := loose.foldl (fun x q => match x.leastLoaded m cs with
    | some k => x.setSeq { q with crew := some k }
    | none => x) x
  (x.crews.filter (fun k => k.model == m && k.rebalance && k.idle)).foldl (fun x k =>
    ((List.range batchSize).foldl (fun x _ => x.moveOne m k.idx cs) x).setCrew { k with rebalance := false }) x

/-! ## Chunks and room (R284, R285) -/

/-- Prefill chunks within a room, in R95 order. -/
def Rood.chunksIn (x : Rood) : (room : Nat) → List Seq → List Part
  | _, [] => []
  | room, q :: l =>
    let dec := (x.entry? q.slot).any (fun e => q.mayDecode e)
    let rem := q.prefillLeft + (if dec then 1 else 0)
    let take := if rem ≤ room then rem else room / 64 * 64
    if take = 0 then x.chunksIn room l
    else x.chunkPart q take (dec && take == rem) :: x.chunksIn (room - take) l

/-- The limit of a class, in ns; 0 for none (R94). -/
def Rood.limitNs (cls : Nat) (x : Rood) : Nat := 1000 * x.regs.latLimit.getD cls 0

/-- The room of a prefill step (R284, R285). -/
def Rood.prefillRoom (ctx : Ctx) (m c : Nat) (p : Params) (pl : Placement) (picks : List Seq) (x : Rood) : Nat :=
  let dec := (x.batchOf m).filter Seq.decodePhase
  let lims := (dec.map (fun q => x.limitNs q.cls)).filter (fun l => decide (0 < l))
  match lims with
  | [] => pl.stepTokens
  | l :: ls =>
    if x.crewCount pl.width ≠ 1 then pl.stepTokens
    else
      let lim := qNat (ls.foldl min l)
      let td := (x.project ctx m c p pl false (dec.map (fun q => x.decodePart q))).total
      let top := pl.stepTokens / 64
      let fits := fun k => qLe (qAdd (x.project ctx m c p pl true (x.chunksIn (64 * k) picks)).total td) lim
      64 * (((List.range top).map (fun i => top - i)).find? fits).getD 1

/-! ## Trimming (R288) -/

/-- The class of the sequence of a part. -/
def Rood.partCls (q : Part) (x : Rood) : Nat := ((x.seq? q.cmd).map (fun s => s.cls)).getD 0

/-- The step with its last part of class `k` left out; none where it has none. -/
def Rood.dropClass (k : Nat) (parts : List Part) (x : Rood) : Option (List Part) :=
  match (parts.filter (fun p => x.partCls p == k)).getLast? with
  | some v => some (parts.filter (fun p => p.cmd != v.cmd))
  | none => none

/-- One trimming step; none where nothing more may go. A class 0 sequence is never removed, so that several class 0 prefill sequences
stay as they are. -/
def Rood.trimOne (prefill : Bool) (parts : List Part) (x : Rood) : Option (List Part) :=
  if prefill then
    match parts with
    | [] => none
    | [p] =>
      let pre := p.count - (if p.decode then 1 else 0)
      let n := (pre - 1) / 64 * 64
      if n < 64 then none else some [{ p with count := n, decode := false, inject := false }]
    | _ => ((parts.filter (fun p => x.partCls p != 0)).getLast?).map (fun v => parts.filter (fun p => p.cmd != v.cmd))
  else if parts.length ≤ 1 then none
  else match x.dropClass 2 parts with
    | some l => some l
    | none => x.dropClass 1 parts

/-- Trims until the scaled price fits the grains. -/
def Rood.trim (price : List Part → Nat) (avail : Int) (prefill : Bool) (x : Rood) : (fuel : Nat) → List Part → List Part
  | 0, l => l
  | f + 1, l =>
    if (price l : Int) ≤ avail then l
    else match x.trimOne prefill l with
      | some l' => x.trim price avail prefill f l'
      | none => l

/-! ## Composition (R286) -/

/-- The sequences that a crew may put into its next step, in R95 order. -/
def Rood.picks (ctx : Ctx) (m : Nat) (k : Crew) (x : Rood) : List Seq :=
  sortSeqs ((x.batchOf m).filter (fun q => x.seqReady ctx q &&
    (if k.prefillDuty then !q.decodePhase
     else q.decodePhase && q.crew == some k.idx && x.stacksUp ctx q (((x.entry? q.slot).map (fun e => e.length)).getD 0))))

/-- The decode sequences whose frames can be taken, and those that yield NO_PECKS, each tried after the ones before. -/
def Rood.tryTake : List Seq → Rood → List Seq × List Seq
  | [], _ => ([], [])
  | q :: l, x =>
    let stored := match x.entry? q.slot with
      | some e => e.length
      | none => 0
    match x.takeKv q stored with
    | some x' => let r := tryTake l x'; (q :: r.1, r.2)
    | none => let r := tryTake l x; (r.1, q :: r.2)

/-- Takes the frames of every part of the step that will run. -/
def Rood.takeParts (parts : List Part) (x : Rood) : Rood :=
  parts.foldl (fun x p => match x.seq? p.cmd with
    | some q => (x.takeKv q (p.first + p.count)).getD x
    | none => x) x

/-- Starts a composed step on its crew. -/
def Rood.startStep (ctx : Ctx) (m : Nat) (im : Image) (k : Crew) (p : Params) (pl : Placement) (parts : List Part) (avail : Int)
    (x : Rood) : Rood :=
  let pr := x.project ctx m k.idx p pl k.prefillDuty parts
  let s : Step := { prefillDuty := k.prefillDuty, parts := parts, price := pr.price, grains := avail.toNat
                    energyBound := !qLe pr.energy pr.time, limits := x.regs.latLimit, ending := none }
  let x := ((x.takeParts parts).openWindows pl.workBytes (x.crewSegments m im p pl k.idx parts)).setCrew
    { k with step := some s, ranPrefill := k.prefillDuty }
  (x.ask (.start (sgTiles (x.crewSgs pl.width k.idx)))).countSlice 0 11 1

/-- Composes and starts the next step of one idle crew. -/
def Rood.composeCrew (ctx : Ctx) (m : Nat) (im : Image) (k : Crew) (p : Params) (pl : Placement) (x : Rood) : Rood :=
  let picks := x.picks ctx m k
  let r := if k.prefillDuty then (picks, []) else Rood.tryTake picks x
  let parts := if k.prefillDuty then
      (x.chunksIn (x.prefillRoom ctx m k.idx p pl picks) picks).filter (fun q =>
        (x.seq? q.cmd).all (fun s => x.stacksUp ctx s (q.first + q.count)))
    else r.1.map (fun q => x.decodePart q)
  let x := r.2.foldl (fun x q => x.endSeq ctx.time q (x.allocOf q) stNoPecks yNoPecks) x
  if parts.isEmpty then x
  else
    let pr := x.project ctx m k.idx p pl k.prefillDuty parts
    let avail := availGrains ctx.dev.energy pl pr
    let kept := x.trim (fun l => (x.project ctx m k.idx p pl k.prefillDuty l).price) avail k.prefillDuty 1024 parts
    (x.startStep ctx m im k p pl kept avail).countSlice 0 17 (parts.length - kept.length)

/-- Two crews share a stack group (R223). -/
def overlap (w c w' c' : Nat) : Bool := decide (c * w < c' * w' + w') && decide (c' * w' < c * w + w)

/-- No step runs on the tiles of a crew. -/
def Rood.tilesFree (w c : Nat) (x : Rood) : Bool :=
  x.crews.all (fun k => k.step.isNone || (match x.placed k.model with
    | some (_, _, pl) => !overlap w c pl.width k.idx
    | none => true))

/-- A crew that could compose, with its key of R283: lowest class, decode first, earliest last end, then its numbers. -/
structure Cand where
  key : List Nat
  model : Nat
  idx : Nat

def keyBefore : List Nat → List Nat → Bool
  | a :: l, b :: m => decide (a < b) || (a == b && keyBefore l m)
  | _, _ => false

def insertCand (a : Cand) : List Cand → List Cand
  | [] => [a]
  | b :: l => if keyBefore a.key b.key then a :: b :: l else b :: insertCand a l

/-- The crews that could compose a step, in the order of R283. -/
def Rood.candidates (ctx : Ctx) (x : Rood) : List Cand :=
  (x.crews.filterMap (fun k =>
    match x.placed k.model with
    | some (_, _, pl) =>
      let ps := x.picks ctx k.model k
      if k.idle && x.crewFree ctx k.model pl.width k.idx && !ps.isEmpty then
        some { key := [(ps.map (fun q => q.cls)).foldl min 3, bit k.prefillDuty, k.lastEnd.toNat, k.model, k.idx]
               model := k.model, idx := k.idx : Cand }
      else none
    | none => none)).foldr insertCand []

/-- Duties and placement of every image. -/
def Rood.arrange (ctx : Ctx) (x : Rood) : Rood :=
  x.obj.models.foldl (fun x q =>
    match x.placed q.1 with
    | some (_, p, pl) =>
      let c := x.crewCount pl.width
      (if c = 1 then x.oneDuty q.1 else x.manyDuties ctx q.1 c p pl).placeSeqs q.1 c
    | none => x) x

/-- Composes the next step of every idle crew that can take one (R286, R289). The running batch takes in sequences only at the boundary
of a crew. -/
def Rood.compose (ctx : Ctx) (x : Rood) : Rood :=
  if !x.mayStep ctx then x
  else
    let x := (if x.crews.any Crew.idle then (x.fillBatch ctx.time).preempt ctx.time else x).arrange ctx
    (x.candidates ctx).foldl (fun x c =>
      match x.placed c.model, x.crew? c.model c.idx with
      | some (im, p, pl), some k => if x.tilesFree pl.width c.idx then x.composeCrew ctx c.model im k p pl else x
      | _, _ => x) x

/-! ## Admission (R293, R447 to R450) -/

/-- Projected decode steps of crews of other images that share a crew's tiles (R443). -/
def Rood.sharedTime (ctx : Ctx) (m w c : Nat) (x : Rood) : Quot' :=
  x.crews.foldl (fun t k =>
    match x.placed k.model with
    | some (_, p, pl) =>
      let parts := ((x.batchOf k.model).filter (fun q => q.decodePhase && q.crew == some k.idx)).map (fun q => x.decodePart q)
      if k.model ≠ m ∧ overlap w c pl.width k.idx ∧ !parts.isEmpty then
        qAdd t (x.project ctx k.model k.idx p pl false parts).total
      else t
    | none => t) (qNat 0)

/-- The step latency that R449 projects on crew `c` with a new sequence `q` added. -/
def Rood.latencyOn (ctx : Ctx) (m c : Nat) (p : Params) (pl : Placement) (q : Seq) (mine : Bool) (x : Rood) : Quot' :=
  let n := x.crewCount pl.width
  let here := x.seqs.filter (fun s => s.model == m && s.decodePhase && (n == 1 || s.crew == some c || !s.running))
  let dec := (sortSeqs ((if mine && q.gen.isSome then [q] else []) ++ here)).take batchSize
  let parts := dec.map (fun s => x.decodePart s)
  let d := if parts.isEmpty then qNat 0 else (x.project ctx m c p pl false parts).total
  let pre := if n = 1 ∧ 0 < q.prefillLeft then (x.project ctx m c p pl true [x.chunkPart q 64 false]).total else qNat 0
  qAdd (qAdd pre d) (x.sharedTime ctx m pl.width c)

/-- The time test (R449) for a sequence not yet admitted. One without a decode part delays the sequences of a single crew, whose steps
its prefill interleaves, and none of a decode crew. -/
def Rood.timeTest (ctx : Ctx) (q : Seq) (x : Rood) : Bool :=
  match x.placed q.model with
  | none => true
  | some (_, p, pl) =>
    let n := x.crewCount pl.width
    let cs := if n = 1 then [0] else (x.crews.filter (fun k => k.model == q.model && !k.prefillDuty)).map (fun k => k.idx)
    let home := (x.leastLoaded q.model cs).getD 0
    let ok := fun (cls : Nat) (c : Nat) (mine : Bool) =>
      x.limitNs cls == 0 || qLe (x.latencyOn ctx q.model c p pl q mine) (qNat (x.limitNs cls))
    (q.gen.isNone && n != 1) || (q.gen.isNone || ok q.cls home true) &&
      (x.seqs.filter (fun s => s.model == q.model && s.decodePhase && decide (s.cls ≤ q.cls))).all (fun s =>
        let c := s.crew.getD home
        ok s.cls c (c == home))

/-- An admitted sequence becomes QUEUED (R102, R105). -/
def Rood.enqueue (now : W64) (q : Seq) (x : Rood) : Rood :=
  ({ x with seqs := x.seqs ++ [{ q with order := x.nextOrder }], nextOrder := x.nextOrder + 1 }).setState now q.slot .queued 0

end Sys2Proof.Machine
end

