-- ==== Sys2Proof/Machine/Tokenizer.lean ====
section
/-! DEFINITION. The tokenizer (chapter 5): the checks of a table, units, the lattice search, carried bytes and output bytes. -/
namespace Sys2Proof.Machine
open Sys2Proof

/-! ## The table (Tables 5.1, 5.2) -/

def tokVocab (t : List Byte) : Nat := u32At 8 t
def tokByteBase (t : List Byte) : Nat := u32At 12 t
def tokByteScore (t : List Byte) : Int := signedOf 32 (u32At 16 t)
def tokPoolLen (t : List Byte) : Nat := u32At 20 t

/-- One entry of Table 5.2. -/
structure TokEntry where
  score : Int
  poolOff : Nat
  len : Nat
  kind : Nat
  reserved : Bool
  deriving DecidableEq, Repr

def tokEntryOf (e : List Byte) : TokEntry :=
  { score := signedOf 32 (u32At 0 e), poolOff := u32At 4 e, len := u8At 8 e, kind := u8At 9 e % 4
    reserved := u32At 8 e / 2 ^ 10 != 0 || u32At 12 e != 0 }

/-- The entries, in ascending id. -/
def tokEntries (t : List Byte) : List TokEntry := (chunks 16 (cut 64 (16 * tokVocab t) t)).map tokEntryOf

def tokPool (t : List Byte) : List Byte := t.drop (64 + 16 * tokVocab t)

/-- The string of an entry. -/
def tokString (pool : List Byte) (e : TokEntry) : List Byte := cut e.poolOff e.len pool

/-! ## Well-formed UTF-8 (Table 5.5) -/

/-- The byte ranges of the rows of Table 5.5, one pair for each column. -/
def utf8Rows : List (List (Nat × Nat)) :=
  let c := (0x80, 0xBF)
  [[(0x00, 0x7F)], [(0xC2, 0xDF), c], [(0xE0, 0xE0), (0xA0, 0xBF), c], [(0xE1, 0xEC), c, c], [(0xED, 0xED), (0x80, 0x9F), c],
   [(0xEE, 0xEF), c, c], [(0xF0, 0xF0), (0x90, 0xBF), c, c], [(0xF1, 0xF3), c, c, c], [(0xF4, 0xF4), (0x80, 0x8F), c, c]]

/-- The row matches the front of the bytes whole. -/
def rowMatches : List (Nat × Nat) → List Byte → Bool
  | [], _ => true
  | _ :: _, [] => false
  | (lo, hi) :: r, b :: bs => decide (lo ≤ b.toNat) && decide (b.toNat ≤ hi) && rowMatches r bs

/-- The bytes match the first columns of the row and stop before its last byte. -/
def rowPrefix : List (Nat × Nat) → List Byte → Bool
  | [], _ => false
  | _ :: _, [] => true
  | (lo, hi) :: r, b :: bs => decide (lo ≤ b.toNat) && decide (b.toNat ≤ hi) && rowPrefix r bs

/-- Length of the well-formed character at the front; 0 when there is none. -/
def charLen (bs : List Byte) : Nat :=
  match utf8Rows.find? (fun r => rowMatches r bs) with
  | some r => r.length
  | none => 0

/-- A proper prefix of a row: one to three bytes (R174). -/
def properPrefix (bs : List Byte) : Bool := !bs.isEmpty && utf8Rows.any (fun r => rowPrefix r bs)

/-- A well-formed UTF-8 sequence: characters from end to end. -/
def wellFormedAux : (fuel : Nat) → List Byte → Bool
  | 0, bs => bs.isEmpty
  | f + 1, bs => bs.isEmpty || (decide (0 < charLen bs) && wellFormedAux f (bs.drop (charLen bs)))

def utf8WellFormed (bs : List Byte) : Bool := wellFormedAux bs.length bs

/-! ## The checks of Table 5.3 -/

def noDup : List (List Byte) → Bool
  | [] => true
  | a :: l => !l.contains a && noDup l

/-- Table 5.3, for a table of `len` bytes. -/
def tokTableOk (t : List Byte) (len : Nat) : Bool :=
  let v := tokVocab t
  let base := tokByteBase t
  let es := tokEntries t
  let pool := tokPool t
  let tagged := es.zipIdx
  u32At 0 t == 0x4E4B4F54 && u16At 4 t == 1 && u16At 6 t == 0 && allZero (cut 24 40 t) && es.all (fun e => !e.reserved) &&
  decide (256 ≤ v) && decide (v ≤ 262144) && decide (base + 255 < v) &&
  len == 64 + 16 * v + tokPoolLen t &&
  tagged.all (fun p =>
    if base ≤ p.2 ∧ p.2 ≤ base + 255 then
      p.1.kind == 1 && p.1.len == 1 && tokString pool p.1 == [byteOf (p.2 - base)]
    else p.1.kind != 1) &&
  es.all (fun e => e.kind != 3) &&
  es.all (fun e => e.kind != 0 ||
    (decide (1 ≤ e.len) && decide (e.len ≤ 248) && utf8WellFormed (tokString pool e))) &&
  es.all (fun e => e.kind != 2 || decide (e.len ≤ 248)) &&
  es.all (fun e => decide (e.poolOff + e.len ≤ tokPoolLen t)) &&
  noDup ((es.filter (fun e => e.kind == 0)).map (tokString pool)) &&
  es.all (fun e => e.kind != 0 || (decide (-2147483647 ≤ e.score) && decide (e.score ≤ 0))) &&
  decide (-2147483647 ≤ tokByteScore t) && decide (tokByteScore t ≤ 0)

/-- P of R154: the longest string of the table (R167). -/
def tokLongest (t : List Byte) : Nat := (tokEntries t).foldl (fun m e => max m e.len) 0

/-- The stream reserve (R154). -/
def tokReserve (t : List Byte) : Nat := 8 + 8 * ceilDiv (tokLongest t) 8

/-- The text bytes of a token on output (R180). -/
def tokText (t : List Byte) (id : Nat) : List Byte :=
  match (tokEntries t)[id]? with
  | some e => tokString (tokPool t) e
  | none => []

/-- Byte tokens of a byte string (R176). -/
def byteTokens (t : List Byte) (bs : List Byte) : List Nat := bs.map (fun b => tokByteBase t + b.toNat)

/-! ## Units (R175) -/

/-- A unit: a well-formed character, or one invalid byte. -/
structure TokUnit where
  bytes : List Byte
  valid : Bool
  deriving DecidableEq, Repr

/-- Splits the input into units; `keep` says that an incomplete tail is carried (SES_APPEND). -/
def unitsAux (keep : Bool) : (fuel : Nat) → List Byte → List TokUnit × List Byte
  | 0, _ => ([], [])
  | f + 1, bs =>
    if bs.isEmpty then ([], [])
    else
      let n := charLen bs
      if 0 < n then
        let r := unitsAux keep f (bs.drop n)
        ({ bytes := bs.take n, valid := true } :: r.1, r.2)
      else if keep && properPrefix bs then ([], bs)
      else
        let r := unitsAux keep f (bs.drop 1)
        ({ bytes := bs.take 1, valid := false } :: r.1, r.2)

/-- The units of the input and the new carry. -/
def unitsOf (keep : Bool) (bs : List Byte) : List TokUnit × List Byte := unitsAux keep bs.length bs

/-! ## The lattice (R177, R178) -/

/-- A KIND 0 entry as the trie holds it (R172). -/
structure Piece where
  text : List Byte
  score : Int
  id : Nat
  deriving DecidableEq, Repr

def tokPieces (t : List Byte) : List Piece :=
  let pool := tokPool t
  (tokEntries t).zipIdx.filterMap (fun p =>
    if p.1.kind = 0 then some { text := tokString pool p.1, score := p.1.score, id := p.2 } else none)

/-- An edge that reaches a boundary `units` units further, with its score and token ids. -/
structure TokEdge where
  units : Nat
  score : Int
  ids : List Nat
  deriving DecidableEq, Repr

/-- Number of units that a run of `n` bytes covers, when it ends on a unit boundary. -/
def unitsCovered : List TokUnit → (n : Nat) → Option Nat
  | _, 0 => some 0
  | [], _ + 1 => none
  | u :: us, n + 1 =>
    if u.bytes.length ≤ n + 1 ∧ 0 < u.bytes.length then (unitsCovered us (n + 1 - u.bytes.length)).map (· + 1) else none

/-- The edges from the front boundary of the remaining units (R177). -/
def tokEdges (t : List Byte) (pieces : List Piece) (us : List TokUnit) : List TokEdge :=
  match us with
  | [] => []
  | u :: _ =>
    if !u.valid then [{ units := 1, score := tokByteScore t, ids := byteTokens t u.bytes }]
    else
      let run := ((us.takeWhile (fun v => v.valid)).map (fun v => v.bytes)).flatten
      let es := pieces.filterMap (fun p =>
        if p.text.isPrefixOf run then
          (unitsCovered us p.text.length).map (fun n => { units := n, score := p.score, ids := [p.id] })
        else none)
      if es.isEmpty then
        [{ units := 1, score := tokByteScore t * u.bytes.length, ids := byteTokens t u.bytes }]
      else es

/-- The best path into a boundary: its score and its tokens, newest first. -/
abbrev TokBest := Option (Int × List Nat)

/-- Offers a path to the boundary `n` places ahead; only a strictly greater score replaces (R178). -/
def tokRelax (n : Nat) (s : Int) (path : List Nat) (ahead : List TokBest) : List TokBest :=
  modIdx n (fun b => match b with
    | some (t, p) => if t < s then some (s, path) else some (t, p)
    | none => some (s, path)) ahead

/-- Relaxes boundaries in ascending order; `ahead` holds the boundaries from the present one on. -/
def tokSearch (t : List Byte) (pieces : List Piece) : List TokUnit → List TokBest → List Nat
  | [], ahead => match ahead.headD none with
    | some (_, p) => p.reverse
    | none => []
  | u :: us, ahead =>
    match ahead.headD none with
    | none => tokSearch t pieces us ahead.tail
    | some (s, p) =>
      tokSearch t pieces us
        ((tokEdges t pieces (u :: us)).foldl (fun a e => tokRelax e.units (s + e.score) (e.ids.reverse ++ p) a) ahead).tail

/-- The tokens of a list of units (R178). -/
def tokUnits (t : List Byte) (us : List TokUnit) : List Nat :=
  tokSearch t (tokPieces t) us (some (0, []) :: List.replicate us.length none)

/-! ## Conversions (Table 5.4) -/

/-- Text input: `keep` for SES_APPEND, which carries an incomplete tail; SES_RESUME carries nothing. -/
def convertText (t : List Byte) (keep : Bool) (carry text : List Byte) : Conv :=
  let u := unitsOf keep (carry ++ text)
  { tokens := tokUnits t u.1, byteTokens := (u.1.filter (fun v => !v.valid)).length, carry := u.2 }

/-- Token ids: the carried bytes are flushed ahead of them (R176). -/
def convertIds (t : List Byte) (carry : List Byte) (ids : List Nat) : Conv :=
  { tokens := byteTokens t carry ++ ids, byteTokens := carry.length, carry := [] }

/-- OPEN_SEQ (R181): one to three last text bytes of the command form a proper prefix. -/
def openSeq (text : List Byte) : Bool :=
  [1, 2, 3].any (fun j => decide (j ≤ text.length) && properPrefix (text.drop (text.length - j)))

end Sys2Proof.Machine
end

