-- ==== Sys2Proof/Machine/StepRun.lean ====
section
/-! DEFINITION. A step as its crew runs it: the tokens of each part, sampling and injection, stream records, charges, the
boundary events of Table 9.1, and what the step director measures (R274 to R292, R305 to R336, R444, R446). -/
namespace Sys2Proof.Machine
open Sys2Proof

/-! ## The tokens of a part -/

/-- The image and adapter that a session's tokens use. -/
def Rood.fwdOf (im : Image) (p : Params) (e : Entry) (x : Rood) : FwdModel :=
  { p := p, weights := im.weights, freqs := im.freqs.map (fun f => f.toNat)
    adapter := match lookKey e.adapterSlot x.obj.adapters with
      | some a => (match a.kind with
        | .adapter ap => if e.adapterSlot = 0xFFFF then none else some (ap, a.weights)
        | .placement _ _ => none)
      | none => none }

/-- One token through every layer: the rood, the hidden state and the context units of each layer. -/
structure TokRun where
  x : Rood
  hidden : List Nat
  units : List Nat

def Rood.runToken (m : FwdModel) (v : KvSes) (slot tok pos : Nat) (sampled : Bool) (x : Rood) : TokRun :=
  let r := m.pass v tok pos sampled x.kv
  let gen := (x.slot slot).gen
  { x := r.evs.foldl (fun y e => y.kvEvent slot gen pos e) { x with kv := r.kv }
    hidden := r.x, units := r.att.reverse.map ctxUnits }

/-- Sums by layer; an empty list is nothing. -/
def addUnits (a b : List Nat) : List Nat := if a.isEmpty then b else if b.isEmpty then a else a.zipWith (· + ·) b

/-- Runs `n` prefill positions of a sequence (R275). -/
def Rood.runPrefill (m : FwdModel) (v : KvSes) (q : Seq) (n : Nat) (x : Rood) : Rood × List Nat :=
  let r := ((q.toks.drop q.stored).take n).zipIdx.foldl (fun (r : Rood × List Nat) t =>
    let k := r.1.runToken m v q.slot t.1 (q.base + q.stored + t.2) false
    (k.x, addUnits r.2 k.units)) (x, [])
  (((r.1.setSeq { q with stored := q.stored + n }).count 6 n).mapTally
    (fun t => { t with positionsPrefilled := t.positionsPrefilled + n }), r.2)

/-! ## Committing a token (R105, R116, R154 to R156, R180, R334 to R336) -/

/-- A stream record (Table 4.9). -/
def streamRecord (tok ordinal : Nat) (opened forced flagged : Bool) (text : List Byte) : List Byte :=
  leBytes 4 (tok % 2 ^ 18 ||| 1 <<< 18 ||| bit opened <<< 19 ||| bit forced <<< 20 ||| bit flagged <<< 21 |||
      text.length <<< 24) ++
    leBytes 4 ordinal ++ text ++ zeros ((8 - text.length % 8) % 8)

/-- Bytes that the stop string search examines (R335). -/
def scanLen (strs : List (List Byte)) : (text bs : List Byte) → Nat
  | _, [] => 0
  | text, b :: bs => if 0 < longestStop strs (text ++ [b]) then 1 else 1 + scanLen strs (text ++ [b]) bs

/-- How a token came to a position: injected, drawn or greedy. -/
structure Choice where
  tok : Nat
  forced : Bool
  drew : Bool

/-- The yield reason that a committed token gives, 0 for none (R116, Table 3.5). -/
def yieldOf (g : Gen) (e : Entry) (c : Choice) (stop : Option Nat) (reserve : Nat) : Nat :=
  if stop.isSome then yStopString
  else if !c.forced && g.stopToks.contains c.tok then yStopToken
  else if g.maxNew ≠ 0 ∧ e.genCount = g.maxNew then yMaxTokens
  else if g.streamLen - g.used < reserve then yStreamFull
  else if e.contextLimit ≤ e.length then yContextLimit
  else 0

/-- The session's entry after a token is committed. -/
def Entry.commit (c : Choice) (n : Nat) (e : Entry) : Entry :=
  { e with
    length := e.length + 1, genCount := e.genCount + 1, pendingToken := c.tok
    rng := if c.drew then e.rng + 1 else e.rng, streamBytes := e.streamBytes + n }

/-- Writes the stream record of a token and counts it; a record that does not translate is not written, and its fault is
logged (R148). -/
def Rood.writeStream (now : W64) (c : Cmd) (addr : Nat) (bs : List Byte) (fault : Bool) (x : Rood) : Rood :=
  if fault then
    ({ x with regs := { x.regs with addrFault := true } }).logOwn
      { LogEntry.plain now 0x06 c.opcode c.handle with rood := x.num }
  else ((x.hostWrite addr bs).count 2 bs.length).mapTally (fun t => { t with streamBytes := t.streamBytes + bs.length })

/-- Commits a token of a sequence whose generating part is `g` (R105). -/
def Rood.commitToken (now : W64) (q : Seq) (g : Gen) (e : Entry) (c : Cmd) (ch : Choice) (flagged fault : Bool)
    (x : Rood) : Rood :=
  let table := x.tableOf c
  let text := tokText table ch.tok
  let rec' := streamRecord ch.tok (e.genCount + 1) (openSeq (g.text ++ text)) ch.forced flagged text
  let n := if fault then 0 else rec'.length
  let stop := scanStops g.stopStrs g.text text
  let e' := e.commit ch n
  let g' := { g with history := g.history ++ [ch.tok], text := g.text ++ text, used := g.used + n }
  let x := (x.setEntry q.slot e').setSeq
    { q with gen := some g', yield := yieldOf g' e' ch stop (tokReserve table), stopOff := stop, dropped := q.dropped || fault }
  let x := (x.writeStream now c (g.streamAddr + g.used) rec' fault).count 5 1
  let x := x.mapTally (fun t => { t with tokensGenerated := t.tokensGenerated + 1 })
  if g.stopStrs.isEmpty then x
  else x.countAssigned q.slot e.length 2 (scanLen g.stopStrs g.text text)

/-! ## The decode position (R307, R325 to R328, R331) -/

/-- The logits that masking leaves, as the selection engine is offered them. -/
def offeredLogits (ban z : List Nat) : List SelEntry := (z.zipIdx.map (fun p => (p.2, p.1))).filter (fun p => !ban.contains p.1)

/-- Sampling fields of a sequence with its session's generator. -/
def Gen.sampling (g : Gen) (e : Entry) : Sampling :=
  { temperature := g.temperature.toNat, topK := g.topK, topP := g.topP.toNat, minP := g.minP.toNat, seed := e.seed
    counter := e.rng.toNat }

/-- A sampled position: the token, none on a deadlock, with what it counts. -/
def Rood.sampleAt (m : FwdModel) (q : Seq) (g : Gen) (e : Entry) (hidden : List Nat) (x : Rood) : Rood × Option Choice :=
  let z := m.logits hidden
  let ban := ((masked (x.listOf q) g).eraseDups).filter (fun i => decide (i < z.length))
  let s := sample (g.sampling e) (offeredLogits ban z)
  ((x.countAssigned q.slot e.length 3 ban.length).countSel q.slot e.length s.sel, s.token.map (fun t => { tok := t, forced := false, drew := s.drew }))

/-- Runs the decode position of a sequence in decode phase: key/value data of the pending token, then an injected or sampled
token. -/
def Rood.runDecode (now : W64) (m : FwdModel) (v : KvSes) (q : Seq) (flagged fault : Bool) (x : Rood) : Rood × List Nat :=
  match x.entry? q.slot, q.gen, x.cmd? q.cmd with
  | some e, some g, some c =>
    let d := decideToken (x.listOf q) g
    match d.1 with
    | some t =>
      let r := x.runToken m v q.slot e.pendingToken (e.length - 1) false
      let over' := bit ((masked (r.x.listOf q) g).contains t)
      (((r.x.countAssigned q.slot e.length 5 1).countAssigned q.slot e.length 4 over').commitToken now q d.2 e c
        { tok := t, forced := true, drew := false } flagged fault, r.units)
    | none =>
      let r := x.runToken m v q.slot e.pendingToken (e.length - 1) true
      let s := r.x.sampleAt m q g e r.hidden
      match s.2 with
      | some ch => (s.1.commitToken now q d.2 e c ch flagged fault, r.units)
      | none => ((s.1.dropKv q.slot (e.length - 1) e.length).setSeq { q with yield := yDeadlock }, r.units)
  | _, _, _ => (x, [])

/-! ## One part (R279, R446, R460) -/

/-- Prefill positions of a part. -/
def Part.prefill (p : Part) : Nat := p.count - bit p.decode

/-- The append part of a generating command takes effect when its prefill ends; at CONTEXT_LIMIT it yields (R106). -/
def Rood.endAppendPart (cmd : Nat) (x : Rood) : Rood :=
  match x.seq? cmd with
  | some q =>
    if q.gen.isSome && q.prefillLeft == 0 && !q.appendDone then
      let x := x.applyAppend q
      match x.entry? q.slot, x.seq? cmd with
      | some e, some q => if e.contextLimit ≤ e.length then x.setSeq { q with yield := yContextLimit } else x
      | _, _ => x
    else x
  | none => x

/-- Runs one part in full: the rood and the context units of its tokens by layer. -/
def Rood.runPart (now : W64) (im : Image) (p : Params) (pt : Part) (flagged fault : Bool) (x : Rood) : Rood × List Nat :=
  match x.seq? pt.cmd, x.entry? pt.slot with
  | some q, some e =>
    let m := x.fwdOf im p e
    let v : KvSes := { pos := pt.slot % x.width, g := e.geom, table := e.dirRoot.toNat, stored := pt.first + pt.count }
    let r := if pt.prefill = 0 then (x, []) else x.runPrefill m v q pt.prefill
    let x := r.1.endAppendPart pt.cmd
    if pt.decode then
      match x.seq? pt.cmd with
      | some q => let d := x.runDecode now m v q flagged fault; (d.1, addUnits r.2 d.2)
      | none => (x, r.2)
    else (x, r.2)
  | _, _ => (x, [])

/-- A touched sequence whose token was not chosen commits nothing: what its part wrote is discarded (R460). -/
def Rood.voidPart (pt : Part) (x : Rood) : Rood :=
  match x.seq? pt.cmd, x.entry? pt.slot with
  | some q, some e => x.dropKv pt.slot (q.storedNow e) (pt.first + pt.count)
  | _, _ => x

/-- Milligrains of one price entry for a sequence's own tokens, with the units of each layer (R446). -/
def ownMg (tokens sampled : Nat) (units : List Nat) (e : PriceEntry) : Nat :=
  if e.layer = 0xFE then e.tokenMg * tokens
  else if e.layer = 0xFF then e.tokenMg * sampled
  else e.tokenMg * tokens + e.ctxMg * units.getD e.layer 0

/-- What a sequence of a step of `n` sequences is charged, in grains (R446). -/
def stepCharge (pl : Placement) (samples : Bool) (n : Nat) (pt : Part) (units : List Nat) : Nat :=
  let step := (pl.prices.map (fun e => if e.layer = 0xFF ∧ !samples then 0 else e.stepMg)).sum
  (step / max n 1 + (pl.prices.map (ownMg pt.count (bit pt.samples) units)).sum + 999) / 1000

/-- Runs or voids one part of a step and charges its session. -/
def Rood.stepPart (now : W64) (im : Image) (p : Params) (pl : Placement) (s : Step) (e : StepEnv) (pt : Part) (x : Rood) :
    Rood :=
  let touched := (x.seq? pt.cmd).any (fun q => q.touched)
  let bound := List.replicate p.layers (partCtx (x.geomOf pt.slot) pt)
  let r := if touched && !e.chosen.contains pt.slot then (x.voidPart pt, bound)
    else
      let r := x.runPart now im p pt (touched && !e.visible.contains pt.slot) (e.streamFault.contains pt.slot)
      (r.1, if r.2.isEmpty then bound else r.2)
  let grains := stepCharge pl (s.parts.any Part.samples) s.parts.length pt r.2
  r.1.modEntry pt.slot (fun en => { en with grains := en.grains + grains })

/-! ## Boundary events (Table 9.1) -/

/-- The status of a yield (Table 3.5). -/
def yieldStatus (y : Nat) : Nat :=
  if y = yContextLimit then stContextLimit
  else if y = yCancel then stCancelled
  else if y = yDeadlock then stDeadlock
  else if y = yNoPecks then stNoPecks
  else stYield

def Rood.flagCmd (id : Nat) (x : Rood) : Rood :=
  { x with cmds := x.cmds.map (fun c => if c.id == id then { c with flagged := true } else c) }

/-- The session becomes SUSPECT, once (R126, R461). -/
def Rood.suspect (now : W64) (slot : Nat) (x : Rood) : Rood :=
  match x.entry? slot with
  | some e => if e.state = SesState.suspect then x
    else ((x.setState now slot .suspect 0).modEntry slot (fun e => { e with bushel := 0 })).count 14 1
  | none => x

/-- Ends a sequence at its boundary; one that an event has touched leaves its session SUSPECT (R461). -/
def Rood.endAt (now : W64) (q : Seq) (status yield : Nat) (nothing : Bool) (x : Rood) : Rood :=
  let alloc := x.allocOf q
  let x := if q.touched then x.flagCmd q.cmd else x
  let x := (x.endSeq now q alloc status yield).endCancel now q nothing
  if q.touched then x.suspect now q.slot else x

/-- A touched sequence: its session is SUSPECT and its command completes with ST_SUSPECT (order 4). -/
def Rood.endTouched (now : W64) (q : Seq) (x : Rood) : Rood :=
  (((x.flagCmd q.cmd).suspect now q.slot).endSeq now q (x.allocOf q) stSuspect 0).endCancel now q true

/-- Orders 1 to 5 of Table 9.1 for one sequence (R291). -/
def Rood.boundary (now : W64) (cmd : Nat) (x : Rood) : Rood :=
  match x.seq? cmd with
  | none => x
  | some q =>
    if q.yield ≠ 0 then x.endAt now q (yieldStatus q.yield) q.yield true
    else if q.cancel.isSome then x.endAt now q stCancelled yCancel false
    else if q.dropped then x.endAt now q stCancelled yCancel false
    else if q.touched then x.endTouched now q
    else if q.gen.isNone && q.prefillLeft == 0 then
      let x := x.applyAppend q
      x.endAt now { q with appendDone := true } stOk 0 false
    else x

def Rood.boundaries (now : W64) (s : Step) (x : Rood) : Rood := s.parts.foldl (fun x p => x.boundary now p.cmd) x

/-! ## What the step director measures (R287, R444) -/

/-- κ after a step of `t` ns (R444). -/
def kappaNext (k t : Nat) (seed : Quot') : Nat :=
  let num := 15 * k * seed.n + 256 * t * seed.d
  let den := 16 * seed.n
  if den = 0 then k else min 1024 (max 128 ((2 * num + den) / (2 * den)))

/-- κ of the duty that the step had. -/
def Rood.learn (k : Crew) (s : Step) (p : Params) (pl : Placement) (e : StepEnv) (x : Rood) : Rood :=
  if s.energyBound then x
  else
    let sp : Quot' := if e.sNum = 0 ∨ e.sDen = 0 then qNat 1 else { n := e.sNum, d := e.sDen }
    let seed := x.seedTime sp p pl s.parts
    x.setCrew (if s.prefillDuty then { k with kappaP := kappaNext k.kappaP e.time seed }
      else { k with kappaD := kappaNext k.kappaD e.time seed })

/-- A breach of the limit in force at composition (R287, R520). -/
def breach (limits : List Nat) (cls : Nat) (from' now : W64) : Bool :=
  let l := limits.getD cls 0
  decide (0 < l) && decide (from'.toNat + 1000 * l < now.toNat)

/-- The step latency of one sequence of a step: its breach, and where the next one is measured from: the end of a step that committed a
token, or of the last prefill step where that step did not sample. -/
def Rood.latency (now : W64) (s : Step) (before : List (Nat × Nat)) (pt : Part) (x : Rood) : Rood :=
  match x.seq? pt.cmd with
  | none => x
  | some q =>
    let hist := match q.gen with
      | some g => g.history.length
      | none => 0
    let committed := decide (((before.find? (fun b => b.1 == pt.cmd)).map (fun b => b.2)).getD 0 < hist)
    let x := if committed && breach s.limits q.cls q.lastEnd now && decide (q.cls < 2) then x.countSlice 0 (14 + q.cls) 1 else x
    if committed || q.decodePhase then x.setSeq { q with lastEnd := now } else x

/-- Tokens that each sequence has committed in its command. -/
def Rood.histories (x : Rood) : List (Nat × Nat) :=
  x.seqs.map (fun q => (q.cmd, match q.gen with
    | some g => g.history.length
    | none => 0))

/-! ## The end of a step (R290) -/

/-- Counts the step on its tiles and at position 0. -/
def Rood.countStep (s : Step) (sgs : List Nat) (x : Rood) : Rood :=
  ((sgTiles sgs).foldl (fun x t => x.ask (.count ⟨.tile, t, 0⟩ 1)) x).countSlice 0 (if s.prefillDuty then 13 else 12) 1

/-- The crew is at its boundary. -/
def Rood.freeCrew (now : W64) (m k : Nat) (held : Option Step) (x : Rood) : Rood :=
  { x with crews := x.crews.map (fun c =>
      if c.model == m && c.idx == k then { c with step := none, lastEnd := now, held := held } else c) }

/-- The step of crew `k` of the image in slot `m` ends: tokens, charges, counters, then its boundary events, which wait
while the stack group at position 0 is under reset, but for those of sequences that an event has touched (R545). -/
def Rood.endStep (ctx : Ctx) (m k : Nat) (e : StepEnv) (x : Rood) : Rood :=
  match x.crew? m k, x.placed m with
  | some c, some (im, p, pl) =>
    match c.step with
    | none => x
    | some s =>
      let before := x.histories
      let x := x.closeWindows (x.crewSegments m im p pl k s.parts)
      let x := (x.learn c s p pl e).countStep s (x.crewSgs pl.width k)
      let x := s.parts.foldl (fun x pt => x.stepPart ctx.time im p pl s e pt) x
      let x := s.parts.foldl (fun x pt => x.latency ctx.time s before pt) x
      let hold := fun (pt : Part) => x.posDown ctx 0 && !(x.seq? pt.cmd).any (fun q => q.touched)
      let waits := s.parts.filter hold
      let x := x.freeCrew ctx.time m k (if waits.isEmpty then none else some { s with parts := waits, ending := none })
      let x := { x with ckp := { x.ckp with steps := x.ckp.steps + 1 } }
      x.boundaries ctx.time { s with parts := s.parts.filter (fun pt => !hold pt) }
  | _, _ => x

/-- Marks the step that is ending, for a fence that falls into its end. -/
def Rood.markEnding (m k : Nat) (e : StepEnv) (x : Rood) : Rood :=
  { x with crews := x.crews.map (fun c =>
      if c.model == m && c.idx == k then { c with step := c.step.map (fun s => { s with ending := some e }) } else c) }

/-- A sequence is marked as touched. -/
def Rood.markTouched (cmd : Nat) (x : Rood) : Rood :=
  match x.seq? cmd with
  | some q => (x.flagCmd cmd).setSeq { q with touched := true }
  | none => x

/-- A fence meets a step that is ending: each of its sequences is touched, and a token that has been chosen is kept; the fence then
ends the commands (R460, R470). -/
def Rood.finishTouched (now : W64) (c : Crew) (x : Rood) : Rood :=
  match c.step, x.placed c.model with
  | some s, some (im, p, pl) =>
    (match s.ending with
     | some e =>
       let x := s.parts.foldl (fun x pt => x.markTouched pt.cmd) x
       s.parts.foldl (fun x pt => x.stepPart now im p pl s e pt) x
     | none => x)
  | _, _ => x

/-- The walker failures of a step: a frame pointer of a session that fails its check is an event of class 0x06 of the walker of the
session's home stack, and it is never used (R259). -/
def Rood.walkHits (m k : Nat) (x : Rood) : List Hit :=
  ((x.crew? m k).bind (fun c => c.step)).toList.flatMap (fun s => s.parts.filterMap (fun p =>
    (x.entry? p.slot).bind (fun e =>
      (x.kv.badLayer x.width (p.slot % x.width) e.geom e.dirRoot.toNat (p.first + p.count)).map (fun l =>
        { cls := 0x06, unit := .slice (x.firstSg + p.slot % x.width) 3, layer := l, obj := none, corrected := false }))))

/-- The crew's held boundary is taken up. -/
def Rood.unhold (k : Crew) (x : Rood) : Rood :=
  { x with crews := x.crews.map (fun d => if d.model == k.model && d.idx == k.idx then { d with held := none } else d) }

/-- Boundary events that R545 held back take effect when the reset has ended. -/
def Rood.releaseHeldSteps (now : W64) (x : Rood) : Rood :=
  x.crews.foldl (fun x c => match c.held with
    | some s => (x.unhold c).boundaries now s
    | none => x) x

end Sys2Proof.Machine
end

