-- ==== Sys2Proof/Machine/Moves.lean ====
section
/-! DEFINITION. Moves of a session as the sending side sees them: parking, revival and migration, and what ends each of them
(R107, R108, R111, R113, R118, R119, R379, R395, R399). -/
namespace Sys2Proof.Machine
open Sys2Proof

def Rood.move? (slot : Nat) (x : Rood) : Option Move := x.moves.find? (fun m => m.slot == slot)

def Rood.setMove (m : Move) (x : Rood) : Rood := { x with moves := x.moves.map (fun n => if n.slot == m.slot then m else n) }

def Rood.dropMove (slot : Nat) (x : Rood) : Rood := { x with moves := x.moves.filter (fun m => m.slot != slot) }

def Rood.hold? (cmd : Nat) (x : Rood) : Option Hold := x.holds.find? (fun h => h.cmd == cmd)

def Rood.dropHold (cmd : Nat) (x : Rood) : Rood := { x with holds := x.holds.filter (fun h => h.cmd != cmd) }

/-- A plain move of a kind. -/
def Move.plain (slot kind cmd : Nat) (former : SesState) : Move :=
  { slot := slot, kind := kind, cmd := cmd, former := former, bushel := [], resFrames := 0, resLines := 0, op := 0
    peer := 32, peerRood := 0, accepted := false, durable := false, obj := 0, mirrorDone := false, cancel := none }

/-- BUSHEL of a session's entry (Table 3.1). -/
def Rood.setBushel (slot id : Nat) (x : Rood) : Rood := x.modEntry slot (fun e => { e with bushel := id })

/-- The session becomes MOVING with the move's kind; BUSHEL is 0 meanwhile, and the move keeps the locator (Table 3.1). -/
def Rood.beginMove (now : W64) (m : Move) (x : Rood) : Rood :=
  (({ x with moves := x.moves ++ [m] } : Rood).setState now m.slot .moving m.kind).setBushel m.slot 0

/-- The move ends and the session takes a state; one that is PARKED again has its bushel again. -/
def Rood.endMove (now : W64) (m : Move) (st : SesState) (x : Rood) : Rood :=
  ((x.dropMove m.slot).setState now m.slot st 0).setBushel m.slot (if st = .parked then m.obj else 0)

/-- Completes the command of a move, if it still stands. -/
def Rood.completeMove (now : W64) (m : Move) (status : Nat) (result : List Nat) (x : Rood) : Rood :=
  match x.cmd? m.cmd with
  | some c => x.complete now c { c.record status with result := result }
  | none => x

/-! ## What a command that never ran reports (Table 4.8) -/

/-- RESULT of a session command that ends without effect, for the statuses that write it. -/
def idleResult (op length : Nat) : List Nat :=
  if op = 0x02 then [0, 0, length, 0]
  else if op = 0x03 ∨ op = 0x04 then [0, 0xFFFFFFFF, length, 0]
  else [0, 0, 0, 0]

/-- Ends a command that waited for a revival, a conversion or both: its reservation and a fork's slot are returned (R119,
R120). -/
def Rood.endWaiting (now : W64) (c : Cmd) (status yield : Nat) (x : Rood) : Rood :=
  let x := match x.hold? c.id with
    | some h => let x := x.dropHold c.id; if c.opcode = 0x05 then x.untakeSlot h.slot else x
    | none => x
  let len := ((x.entry? (handleSlot c.handle)).map (fun e => e.length)).getD 0
  x.complete now c { c.record status with yield := yield, result := idleResult c.opcode len }

/-! ## Parking (R107, R377, R399) -/

/-- Mirroring is enabled for SES_PARK (Table 13.13). -/
def Rood.mirrors (ctx : Ctx) (x : Rood) : Bool :=
  let v := x.regs.mirror.toNat
  bitAt v 31 && bitsOf v 0 5 != ctx.dev.number

/-- OFFER: the bushel header, then 0 for a migration or 1 for a mirror (Table 13.9). -/
def offerPayload (header : List Byte) (mirror : Bool) : List Byte := header ++ leBytes 4 (bit mirror)

/-- SES_PARK of a RESIDENT session with a token. A mirrored one with no route to the buddy ends as at the end of an epoch (R390,
R399). -/
def Rood.beginPark (ctx : Ctx) (c : Cmd) (slot : Nat) (e : Entry) (x : Rood) : Rood :=
  let b := x.bushelOf slot e
  let m := { Move.plain slot 1 c.id .resident with bushel := b }
  let y := x.setCmd { c with stage := .running }
  if x.mirrors ctx then
    let v := x.regs.mirror.toNat
    let o := y.newOp ctx
    if !ctx.dev.reaches (bitsOf v 0 5) then x.fail ctx.time c stPeer
    else (o.2.beginMove ctx.time { m with op := o.1, peer := bitsOf v 0 5, peerRood := bitsOf v 8 4 }).sendChain (bitsOf v 0 5)
      0x01 (bitsOf v 8 4) o.1 (offerPayload (b.take 512) true)
  else y.beginMove ctx.time m

/-- The mirror of a parking, if it has one, is an operation on the chain. -/
def Move.mirrored (m : Move) : Bool := m.kind == 1 && m.peer != 32

/-- Parking has done all it must: the session is PARKED and its frames lose their references. -/
def Rood.finishPark (now : W64) (m : Move) (x : Rood) : Rood :=
  match x.entry? m.slot with
  | none => x.dropMove m.slot
  | some e =>
    (((x.freeKv m.slot e).endMove now m .parked).modEntry m.slot (fun e => { e with
      dirRoot := 0, pecks := 0 })).completeMove now m stOk [0, 0, 0, 0]

/-- Parking ends without its bushel: extents already written are freed, and the session keeps its pecks (R107, R379). -/
def Rood.failPark (now : W64) (m : Move) (status : Nat) (st : SesState) (x : Rood) : Rood :=
  let x := if m.durable then x.freeObject m.obj else x
  (x.endMove now m st).completeMove now m status [0, 0, 0, 0]

/-- Sends ABORT for the operation of a move (R395). -/
def Rood.sendAbort (m : Move) (x : Rood) : Rood := x.sendChain m.peer 0x07 m.peerRood m.op []

/-- The local bushel of a parking is written, or fails. -/
def Rood.bushelWritten (ctx : Ctx) (m : Move) (mediaOk : Bool) (x : Rood) : Rood :=
  let fail := fun (x : Rood) => (if m.mirrored then x.sendAbort m else x).failPark ctx.time m stMedia .resident
  if !mediaOk then fail x
  else
    match x.writeObject ctx (.bushel m.slot) m.bushel with
    | none => fail x
    | some y =>
      let m := { m with durable := true, obj := x.nextObj }
      let y := (y.setMove m).countCopied (((x.entry? m.slot).map (fun e => x.frameKeys m.slot e)).getD [])
      if m.mirrored && !m.mirrorDone then y else y.finishPark ctx.time m

/-! ## Revival (R108, R118, R119, R377) -/

/-- Frames and lines of a PARKED session's revival (Table 15.5). -/
def Entry.revivalNeeds (e : Entry) : Nat × Nat := (e.geom.frames e.stored, e.geom.lines e.stored)

/-- The session becomes MOVING for its revival, with its frames and lines reserved. -/
def Rood.beginRevival (now : W64) (c : Cmd) (kind slot : Nat) (e : Entry) (x : Rood) : Rood :=
  let n := e.revivalNeeds
  x.beginMove now { Move.plain slot kind c.id .parked with resFrames := n.1, resLines := n.2, obj := e.bushel }

/-- The bushel `id` in fresh frames of its slot, the object freed; none on a media error. -/
def Rood.revive (ctx : Ctx) (slot id : Nat) (e : Entry) (x : Rood) : Rood × Bool :=
  let r := x.readObject ctx id
  match r.2 with
  | none => (r.1, false)
  | some b =>
    let p := bushelParts b
    if !bushelOk p.1 p.2.1 p.2.2 then (r.1, false)
    else
      match r.1.kv.install x.width slot e.geom e.stored p.2.2 with
      | none => (r.1, false)
      | some (t, k) =>
        let y := ({ r.1 with kv := k } : Rood).freeObject id
        let y := y.modEntry slot (fun e => { e with
          dirRoot := BitVec.ofNat 32 t, pecks := e.geom.peckCount e.stored })
        (y.countCopied (((y.entry? slot).map (fun e => y.frameKeys slot e)).getD []), true)

/-! ## Migration, sending side (R392, R394, R395) -/

/-- The header of a PARKED session's bushel for a migration: ENTRY as it stands when the move begins (log entry 28). -/
def parkedHeader (gen : Nat) (e : Entry) (h : List Byte) : List Byte :=
  let e' := { e with state := .resident, moveKind := 0, dirRoot := 0, bushel := 0 }
  let body := h.take 32 ++ e'.bytes gen ++ cut 160 348 h
  body ++ leBytes 4 (crc32c body).toNat

/-- SES_MIGRATE of a RESIDENT or PARKED session with a port towards the peer up. A PARKED session whose bushel cannot be read stays
PARKED and the command ends with ST_MEDIA, as a revival does: R111 names no such end (DESIGN CHOICE, log entry 73). -/
def Rood.beginMigrate (ctx : Ctx) (c : Cmd) (slot : Nat) (e : Entry) (x : Rood) : Rood :=
  let peer := c.f 16 0 5
  let pr := c.f 16 8 4
  let parked := e.state = SesState.parked
  let r := if parked then x.readObject ctx e.bushel else (x, some (x.bushelOf slot e))
  match r.2 with
  | none => r.1.fail ctx.time c stMedia
  | some b =>
    let h := if parked then parkedHeader (x.slot slot).gen e (b.take 512) else b.take 512
    let o := (r.1.setCmd { c with stage := .running }).newOp ctx
    (o.2.beginMove ctx.time { Move.plain slot (if parked then 5 else 4) c.id e.state with
      bushel := h ++ b.drop 512, op := o.1, peer := peer, peerRood := pr, obj := e.bushel }).sendChain peer 0x01 pr o.1 (offerPayload h false)

/-- After ACCEPT: LIST messages, then one FRAME message for each frame (R394). Frames that come from flash are counted by the home
mover (log entry 22). -/
def Rood.sendBushel (m : Move) (x : Rood) : Rood :=
  let p := bushelParts m.bushel
  let x := (chunks 65536 p.2.1).foldl (fun x c => x.sendChain m.peer 0x04 m.peerRood m.op c) x
  let x := p.2.2.zipIdx.foldl (fun x f => x.sendChain m.peer 0x05 m.peerRood m.op (leBytes 4 f.2 ++ zeros 4 ++ f.1)) x
  if m.kind = 5 then x.countSlice (m.slot % x.width) 23 p.2.2.length
  else x.countCopied (((x.entry? m.slot).map (fun e => x.frameKeys m.slot e)).getD [])

/-- DONE: the local slot becomes FREE and the command reports the peer's handle (R111, R395). -/
def Rood.finishMigrate (now : W64) (m : Move) (handle : Nat) (x : Rood) : Rood :=
  match x.entry? m.slot with
  | none => x.dropMove m.slot
  | some e =>
    let x := if m.kind = 5 then x.freeObject m.obj else x.freeKv m.slot e
    (((x.labDrop m.slot).dropMove m.slot).freeSlot m.slot).completeMove now m stOk [handle, 0, 0, 0]

/-- A migration or a mirrored parking ends without DONE (R395, R399). -/
def Rood.failMove (now : W64) (m : Move) (status : Nat) (st : SesState) (abort : Bool) (x : Rood) : Rood :=
  let x := if abort then x.sendAbort m else x
  if m.kind = 1 then x.failPark now m status st
  else (x.endMove now m st).completeMove now m status [0, 0, 0, 0]

/-! ## A move that something else ends -/

/-- The session state to which a move returns. -/
def Move.back (m : Move) : SesState := if m.kind = 1 ∨ m.kind = 4 then .resident else .parked

/-- Ends whatever waits on an implicit revival with a status. A cancelled append, generation or resumption has the yield reason CANCEL
in its record, a fork none, and LAST_YIELD stays: R113 gives ST_CANCELLED alone (DESIGN CHOICE, log entry 74). -/
def Rood.endRevivalCmd (now : W64) (m : Move) (status : Nat) (x : Rood) : Rood :=
  let x := match x.cmd? m.cmd with
    | some c => if m.kind = 2 then x.fail now c status else x.endWaiting now c status (if status = stCancelled ∧ c.opcode ≠ 0x05 then yCancel else 0)
    | none => x
  match m.cancel with
  | some id => (match x.cmd? id with
    | some c => x.complete now c { c.record stOk with nothingDone := status != stCancelled }
    | none => x)
  | none => x

/-- A revival stops: the session keeps its bushel (R379). -/
def Rood.failRevival (now : W64) (m : Move) (status : Nat) (st : SesState) (x : Rood) : Rood :=
  (x.endMove now m st).endRevivalCmd now m status

/-- Stops a move with a status, leaving the session in `st`: the sender's side of R126, R379, R395 and Table 16.4. -/
def Rood.stopMove (now : W64) (m : Move) (status : Nat) (st : SesState) (x : Rood) : Rood :=
  if m.kind = 2 ∨ m.kind = 3 then x.failRevival now m status st
  else x.failMove now m status st (m.mirrored || decide (4 ≤ m.kind))

end Sys2Proof.Machine
end

