-- ==== Sys2Proof/Machine/SesCheck.lean ====
section
/-! DEFINITION. The checks of session commands in the order of Table 3.3 (R96, R98, R142 to R147, R305, R332, R333). -/
namespace Sys2Proof.Machine
open Sys2Proof

/-! ## Table 3.4 -/

/-- A cell of Table 3.4: A, A*, N, S or B. -/
inductive Cell where
  | act | revive | nothing | suspect | badState
  deriving DecidableEq, Repr

/-- Outcome of an opcode in a state, for a session of a given LENGTH (R98). -/
def cellOf (op length : Nat) : SesState → Cell
  | .resident =>
    if (op = 0x03 ∨ op = 0x05) ∧ length = 0 then .badState
    else if op = 0x06 ∧ length = 0 then .nothing
    else if op = 0x07 ∨ op = 0x0B then .nothing
    else .act
  | .queued => if op = 0x09 ∨ op = 0x0B then .act else .badState
  | .running => if op = 0x09 ∨ op = 0x0B then .act else .badState
  | .parked =>
    if op = 0x02 ∨ op = 0x03 ∨ op = 0x04 ∨ op = 0x05 then .revive
    else if op = 0x06 ∨ op = 0x0B then .nothing
    else .act
  | .moving => if op = 0x09 ∨ op = 0x0B then .act else .badState
  | .suspect => if op = 0x08 ∨ op = 0x09 then .act else if op = 0x0B then .nothing else .suspect

/-! ## Objects that a session is bound to (check 8) -/

/-- The bound image, when its LOAD_SEQ is still the session's (R96, R125). -/
def Rood.boundImage (e : Entry) (x : Rood) : Option (Image × Params × Placement) :=
  (x.placed e.modelSlot).filter (fun q => q.1.loadSeq == e.modelSeq)

/-- The base pairing of a target of Table 7.9. -/
def targetPair (p : Params) (t : Nat) : Nat := if t < 4 then p.pairAttn else p.pairMlp

/-- The adapter agrees with the image's geometry (R212) and with the base pairing of each target (R234). -/
def adapterFits (p : Params) (a : AdapterParams) : Bool :=
  (adapterTargets a).all (fun t => a.fmt == (if targetPair p t = 4 then 1 else 0)) &&
  a.hidden == p.hidden && a.layers == p.layers && a.qHeads == p.qHeads && a.kvHeads == p.kvHeads && a.headDim == p.headDim &&
    a.mlpWidth == p.mlpWidth

/-- The adapter slot holds an adapter that fits, or none is named. -/
def Rood.adapterOk (p : Params) (slot : Nat) (x : Rood) : Bool :=
  slot == 0xFFFF ||
    (match lookKey slot x.obj.adapters with
     | some a => (match a.kind with
       | .adapter ap => adapterFits p ap
       | .placement _ _ => false)
     | none => false)

/-- The list set is loaded and holds no id at or beyond V, or none is named (R323). -/
def Rood.listOk (v set : Nat) (x : Rood) : Bool :=
  set == 0xFF ||
    (match x.listNow set with
     | some s => s.pool.all (fun i => decide (i < v))
     | none => false)

/-- The tokenizer table in force. -/
def Rood.tableNow (x : Rood) : Option TokTable := x.obj.tables.head?

/-- The table in force for a session of vocabulary `v` (R170). -/
def Rood.tableFor (v : Nat) (x : Rood) : Option TokTable := x.tableNow.filter (fun t => tokVocab t.bytes == v)

/-! ## Descriptor fields of session commands (Table 4.6) -/

def Cmd.isText (c : Cmd) : Bool := (c.opcode == 0x02 || c.opcode == 0x04) && c.f 2 0 1 == 0
def Cmd.inputLen (c : Cmd) : Nat := c.f 52 0 32
def Cmd.inputAddr (c : Cmd) : Nat := c.f 56 0 64
def Cmd.stopsLen (c : Cmd) : Nat := c.f 48 0 16
def Cmd.stopsAddr (c : Cmd) : Nat := c.f 40 0 64
def Cmd.streamLen (c : Cmd) : Nat := c.f 20 0 32
def Cmd.streamAddr (c : Cmd) : Nat := c.f 24 0 64
def Cmd.hasInput (c : Cmd) : Bool := c.opcode == 0x02 || c.opcode == 0x04
def Cmd.generates (c : Cmd) : Bool := c.opcode == 0x03 || c.opcode == 0x04

/-- A host range ends within 2^64 (R145). -/
def hostSpan (addr len : Nat) : Bool := decide (addr + len ≤ 2 ^ 64)

/-- The translation of a buffer at check 2; a range beyond 2^64, or an empty one, is not translated (R147). -/
def xlatOk (r : HostRead) (addr len : Nat) : Bool := len == 0 || !hostSpan addr len || r != .fault

def readBytes : HostRead → List Byte
  | .ok b => b
  | .fault => []
  | .poison => []

/-- The stop block can be read: its length and range are legal. -/
def Cmd.stopsReadable (c : Cmd) : Bool :=
  c.generates && decide (1 ≤ c.stopsLen) && decide (c.stopsLen ≤ 4096) && hostSpan c.stopsAddr c.stopsLen &&
    c.stopsAddr % 4 == 0

/-- The token ids can be read: token-id input of a legal length. -/
def Cmd.idsReadable (c : Cmd) : Bool :=
  c.hasInput && !c.isText && decide (c.inputLen ≤ 67108864) && c.inputLen % 4 == 0 && hostSpan c.inputAddr c.inputLen

def Cmd.stopBytes (b : HostBufs) (c : Cmd) : List Byte := padTo c.stopsLen (readBytes b.stops)

def Cmd.ids (b : HostBufs) (c : Cmd) : List Nat := (chunks 4 (padTo c.inputLen (readBytes b.input))).map leVal

/-! ## Checks 2 to 4 -/

/-- Check 2 over the descriptor's fields and the translation of its buffers (R20, R99, R144, R147, R305, R332, R392). -/
def Cmd.fieldsOk (ctx : Ctx) (b : HostBufs) (c : Cmd) : Bool :=
  let sampling := temperatureOk (c.f 32 0 16) && topKOk (c.f 32 16 16) && probabilityOk (c.f 36 0 16) &&
    probabilityOk (c.f 36 16 16)
  c.wellFormed &&
    (c.opcode != 0x01 || c.f 16 10 2 != 3) &&
    (!c.hasInput || ((c.isText || c.inputLen % 4 == 0) && xlatOk b.input c.inputAddr c.inputLen)) &&
    (!c.generates || (c.streamAddr % 8 == 0 && (c.stopsLen == 0 || c.stopsAddr % 4 == 0) && sampling &&
      xlatOk b.stops c.stopsAddr c.stopsLen && (b.out != .fault || !hostSpan c.streamAddr c.streamLen))) &&
    (c.opcode != 0x05 || c.f 16 0 2 != 3) &&
    (c.opcode != 0x09 || (c.f 24 0 64 % 8 == 0 && (b.out != .fault || !hostSpan (c.f 24 0 64) (c.f 20 0 32)))) &&
    (c.opcode != 0x0A || c.f 16 0 5 != ctx.dev.number)

/-- Check 2 over the contents of the stop block and of token-id input; `v` is V where the test of ids is made (R96). -/
def Cmd.contentsOk (b : HostBufs) (v : Option Nat) (c : Cmd) : Bool :=
  (!c.stopsReadable || stopFormatOk v (c.stopBytes b)) &&
    (!c.idsReadable || (match v with
      | some n => (c.ids b).all (fun i => decide (i < n))
      | none => true))

/-- A buffer whose contents check 2 reads arrived with poison (Table 16.1, class 0x0D). -/
def Cmd.poisonRead (b : HostBufs) (v : Option Nat) (c : Cmd) : Bool :=
  (c.stopsReadable && b.stops == .poison) || (c.idsReadable && v.isSome && decide (0 < c.inputLen) && b.input == .poison)

/-- Check 3 (R145, R154, R333). -/
def Cmd.lengthsOk (b : HostBufs) (reserve : Nat) (c : Cmd) : Bool :=
  (!c.hasInput || (decide (c.inputLen ≤ 67108864) && hostSpan c.inputAddr c.inputLen)) &&
    (!c.generates || (c.f 16 0 32 != 0xFFFFFFFF && c.streamLen != 0xFFFFFFFF && hostSpan c.streamAddr c.streamLen &&
      decide (reserve ≤ c.streamLen) && c.f 32 16 16 != 0xFFFF && decide (c.stopsLen ≤ 4096) &&
      (c.stopsLen == 0 || (hostSpan c.stopsAddr c.stopsLen && stopLengthOk (c.stopBytes b))))) &&
    (c.opcode != 0x09 || (c.f 20 0 32 != 0xFFFFFFFF && decide (128 ≤ c.f 20 0 32) && hostSpan (c.f 24 0 64) (c.f 20 0 32)))

/-- Check 4. -/
def Cmd.licenceOk (ctx : Ctx) (c : Cmd) : Bool :=
  (c.opcode != 0x01 || c.f 16 8 1 == 0 || ctx.retrievalOk) && (c.opcode != 0x0A || ctx.chainOk)

/-- Checks 2 to 4 of a session command: the status of the first that fails, 0 where they pass. The stream reserve is that of the table
in force, for a session of another vocabulary as well, and 0 where no table is loaded (DESIGN CHOICE, log entry 75). -/
def Rood.preCheck (ctx : Ctx) (c : Cmd) (b : HostBufs) (v : Option Nat) (x : Rood) : Nat :=
  let reserve := (x.tableNow.map (fun t => tokReserve t.bytes)).getD 0
  if !c.fieldsOk ctx b || c.poisonRead b v || !c.contentsOk b v then stFormat
  else if !c.lengthsOk b reserve then stLength
  else if !c.licenceOk ctx then stNotLicensed
  else 0

/-! ## Check 8 (Table 5.4, R96, R125, R212, R322) -/

/-- The session command needs the table in force. -/
def Cmd.needsTable (e : Entry) (c : Cmd) : Bool := c.generates || c.isText || !e.carry.isEmpty

/-- Objects loaded, as a converting or generating command needs them. -/
def Rood.objectsOk (c : Cmd) (e : Entry) (x : Rood) : Bool :=
  match x.boundImage e with
  | none => false
  | some (_, p, _) =>
    c.opcode == 0x05 ||
      (x.adapterOk p e.adapterSlot && (!c.generates || x.listOk p.vocab e.listSet) &&
        (!c.needsTable e || (x.tableFor p.vocab).isSome))

end Sys2Proof.Machine
end

