-- ==== Sys2Proof/Machine/Sessions.lean ====
section
/-! DEFINITION. The session commands (chapter 3): opening, converting and generating commands with implicit revival, forks,
closing, queries, revival, cancellation, and the meaning of each row. -/
namespace Sys2Proof.Machine
open Sys2Proof

/-! ## Refusals -/

/-- Completes a refused command; ST_ADMIT_MEM and ST_ADMIT_TIME are counted at a position (Table 18.1). -/
def Rood.refuse (now : W64) (c : Cmd) (pos status : Nat) (x : Rood) : Rood :=
  let x := if status = stAdmitMem then x.countSlice pos 18 1 else if status = stAdmitTime then x.countSlice pos 19 1 else x
  x.fail now c status

/-- Completes a command with ST_OK and NOTHING_DONE (cell N, R146). -/
def Rood.nothingDone (now : W64) (c : Cmd) (x : Rood) : Rood :=
  x.complete now c { c.record stOk with nothingDone := true }

/-- Completes work, then composes idle crews (R289) and takes up slots that wait for a record (R140). -/
def Rood.settle (ctx : Ctx) (x : Rood) : Rood := (x.compose ctx).pump ctx.time

/-! ## SES_OPEN (R99, R100) -/

/-- CONTEXT_LIMIT at opening (R93). -/
def contextLimitOf (retrieval : Bool) (p : Params) : Nat := min (if retrieval then 4194304 else 262144) p.ctxLimit

/-- The entry of a session that SES_OPEN opens. -/
def openEntry (now : W64) (c : Cmd) (im : Image) (p : Params) : Entry :=
  { state := .resident, moveKind := 0, latClass := c.f 16 10 2, retrieval := c.f 16 8 1 == 1, kv4 := c.f 16 9 1 == 1
    modelSlot := c.f 16 0 8, adapterSlot := c.f 20 0 16, listSet := c.f 20 16 8, lastYield := 0, carry := []
    modelSeq := im.loadSeq, length := 0, contextLimit := contextLimitOf (c.f 16 8 1 == 1) p, pendingToken := 0, pecks := 0
    dirRoot := 0, streamBytes := 0, seed := BitVec.ofNat 64 (c.f 24 0 64), rng := 0, openTime := now, lastTime := now
    bushel := 0, parent := 0, genCount := 0, grains := 0
    geo := { layers := p.layers, kvHeads := p.kvHeads, headDim := p.headDim, digest := im.digest } }

/-- Counts an opened session and completes its command with the new handle. -/
def Rood.opened (now : W64) (c : Cmd) (slot length : Nat) (x : Rood) : Rood :=
  let x := x.mapTally (fun t => { t with sessionsOpened := t.sessionsOpened + 1 })
  x.complete now c { c.record stOk with handle := x.handleOf slot, result := [0, 0, length, 0] }

/-- Checks 8 and 10 of SES_OPEN and its effect. -/
def Rood.openSession (ctx : Ctx) (c : Cmd) (x : Rood) : Rood :=
  match x.placed (c.f 16 0 8) with
  | none => x.fail ctx.time c stBadState
  | some (im, p, _) =>
    if !x.adapterOk p (c.f 20 0 16) || !x.listOk p.vocab (c.f 20 16 8) then x.fail ctx.time c stBadState
    else match x.popSlot with
      | none => x.refuse ctx.time c 0 stAdmitMem
      | some (i, x) => (x.setEntry i (openEntry ctx.time c im p)).opened ctx.time c i 0

/-! ## Sequences (R102 to R106, R275, R276) -/

/-- The generating part that a descriptor starts. -/
def Cmd.gen (c : Cmd) : Gen :=
  { maxNew := c.f 16 0 32, streamAddr := c.streamAddr, streamLen := c.streamLen, used := 0
    temperature := BitVec.ofNat 16 (c.f 32 0 16), topK := c.f 32 16 16, topP := BitVec.ofNat 16 (c.f 36 0 16)
    minP := BitVec.ofNat 16 (c.f 36 16 16), stopToks := c.stopToks, stopStrs := c.stopStrs, history := [], fired := []
    body := [], text := [] }

/-- The sequence of a command whose input is converted (R275). -/
def seqFor (c : Cmd) (slot : Nat) (e : Entry) (v : Conv) : Seq :=
  { cmd := c.id, slot := slot, cls := e.latClass, model := e.modelSlot, order := 0, running := false, base := e.stored
    toks := (if 1 ≤ e.length then [e.pendingToken] else []) ++ v.tokens, stored := 0, appended := v.tokens.length
    byteTokens := v.byteTokens, carried := !v.carry.isEmpty, newCarry := v.carry
    appendDone := c.opcode == 0x03 && v.tokens.isEmpty, gen := if c.generates then some c.gen else none, crew := none
    resFrames := 0, resLines := 0, cancel := none, dropped := false, touched := false, lastEnd := 0, yield := 0
    stopOff := none }

/-- The sequence takes part in steps (R276). -/
def Seq.steps (q : Seq) : Bool := q.gen.isSome || decide (0 < q.prefillLeft)

/-- Frames and lines that a sequence needs at admission (Table 15.5). -/
def Seq.needs (e : Entry) (q : Seq) : Nat × Nat :=
  let g := e.geom
  let s := q.base + q.toks.length - (if q.gen.isSome then 0 else 1)
  if q.steps then (g.frames s - g.frames e.stored, g.lines s - g.lines e.stored) else (0, 0)

/-- Check 9, with the status that R104 and R106 give before it. -/
def checkLimit (c : Cmd) (e : Entry) (n : Nat) : Nat :=
  if c.opcode = 0x04 ∧ n = 0 then stBadState
  else if c.opcode = 0x03 ∧ e.contextLimit ≤ e.length then stContextLimit
  else if e.contextLimit < e.length + n then stContextLimit
  else 0

/-- Checks 9 and 10 for a command with its conversion, `rev` being what a revival needs beside it: the status, and the frames
and lines of the command itself. -/
def Rood.admission (ctx : Ctx) (c : Cmd) (slot : Nat) (e : Entry) (v : Conv) (rev : Nat × Nat) (x : Rood) : Nat × Nat × Nat :=
  let q := seqFor c slot e v
  let st := checkLimit c e v.tokens.length
  let n := q.needs e
  if st ≠ 0 then (st, 0, 0)
  else if !x.memoryTest c.floor e.latClass slot (n.1 + rev.1) (n.2 + rev.2) then (stAdmitMem, 0, 0)
  else if q.steps && !x.timeTest ctx q then (stAdmitTime, 0, 0)
  else (0, n.1, n.2)

/-- Completes a converting or generating command that a check from 8 on refuses. -/
def Rood.refuseSeq (now : W64) (c : Cmd) (slot : Nat) (e : Entry) (status : Nat) (x : Rood) : Rood :=
  if status = stContextLimit then
    x.complete now c { c.record status with
      yield := if c.opcode = 0x03 ∧ e.contextLimit ≤ e.length then yContextLimit else 0
      result := idleResult c.opcode e.length }
  else x.refuse now c (slot % x.width) status

/-- The bound image and adapter are still the ones that check 8 found (R125, R235). -/
def Rood.stillBound (e : Entry) (x : Rood) : Bool :=
  match x.boundImage e with
  | some (_, p, _) => x.adapterOk p e.adapterSlot
  | none => false

/-- The sequence joins its rood: QUEUED when it takes part in steps, with GEN_COUNT 0 for a generating command (R105). -/
def Rood.joinSeq (now : W64) (q : Seq) (x : Rood) : Rood :=
  let x := if q.gen.isSome then x.modEntry q.slot (fun e => { e with genCount := 0 }) else x
  if q.steps then x.enqueue now q else { x with seqs := x.seqs ++ [q] }

/-- An admitted command begins. A sequence in no step is at a step boundary, so an append without prefill takes effect, and an
image or adapter that has changed since check 8 ends it, at once (R102, R106, R125, R276, R290). -/
def Rood.startSeq (ctx : Ctx) (c : Cmd) (slot : Nat) (e : Entry) (v : Conv) (need : Nat × Nat) (x : Rood) : Rood :=
  let q := { seqFor c slot e v with resFrames := need.1, resLines := need.2, dropped := !x.stillBound e }
  ((((x.setCmd { c with stage := .running }).joinSeq ctx.time q).endAppendPart q.cmd).boundary ctx.time q.cmd).compose ctx

/-- What a command takes at its acceptance: the table and list set in force, and its stop block (R169, R322, R333). -/
def Rood.takeObjects (b : HostBufs) (c : Cmd) (e : Entry) (x : Rood) : Cmd :=
  let st := readStops (if c.stopsReadable then c.stopBytes b else [])
  { c with
    tokSeq := if c.needsTable e then (x.tableNow.map (fun t => t.loadSeq)).getD 0 else 0
    listSeq := if c.generates && e.listSet != 0xFF then ((x.listNow e.listSet).map (fun s => s.loadSeq)).getD 0 else 0
    stopToks := st.toks, stopStrs := st.strs }

/-- A command whose count of tokens is known without conversion: checks 9 and 10, then its start or its revival (R118). -/
def Rood.judgeIds (ctx : Ctx) (c : Cmd) (slot : Nat) (e : Entry) (v : Conv) (revive : Bool) (x : Rood) : Rood :=
  let c := { c with conv := some v }
  let x := x.setCmd c
  let a := x.admission ctx c slot e v (if revive then e.revivalNeeds else (0, 0))
  if a.1 ≠ 0 then x.refuseSeq ctx.time c slot e a.1
  else if revive then
    let c := { c with stage := .reviving, implicitRevival := true }
    let x := x.setCmd c
    ({ x with holds := x.holds ++ [{ cmd := c.id, slot := slot, frames := a.2.1, lines := a.2.2 }] } : Rood).beginRevival
      ctx.time c 3 slot e
  else x.startSeq ctx c slot e v a.2

/-- A command with text input: its conversion begins, beside the revival of a PARKED session (R118, R179). -/
def Rood.judgeText (ctx : Ctx) (c : Cmd) (slot : Nat) (e : Entry) (revive : Bool) (x : Rood) : Rood :=
  if !revive then x.setCmd { c with stage := .converting }
  else
    let n := e.revivalNeeds
    if !x.memoryTest c.floor e.latClass slot n.1 n.2 then x.refuse ctx.time c (slot % x.width) stAdmitMem
    else (x.setCmd { c with stage := .converting, implicitRevival := true }).beginRevival ctx.time c 3 slot e

/-- SES_APPEND with empty input that changes nothing (R146). -/
def Cmd.emptyAppend (e : Entry) (c : Cmd) : Bool := c.opcode == 0x02 && c.inputLen == 0 && (c.isText || e.carry.isEmpty)

/-- SES_APPEND, SES_GENERATE and SES_RESUME from check 8 on. -/
def Rood.judgeSeq (ctx : Ctx) (c : Cmd) (b : HostBufs) (slot : Nat) (e : Entry) (revive : Bool) (x : Rood) : Rood :=
  if !x.objectsOk c e then x.fail ctx.time c stBadState
  else if c.emptyAppend e then
    x.complete ctx.time c { c.record stOk with
      nothingDone := true, carried := !e.carry.isEmpty, result := idleResult 0x02 e.length }
  else
    let c := x.takeObjects b c e
    if c.isText then x.judgeText ctx c slot e revive
    else x.judgeIds ctx c slot e (convertIds (x.tableOf c) e.carry (if c.hasInput then c.ids b else [])) revive

/-! ## The end of a conversion (R118, R119, R148, R179) -/

/-- Checks 9 and 10 of a converted command: it starts, fails, or waits for its revival with what they decided. -/
def Rood.converted (ctx : Ctx) (c : Cmd) (slot : Nat) (e : Entry) (v : Conv) (x : Rood) : Rood :=
  let c := { c with conv := some v }
  let x := x.setCmd c
  let a := x.admission ctx c slot e v (0, 0)
  if e.state = SesState.moving then
    let x := x.setCmd { c with stage := .reviving, failed := a.1 }
    if a.1 ≠ 0 then x
    else { x with holds := x.holds ++ [{ cmd := c.id, slot := slot, frames := a.2.1, lines := a.2.2 }] }
  else if a.1 ≠ 0 then x.refuseSeq ctx.time c slot e a.1
  else x.startSeq ctx c slot e v a.2

/-- Logs a host address fault of a command (R148). -/
def Rood.addrFault (now : W64) (c : Cmd) (x : Rood) : Rood :=
  ({ x with regs := { x.regs with addrFault := true } } : Rood).logOwn
    { LogEntry.plain now 0x06 c.opcode (if namesSession c.opcode then c.handle else 0) with rood := x.num }

/-- The command ends at once because its input no longer translates: ST_CANCELLED with RESULT zero (R148, R150). -/
def Rood.faultInput (now : W64) (c : Cmd) (x : Rood) : Rood :=
  (x.addrFault now c).complete now c { c.record stCancelled with yield := yCancel }

/-- One node read in a lexicon cache of `n` nodes: whether it was missed, and the cache, which loses the node used least recently
(R172). -/
def lexRead (n : Nat) (a : LexNode) (l : List LexNode) : Nat × List LexNode :=
  (if l.contains a then 0 else 1, (a :: l.filter (fun b => b != a)).take n)

/-- The nodes that a conversion reads at a position, with the misses counted there (R172, Table 18.1; log entry 70). -/
def Rood.lexUse (pos table : Nat) (nodes : List Nat) (x : Rood) : Rood :=
  let r := nodes.foldl (fun (r : Nat × List LexNode) a =>
    let q := lexRead Config.lexNodes { table := table, node := a } r.2
    (r.1 + q.1, q.2)) (0, x.lex.getD pos [])
  ({ x with lex := x.lex.set pos r.2 } : Rood).ask (.count ⟨.slice, x.firstSg + pos, 1⟩ r.1)

/-- Lexicon caches keep only nodes of tables that the tokenizer still holds (R173). -/
def Rood.lexDrop (x : Rood) : Rood :=
  { x with lex := x.lex.map (fun l => l.filter (fun a => x.obj.tables.any (fun t => t.loadSeq == a.table))) }

/-- The text of a converting command as its tokenizer reads it. -/
def Rood.convert (ctx : Ctx) (c : Cmd) (input : HostRead) (x : Rood) : Rood :=
  let slot := handleSlot c.handle
  match x.entry? slot, input with
  | none, _ => x
  | some _, .fault => x.faultInput ctx.time c
  | some _, .poison => (x.poisonEvent ctx.time).fail ctx.time c stFormat
  | some e, .ok bs =>
    let text := padTo c.inputLen bs
    let v := convertText (x.tableOf c) (c.opcode == 0x02) e.carry text
    let pos := ctx.dev.assignedAt x slot e.length
    let x := ((x.countSlice pos 0 text.length).lexUse pos c.tokSeq (Config.lexReads (x.tableOf c) text)).mapTally
      (fun t => { t with textBytesIn := t.textBytesIn + text.length })
    x.converted ctx c slot e v

/-! ## SES_FORK (R120 to R123, R273) -/

/-- Frames that a fork allocates: the partly filled tail peck, summary frame and super frame of each layer. -/
def KvGeom.tails (g : KvGeom) (s : Nat) : Nat :=
  let f := s / g.tok
  g.layers * (bit (s % g.tok != 0) + (if g.retr then bit (f % g.sums != 0) + bit (f / 64 % g.sums != 0) else 0))

/-- Slots or summaries of a full frame of a kind. -/
def KvGeom.capacity (g : KvGeom) (kind : Nat) : Nat := if kind = 0 then g.tok else g.sums

def KvGeom.isFull (g : KvGeom) (s : Nat) (f : SesFrame) : Bool := g.fill s f.kind f.num == g.capacity f.kind

/-- Shares or copies one frame of the source for the session in slot `i` whose layer table is `t`. -/
def Kv.forkFrame (w i t : Nat) (g : KvGeom) (s : Nat) (f : SesFrame) (k : Kv) : Option Kv :=
  if g.isFull s f then (k.addRef f.key).enter w i t f.layer f.kind f.num f.key
  else
    match k.alloc w i f.layer (allocNum f.kind f.num) (kindUse f.kind) with
    | some (key, k) => (k.frameWrite key 0 (k.frameRead f.key 0 frameBytes)).enter w i t f.layer f.kind f.num key
    | none => none

/-- The directory of a fork of `s` stored positions: the layer table's pointer and the store. -/
def Kv.forkAll (w i : Nat) (g : KvGeom) (s : Nat) (fs : List SesFrame) (k : Kv) : Option (Nat × Kv) :=
  if s = 0 then some (0, k)
  else
    match k.newLines w i (ceilDiv g.layers 16) with
    | some (t, k) => (fs.foldl (fun k f => k.bind (Kv.forkFrame w i t g s f)) (some k)).map (fun k => (t, k))
    | none => none

/-- The new entry (R120). -/
def Entry.forked (now : W64) (c : Cmd) (t : Nat) (e : Entry) : Entry :=
  { e with
    state := .resident, moveKind := 0, latClass := c.f 16 0 2, lastYield := 0, dirRoot := BitVec.ofNat 32 t, streamBytes := 0
    seed := BitVec.ofNat 64 (c.f 24 0 64), rng := 0, openTime := now, lastTime := now, bushel := 0
    parent := BitVec.ofNat 32 c.handle, genCount := 0, grains := 0 }

/-- The fork takes effect in the slot it has taken. -/
def Rood.forkInto (now : W64) (c : Cmd) (slot i : Nat) (e : Entry) (x : Rood) : Rood :=
  let fs := x.kv.sessionFrames (slot % x.width) e.geom e.dirRoot.toNat e.stored
  let x := x.dropHold c.id
  match x.kv.forkAll x.width i e.geom e.stored fs with
  | some (t, k) => (({ x with kv := k } : Rood).setEntry i (e.forked now c t)).opened now c i e.length
  | none => (x.untakeSlot i).refuse now c (slot % x.width) stAdmitMem

/-- A reference count that a fork would take beyond 65,535 (R122). -/
def Rood.refsFull (slot : Nat) (e : Entry) (x : Rood) : Bool :=
  (x.kv.sessionFrames (slot % x.width) e.geom e.dirRoot.toNat e.stored).any (fun f =>
    e.geom.isFull e.stored f && decide (65535 ≤ x.kv.refs f.key))

/-- The memory test of a fork: tails, the new directory in its own stack, and a revival's frames and lines (R119, R447). -/
def Rood.forkFits (floor : Nat) (e : Entry) (slot i : Nat) (rev : Nat × Nat) (x : Rood) : Bool :=
  let t := e.geom.tails e.stored
  let l := e.geom.lines e.stored
  if slot % x.width = i % x.width then x.memoryTest floor e.latClass i (t + rev.1) (l + rev.2)
  else (t + rev.1 == 0 && l + rev.2 == 0) ||
    decide (t + rev.1 + (if e.latClass = 0 then 0 else floor) ≤ x.framesOpen) && decide (l ≤ x.linesOpen (i % x.width)) &&
    decide (rev.2 ≤ x.linesOpen (slot % x.width))

/-- SES_FORK from check 8 on. -/
def Rood.judgeFork (ctx : Ctx) (c : Cmd) (slot : Nat) (e : Entry) (revive : Bool) (x : Rood) : Rood :=
  if !x.objectsOk c e then x.fail ctx.time c stBadState
  else if !revive && x.refsFull slot e then x.refuse ctx.time c (slot % x.width) stAdmitMem
  else
    match x.popSlot with
    | none => x.refuse ctx.time c (slot % x.width) stAdmitMem
    | some (i, y) =>
      if !y.forkFits c.floor e slot i (if revive then e.revivalNeeds else (0, 0)) then x.refuse ctx.time c (slot % x.width) stAdmitMem
      else
        let y := y.setSlot i { y.slot i with taken := true }
        if revive then
          let c := { c with stage := .reviving, implicitRevival := true }
          let y := y.setCmd c
          ({ y with holds := y.holds ++ [{
              cmd := c.id, slot := i, frames := e.geom.tails e.stored, lines := e.geom.lines e.stored }] } : Rood).beginRevival
            ctx.time c 3 slot e
        else y.forkInto ctx.time c slot i e

/-! ## The end of a revival (R108, R113, R118, R119) -/

/-- The command that caused an implicit revival goes on as if the session had been RESIDENT. -/
def Rood.goOn (ctx : Ctx) (c : Cmd) (slot : Nat) (x : Rood) : Rood :=
  match x.entry? slot with
  | none => x
  | some e =>
    if c.stage = .converting then x
    else if c.failed = stCancelled then x.endWaiting ctx.time c stCancelled yCancel
    else if c.failed ≠ 0 then x.refuseSeq ctx.time c slot e c.failed
    else if c.opcode = 0x05 then
      (match x.hold? c.id with
       | some h => x.forkInto ctx.time c slot h.slot e
       | none => x)
    else
      match c.conv, x.hold? c.id with
      | some v, some h => (x.dropHold c.id).startSeq ctx c slot e v (h.frames, h.lines)
      | _, _ => x

/-- The revival of a slot has read its bushel into place. -/
def Rood.revived (ctx : Ctx) (m : Move) (x : Rood) : Rood :=
  let x := x.endMove ctx.time m .resident
  if m.kind = 2 then x.completeMove ctx.time m stOk [0, 0, 0, 0]
  else if m.cancel.isSome then x.endRevivalCmd ctx.time m stCancelled
  else
    match x.cmd? m.cmd with
    | some c => x.goOn ctx c m.slot
    | none => x

/-- The end of a revival's reading. -/
def Rood.endRevival (ctx : Ctx) (m : Move) (x : Rood) : Rood :=
  match x.entry? m.slot with
  | none => x.dropMove m.slot
  | some e =>
    let r := (x.setMove { m with resFrames := 0, resLines := 0 }).revive ctx m.slot m.obj e
    if r.2 then r.1.revived ctx m else r.1.failRevival ctx.time m stMedia .parked

/-! ## SES_CLOSE, SES_QUERY, SES_CANCEL (R109, R110, R112 to R114) -/

/-- SES_CLOSE: frames, lines and extents are freed and the slot becomes FREE. -/
def Rood.closeSession (now : W64) (c : Cmd) (slot : Nat) (e : Entry) (x : Rood) : Rood :=
  (((x.freeBushel slot).freeKv slot e).freeSlot slot).fail now c stOk

/-- The bytes that SES_QUERY writes. -/
def Entry.queryBytes (gen : Nat) (e : Entry) : List Byte := ({ e with dirRoot := 0, bushel := 0 } : Entry).bytes gen

/-- A session's entry between two steps: in a step that runs, PECKS counts what the session held before it (R110). -/
def Rood.steadyEntry (slot : Nat) (e : Entry) (x : Rood) : Entry :=
  match x.seqOfSlot slot with
  | some q => if x.inStep q then { e with pecks := e.geom.peckCount (q.storedNow e) } else e
  | none => e

/-- SES_QUERY: the entry's bytes, then ST_OK; a use of the buffer that fails ends it with the bytes written so far (R148). -/
def Rood.querySession (now : W64) (c : Cmd) (out : OutBuf) (slot : Nat) (e : Entry) (x : Rood) : Rood :=
  let bytes := (x.steadyEntry slot e).queryBytes (x.slot slot).gen
  match out with
  | .lost n => ((x.hostWrite (c.f 24 0 64) (bytes.take n)).addrFault now c).fail now c stCancelled
  | _ => (x.hostWrite (c.f 24 0 64) bytes).complete now c { c.record stOk with result := [128, 0, 0, 0] }

/-- SES_CANCEL of a session with a sequence: it waits for the boundary, which a sequence in no step has reached (R112, R114,
R292). -/
def Rood.cancelSeq (ctx : Ctx) (c : Cmd) (q : Seq) (x : Rood) : Rood :=
  if q.cancel.isSome then x.nothingDone ctx.time c
  else
    let x := (x.setCmd { c with stage := .running }).setSeq { q with cancel := some c.id }
    if x.inStep q || x.inHeld q then x else (x.boundary ctx.time q.cmd).compose ctx

def Rood.cancelSession (ctx : Ctx) (c : Cmd) (slot : Nat) (x : Rood) : Rood :=
  match x.seqOfSlot slot, x.move? slot with
  | some q, _ => x.cancelSeq ctx c q
  | none, some m =>
    if m.kind = 3 ∧ m.cancel.isNone ∧ (x.cmd? m.cmd).isSome then
      (x.setCmd { c with stage := .running }).setMove { m with cancel := some c.id }
    else x.nothingDone ctx.time c
  | none, none => x.nothingDone ctx.time c

/-! ## One session command -/

/-- The session a handle names, when it is valid (R88). -/
def Rood.subject (c : Cmd) (x : Rood) : Option (Nat × Entry) :=
  if x.validHandle c.handle then (x.entry? (handleSlot c.handle)).map (fun e => (handleSlot c.handle, e)) else none

/-- An accepted command holds its session (R97). -/
def Cmd.holds (c d : Cmd) : Bool :=
  d.id != c.id && namesSession d.opcode && handleSlot d.handle == handleSlot c.handle &&
    (d.stage == .converting || (d.stage == .reviving && (d.failed == stContextLimit || d.failed == stBadState)) ||
      ((d.stage == .accepted || d.stage == .waiting) && d.ring == c.ring && decide (d.id < c.id)))

/-- The command waits: for its session (R97), its manager under reset (R468), or a restore of the rood (R426). -/
def Rood.mustWait (ctx : Ctx) (c : Cmd) (x : Rood) : Bool :=
  x.ckp.restore.isSome ||
    (c.opcode != 0x01 && (x.subject c).isSome &&
      (x.cmds.any (fun d => d.embeds.contains (handleSlot c.handle)) || x.cmds.any (fun d => c.holds d) || x.posDown ctx (handleSlot c.handle % x.width)))

/-- What a command does to the session that Table 3.4 lets it act on. -/
def Rood.actSes (ctx : Ctx) (c : Cmd) (b : HostBufs) (slot : Nat) (e : Entry) (revive : Bool) (x : Rood) : Rood :=
  match c.opcode with
  | 0x05 => x.judgeFork ctx c slot e revive
  | 0x06 => x.beginPark ctx c slot e
  | 0x07 =>
    let n := e.revivalNeeds
    if x.memoryTest c.floor e.latClass slot n.1 n.2 then (x.setCmd { c with stage := .running }).beginRevival ctx.time c 2 slot e
    else x.refuse ctx.time c (slot % x.width) stAdmitMem
  | 0x08 => x.closeSession ctx.time c slot e
  | 0x09 => x.querySession ctx.time c b.out slot e
  | 0x0A => if ctx.dev.reaches (c.f 16 0 5) then x.beginMigrate ctx c slot e else x.fail ctx.time c stPeer
  | 0x0B => x.cancelSession ctx c slot
  | _ => x.judgeSeq ctx c b slot e revive

/-- Checks 5 to 7 (R98). -/
def Rood.judgeCell (ctx : Ctx) (c : Cmd) (b : HostBufs) (x : Rood) : Rood :=
  match x.subject c with
  | none => x.fail ctx.time c stBadHandle
  | some (slot, e) =>
    match cellOf c.opcode e.length e.state with
    | .act => x.actSes ctx c b slot e false
    | .revive => x.actSes ctx c b slot e true
    | .nothing => x.nothingDone ctx.time c
    | .suspect => x.fail ctx.time c stSuspect
    | .badState => x.fail ctx.time c stBadState

/-- V of the bound image where checks that need it are made (R96). -/
def Rood.vocabOf (c : Cmd) (x : Rood) : Option Nat :=
  (x.subject c).bind (fun q => (x.boundImage q.2).map (fun i => i.2.1.vocab))

/-- A session command that its manager accepts: every check of Table 3.3 and its effect. -/
def Rood.judgeSes (ctx : Ctx) (c : Cmd) (b : HostBufs) (x : Rood) : Rood :=
  if x.mustWait ctx c then x.setCmd { c with stage := .waiting }
  else
    let v := x.vocabOf c
    let st := x.preCheck ctx c b v
    let x := if c.fieldsOk ctx b && c.poisonRead b v then x.poisonEvent ctx.time else x
    let x := if st ≠ 0 then x.fail ctx.time c st
      else if c.opcode = 0x01 then x.openSession ctx c
      else x.judgeCell ctx c b
    x.pump ctx.time

/-- No host buffer: for commands that name none. -/
def noBufs : HostBufs := { input := .ok [], stops := .ok [], out := .ok }

/-! ## The rows -/

/-- SES_OPEN (R99, R100). -/
def execSesOpen (r c : Nat) (s : State) : Result :=
  .next (onRood r (fun ctx x => x.onCmd c [0x01] (fun d x => x.judgeSes ctx d noBufs)) s)

/-- SES_APPEND (R101 to R103, R146). -/
def execSesAppend (r c : Nat) (b : HostBufs) (s : State) : Result :=
  .next (onRood r (fun ctx x => x.onCmd c [0x02] (fun d x => x.judgeSes ctx d b)) s)

/-- SES_GENERATE (R104, R105). -/
def execSesGenerate (r c : Nat) (b : HostBufs) (s : State) : Result :=
  .next (onRood r (fun ctx x => x.onCmd c [0x03] (fun d x => x.judgeSes ctx d b)) s)

/-- SES_RESUME (R106). -/
def execSesResume (r c : Nat) (b : HostBufs) (s : State) : Result :=
  .next (onRood r (fun ctx x => x.onCmd c [0x04] (fun d x => x.judgeSes ctx d b)) s)

/-- SES_FORK (R120 to R123). -/
def execSesFork (r c : Nat) (s : State) : Result :=
  .next (onRood r (fun ctx x => x.onCmd c [0x05] (fun d x => x.judgeSes ctx d noBufs)) s)

/-- SES_PARK (R107, R399). -/
def execSesPark (r c : Nat) (s : State) : Result :=
  .next (onRood r (fun ctx x => x.onCmd c [0x06] (fun d x => x.judgeSes ctx d noBufs)) s)

/-- SES_REVIVE (R108). -/
def execSesRevive (r c : Nat) (s : State) : Result :=
  .next (onRood r (fun ctx x => x.onCmd c [0x07] (fun d x => x.judgeSes ctx d noBufs)) s)

/-- SES_CLOSE (R109). -/
def execSesClose (r c : Nat) (s : State) : Result :=
  .next (onRood r (fun ctx x => x.onCmd c [0x08] (fun d x => x.judgeSes ctx d noBufs)) s)

/-- SES_QUERY (R110). -/
def execSesQuery (r c : Nat) (b : HostBufs) (s : State) : Result :=
  .next (onRood r (fun ctx x => x.onCmd c [0x09] (fun d x => x.judgeSes ctx d b)) s)

/-- SES_MIGRATE (R111, R392). -/
def execSesMigrate (r : Nat) (c : CmdWear) (s : State) : Result :=
  .next (onFlash c.wear r (fun ctx x => x.onCmd c.id [0x0A] (fun d x => x.judgeSes ctx d noBufs)) s)

/-- SES_CANCEL (R112 to R114, R292). -/
def execSesCancel (r c : Nat) (s : State) : Result :=
  .next (onRood r (fun ctx x => x.onCmd c [0x0B] (fun d x => x.judgeSes ctx d noBufs)) s)

/-- SESSION_COMMAND_DEQUEUE (R97): a command that waited is judged against the state that the earlier one left. -/
def execSessionCommandDequeue (r : Nat) (c : CmdWear) (b : HostBufs) (s : State) : Result :=
  .next (onFlash c.wear r (fun ctx x => match x.cmd? c.id with
    | some d => if d.stage = .waiting ∧ (d.opcode = 0x01 ∨ namesSession d.opcode) then x.judgeSes ctx d b else x
    | none => x) s)

/-- TEXT_CONVERSION_DONE (R118, R179): the tokenizer has converted the input of a command. It waits while the trie is being
rebuilt (R544). -/
def execTextConversionDone (r c : Nat) (input : HostRead) (s : State) : Result :=
  .next (onRood r (fun ctx x => match x.cmd? c with
    | some d =>
      if d.stage = .converting ∧ !x.rebuilding.contains (.trie x.num) then (x.convert ctx d input).pump ctx.time else x
    | none => x) s)

/-- REVIVAL_DONE (R108, R119): the movers have read the bushel of a slot, or a media error has stopped them. -/
def execRevivalDone (r slot : Nat) (w : Wear) (s : State) : Result :=
  .next (onFlash w r (fun ctx x => match x.move? slot with
    | some m => if m.kind = 2 ∨ m.kind = 3 then (x.endRevival ctx m).pump ctx.time else x
    | none => x) s)

/-- BUSHEL_DURABLE (R107, R377): the bushel's header is durable, or a media error has stopped the write. -/
def execBushelDurable (r slot : Nat) (media : Media) (s : State) : Result :=
  .next (onFlash media.wear r (fun ctx x => match x.move? slot with
    | some m => if m.kind = 1 ∧ !m.durable then (x.bushelWritten ctx m media.ok).pump ctx.time else x
    | none => x) s)

/-- What a failed retranslation does to a command (R148): a converting command ends at once, a sequence at its next boundary,
a command that waits for its revival when that ends; any other ends where it stands. -/
def Rood.loseBuffer (ctx : Ctx) (c : Cmd) (x : Rood) : Rood :=
  let x := if c.stage = .converting then x else x.addrFault ctx.time c
  if c.stage = .converting then x.faultInput ctx.time c
  else
    match x.seq? c.id with
    | some q =>
      let x := x.setSeq { q with dropped := true }
      if x.inStep q || x.inHeld q then x else (x.boundary ctx.time q.cmd).compose ctx
    | none => x.setCmd { c with failed := stCancelled }

end Sys2Proof.Machine
end

