-- ==== Sys2Proof/Machine/Loads.lean ====
section
/-! DEFINITION. MDL_LOAD, MDL_UNLOAD, TOK_LOAD and LST_SET (chapters 5, 7, 11): their queue, the checks of Table 7.10 in the
order in which they fall due, the event chain, and what a change of a loaded object does to the rood. -/
namespace Sys2Proof.Machine
open Sys2Proof

/-! ## Descriptor fields and the checks at acceptance (Tables 4.6 and 7.10, R145, R167, R317, R320) -/

def Cmd.kind (c : Cmd) : Nat := c.f 2 0 1
def Cmd.objSlot (c : Cmd) : Nat := c.f 16 0 16
def Cmd.bulkOff (c : Cmd) : Nat := c.f 24 0 64
def Cmd.bulkLen (c : Cmd) : Nat := c.f 32 0 64

/-- Least and greatest LEN of an opcode. -/
def loadLenRange (op : Nat) : Nat × Nat :=
  if op = 0x12 then (64, 67108864) else if op = 0x13 then (32, 18882592) else (0, bulkSize)

/-- Checks 2 and 3 of Table 3.3 and check 1 of Table 7.10: the status of the first that fails, 0 where they pass. -/
def Cmd.loadCheck (c : Cmd) : Nat :=
  let imgOk := if c.kind = 0 then decide (c.objSlot ≤ 255) else decide (c.objSlot ≤ 0xFFFE)
  let r := loadLenRange c.opcode
  if !c.wellFormed || ((c.opcode == 0x10 || c.opcode == 0x11) && !imgOk) || (c.opcode == 0x13 && c.f 16 0 8 == 0xFF) then
    stFormat
  else if c.opcode != 0x11 && (decide (bulkSize < c.bulkOff + c.bulkLen) || decide (c.bulkLen < r.1) || decide (r.2 < c.bulkLen))
    then stLength
  else 0

/-! ## LOAD_SEQ and EVENT_CHAIN (R70, Table 2.9) -/

/-- A 64-byte entry of Table 2.9. -/
def objectEntry (kind slot seq : Nat) (time : W64) (digest : List Byte) : List Byte :=
  leBytes 4 (kind ||| slot <<< 16) ++ leBytes 4 seq ++ leBytes 8 time.toNat ++ padTo 48 digest

/-- One load or unload event: LOAD_SEQ moves by 1 and EVENT_CHAIN absorbs the entry. Bit 7 of `kind` marks an unload. -/
def Rood.objectEvent (now : W64) (kind slot : Nat) (digest : List Byte) (x : Rood) : Rood :=
  let seq := (x.obj.loadSeq + 1) % 2 ^ 32
  { x with obj := { x.obj with
      loadSeq := seq
      eventChain := sha384 (x.obj.eventChain ++ objectEntry kind slot seq now digest) } }

/-- The event of a load, counted in the tally (Table 18.4). -/
def Rood.loadEvent (now : W64) (kind slot : Nat) (digest : List Byte) (x : Rood) : Rood :=
  (x.objectEvent now kind slot digest).mapTally (fun t => { t with loads := t.loads + 1 })

/-! ## The queue (R241) -/

/-- Completes a command of the queue with LOAD_SEQ (Table 4.8). -/
def Rood.finishLoad (now : W64) (c : Cmd) (status : Nat) (x : Rood) : Rood :=
  let x := { x with obj := { x.obj with queue := x.obj.queue.filter (fun i => i != c.id) } }
  x.complete now c { c.record status with result := [x.obj.loadSeq, 0, 0, 0] }

/-! ## Frames of weight copies, adapters and automata (R224, R234, R321; log entry 16) -/

/-- A free frame of the stack at `pos`, from a channel upwards. -/
def Kv.frameFrom (pos chan : Nat) (k : Kv) : Option Nat :=
  (List.range 64).findSome? (fun i => k.chanFree pos ((chan + i) % 64))

/-- Takes `n` frames of the stack at `pos`, striped over its channels. -/
def Kv.takeFrames (pos : Nat) (use : FrameUse) : (n : Nat) → Kv → List Nat × Kv
  | 0, k => ([], k)
  | n + 1, k =>
    match k.frameFrom pos (n % 64) with
    | some a =>
      let r := Kv.takeFrames pos use n (k.putFrame a { refs := 1, use := use, data := [] })
      (a :: r.1, r.2)
    | none => Kv.takeFrames pos use n k

/-- Frames for some bytes. -/
def framesFor (bytes : Nat) : Nat := ceilDiv bytes frameBytes

/-- The pool holds frames for the bytes that each position is to receive. -/
def Rood.roomFor (needs : List (Nat × Nat)) (x : Rood) : Bool :=
  needs.all (fun q => decide (framesFor q.2 ≤ x.kv.freeAt q.1)) &&
    decide ((needs.map (fun q => framesFor q.2)).sum ≤ x.framesOpen)

/-- Takes those frames. -/
def Rood.takeRoom (use : FrameUse) (needs : List (Nat × Nat)) (x : Rood) : List Nat × Rood :=
  needs.foldl (fun r q =>
    let t := r.2.kv.takeFrames q.1 use (framesFor q.2)
    (r.1 ++ t.1, { r.2 with kv := t.2 })) ([], x)

/-- Returns frames: they are zeroed before they are allocated again (R240, R247). -/
def Rood.giveRoom (keys : List Nat) (x : Rood) : Rood := { x with kv := keys.foldl (fun k a => k.unref a) x.kv }

/-- Bytes that each position of a rood of `w` stack groups receives of an image: positions of every crew for a placement
image, every position for an adapter. -/
def ImageKind.needs (w : Nat) : ImageKind → List (Nat × Nat)
  | .placement p pl =>
    (List.range (w / max pl.width 1)).flatMap (fun c => (List.range pl.width).map (fun i =>
      (c * pl.width + i, sgBytesAt (imageMats p) pl i)))
  | .adapter a => (List.range w).map (fun i => (i, adapterLen a))

/-! ## MDL_LOAD (R236 to R238, Table 7.10) -/

/-- Abandons the open load: its frames and decrypted bytes go (R64, R237). -/
def Rood.abandonLoad (x : Rood) : Rood :=
  match x.obj.openLoad with
  | some l => ({ x with obj := { x.obj with openLoad := none } } : Rood).giveRoom l.frames
  | none => x

def Rood.setOpen (l : OpenLoad) (x : Rood) : Rood := { x with obj := { x.obj with openLoad := some l } }

/-- Body sections of an open load. -/
def OpenLoad.sections (l : OpenLoad) : List Section := (imgTable l.file).drop 1

/-- The WEIGHTS section: its offset in the body and its length. -/
def OpenLoad.weightsAt (l : OpenLoad) : Nat × Nat := (l.sections.getLast?.map (fun s => (s.off, s.len))).getD (0, 0)

def OpenLoad.bytesOf (typ : Nat) (l : OpenLoad) : List (List Byte) :=
  (l.sections.filter (fun s => s.typ == typ)).map (fun s => cut s.off s.len l.body)

/-- R222: the widest placement not above the rood's width. -/
def widestPlacement (w : Nat) (l : List Placement) : Option Placement :=
  (l.filter (fun p => decide (p.width ≤ w))).foldl (fun b p => match b with
    | none => some p
    | some q => if q.width < p.width then some p else some q) none

/-- Checks 6 and 7 of Table 7.10: the image that the body describes, or the status. -/
def OpenLoad.describe (w : Nat) (l : OpenLoad) : Nat × Option ImageKind :=
  if l.kind = 0 then
    let params := (l.bytesOf 2).headD []
    let pls := l.bytesOf 3
    let p := readParams params
    if !placementImageOk params pls l.weightsAt.2 then (stFormat, none)
    else
      match widestPlacement w (pls.map (readPlacement p.layers)) with
      | some pl => (0, some (.placement p pl))
      | none => (stShape, none)
  else
    let b := (l.bytesOf 5).headD []
    if adapterImageOk b l.weightsAt.2 (imgBodyLen l.file) then (0, some (.adapter (readAdapter b))) else (stFormat, none)

/-- Checks 6 to 8, with the reservation of check 8. -/
def Rood.placeLoad (l : OpenLoad) (x : Rood) : Nat × Rood :=
  match l.describe x.width with
  | (st, none) => (st, x)
  | (_, some im) =>
    if !x.roomFor (im.needs x.width) then (stAdmitMem, x)
    else
      let r := x.takeRoom (if l.kind = 0 then .weight l.slot else .adapter l.slot) (im.needs x.width)
      (0, r.2.setOpen { l with image := some im, frames := r.1 })

/-- Check 9 over the weight bytes decrypted so far. -/
def OpenLoad.weightsOk (l : OpenLoad) : Bool :=
  let b := l.body.drop l.weightsAt.1
  match l.image with
  | some (.placement p _) => Machine.weightsOk (imageMats p) b
  | some (.adapter a) => Machine.weightsOk (adapterMats a) b && columnsOk a (adapterMats a) b
  | none => true

/-- The next chunk of the open load: checks 5 to 9 as they fall due. -/
def Rood.loadChunk (x : Rood) : Nat × Rood :=
  match x.obj.openLoad with
  | none => (0, x)
  | some l =>
    match imgChunk l.cek l.file l.chunks with
    | none => (stAuth, x)
    | some bs =>
      let l := { l with body := l.body ++ bs, chunks := l.chunks + 1 }
      let r := if l.image.isNone && decide (l.weightsAt.1 ≤ l.body.length) then x.placeLoad l else (0, x.setOpen l)
      if r.1 ≠ 0 then r
      else
        match r.2.obj.openLoad with
        | some l => (if l.weightsOk then 0 else stFormat, r.2)
        | none => r

/-- The first failing status over `n` further chunks. -/
def Rood.loadChunks : (n : Nat) → Rood → Nat × Rood
  | 0, x => (0, x)
  | n + 1, x =>
    let r := x.loadChunk
    if r.1 ≠ 0 then r else Rood.loadChunks n r.2

/-- Whole chunks that the file holds so far. -/
def wholeChunks (f : List Byte) : Nat :=
  if imgFileLen f ≤ f.length then imgChunks f else (f.length - imgClearLen f) / (chunkBytes + 16)

/-- Processes the bytes that a part has added to the open load. A load that fails is abandoned; one that reaches the end of
its file waits to take effect. -/
def Rood.processPart (now : W64) (c : Cmd) (l : OpenLoad) (x : Rood) : Rood :=
  let r := (x.setOpen l).loadChunks (wholeChunks l.file - l.chunks)
  if r.1 ≠ 0 then r.2.abandonLoad.finishLoad now c r.1
  else if l.file.length < imgFileLen l.file then r.2.finishLoad now c stOk
  else if l.file.length = imgFileLen l.file then r.2.setCmd { c with stage := .ready }
  else r.2.abandonLoad.finishLoad now c stAuth

/-- One part of an image: check 2, then checks 3 and 4 of a first part, then its chunks. -/
def Rood.runPartOf (ctx : Ctx) (c : Cmd) (bytes : List Byte) (x : Rood) : Rood :=
  match x.obj.openLoad with
  | some l =>
    let f := l.file ++ bytes
    if imgCutOk f f.length then x.processPart ctx.time c { l with file := f } else x.finishLoad ctx.time c stFormat
  | none =>
    if !imgCutOk bytes bytes.length || !imgHeaderOk c.kind bytes then x.finishLoad ctx.time c stFormat
    else
      match imgUnwrap ctx.dev.boot.dxk bytes with
      | none => x.finishLoad ctx.time c stAuth
      | some k => x.processPart ctx.time c
          { kind := c.kind, slot := c.objSlot, file := bytes, chunks := 0, body := [], cek := k, image := none, frames := [] }

/-- MDL_LOAD when R241 lets it proceed. -/
def Rood.runMdlLoad (ctx : Ctx) (c : Cmd) (x : Rood) : Rood :=
  if x.obj.openLoad.any (fun l => l.kind != c.kind || l.slot != c.objSlot) then x.finishLoad ctx.time c stBadState
  else
    let r := x.readBulk ctx.time c.bulkOff c.bulkLen
    if r.2.1 ≠ 0 then r.1.finishLoad ctx.time c r.2.1 else r.1.runPartOf ctx c r.2.2

/-! ## A change of a loaded image or adapter (R125, R235, R239, R240) -/

/-- Every crew stands between steps, with no boundary event held back. -/
def Rood.betweenSteps (x : Rood) : Bool := x.crews.all (fun k => k.step.isNone && k.held.isNone)

/-- Sequences bound to the slot end at their next boundary, which one in no step has reached (R291 order 3). -/
def Rood.dropBound (now : W64) (kind slot : Nat) (x : Rood) : Rood :=
  let hit := fun (q : Seq) => (x.entry? q.slot).any (fun e => if kind = 0 then e.modelSlot == slot else e.adapterSlot == slot)
  let x := { x with seqs := x.seqs.map (fun q => if hit q then { q with dropped := true } else q) }
  (x.seqs.filter (fun q => q.dropped && !x.inStep q && !x.inHeld q)).foldl (fun x q => x.boundary now q.cmd) x

def Rood.heldImage (kind slot : Nat) (x : Rood) : Option Image :=
  lookKey slot (if kind = 0 then x.obj.models else x.obj.adapters)

def Rood.setImages (kind : Nat) (f : List (Nat × Image) → List (Nat × Image)) (x : Rood) : Rood :=
  if kind = 0 then { x with obj := { x.obj with models := f x.obj.models } }
  else { x with obj := { x.obj with adapters := f x.obj.adapters } }

/-- Empties a slot: the unload event, the object with its CEK and copies, and its crews (R65, R70, R240). -/
def Rood.emptySlot (now : W64) (kind slot : Nat) (x : Rood) : Rood :=
  match x.heldImage kind slot with
  | none => x
  | some im =>
    let x := (x.objectEvent now (0x81 + kind) slot im.digest).giveRoom im.frames
    let x := x.setImages kind (delKey slot)
    if kind = 0 then { x with crews := x.crews.filter (fun k => k.model != slot) } else x

/-- A crew at its formation (R222, R444). -/
def Crew.fresh (now : W64) (m i : Nat) : Crew :=
  { model := m, idx := i, kappaD := 256, kappaP := 256, prefillDuty := false, ranPrefill := false, step := none
    lastEnd := now, rebalance := false, held := none }

/-- The closed load fills its slot. -/
def Rood.fillSlot (now : W64) (l : OpenLoad) (im : ImageKind) (x : Rood) : Rood :=
  let x := x.loadEvent now (1 + l.kind) l.slot (sha384 l.file)
  let i : Image :=
    { kind := im, loadSeq := x.obj.loadSeq, loadTime := now, digest := sha384 l.file, cek := l.cek
      weights := l.body.drop l.weightsAt.1
      freqs := match im with
        | .placement p _ => imageFreqs p
        | .adapter _ => []
      frames := l.frames }
  let x := ({ x with obj := { x.obj with openLoad := none } } : Rood).setImages l.kind (putKey l.slot i)
  match im with
  | .placement _ pl =>
    { x with crews := x.crews ++ (List.range (x.crewCount pl.width)).map (Crew.fresh now l.slot) }
  | .adapter _ => x

/-- The command at the head of the queue, when it waits to take effect and has this opcode. -/
def Rood.readyLoad (op : Nat) (x : Rood) : Option Cmd :=
  (x.obj.queue.head?.bind (fun i => x.cmd? i)).filter (fun c => c.opcode == op && c.stage == .ready)

/-- The closed load takes effect (R239). -/
def Rood.takeLoad (ctx : Ctx) (x : Rood) : Rood :=
  match x.readyLoad 0x10, x.obj.openLoad with
  | some c, some l =>
    (match l.image with
     | some im =>
       if x.betweenSteps then
         let x := (x.emptySlot ctx.time l.kind l.slot).fillSlot ctx.time l im
         ((x.dropBound ctx.time l.kind l.slot).finishLoad ctx.time c stOk).settle ctx
       else x
     | none => x)
  | _, _ => x

/-- MDL_UNLOAD when R241 lets it proceed (R237, R240). -/
def Rood.runUnload (now : W64) (c : Cmd) (x : Rood) : Rood :=
  if x.obj.openLoad.any (fun l => l.kind == c.kind && l.slot == c.objSlot) then x.abandonLoad.finishLoad now c stCancelled
  else if (x.heldImage c.kind c.objSlot).isNone then x.finishLoad now c stBadState
  else x.setCmd { c with stage := .ready }

/-- The unload takes effect (R240). -/
def Rood.takeUnload (ctx : Ctx) (x : Rood) : Rood :=
  match x.readyLoad 0x11 with
  | some c =>
    if x.betweenSteps then
      let x := (x.emptySlot ctx.time c.kind c.objSlot).dropBound ctx.time c.kind c.objSlot
      (x.finishLoad ctx.time c stOk).settle ctx
    else x
  | none => x

/-! ## Table 16.2: a weight copy that no other crew holds -/

/-- The crews of a model slot stand between steps; every crew, for 65,536 + an adapter slot. -/
def Rood.modelIdle (m : Nat) (x : Rood) : Bool :=
  x.crews.all (fun k => (decide (m < 65536) && k.model != m) || (k.step.isNone && k.held.isNone))

/-- Empties the slots that a DRAM error has marked and whose crews stand between steps, as by MDL_UNLOAD. -/
def Rood.emptyMarked (now : W64) (x : Rood) : Rood :=
  (x.obj.emptying.filter (fun m => x.modelIdle m)).foldl (fun x m =>
    let x := { x with obj := { x.obj with emptying := x.obj.emptying.filter (fun n => n != m) } }
    (x.emptySlot now (m / 65536) (m % 65536)).dropBound now (m / 65536) (m % 65536)) x

/-! ## TOK_LOAD (R166 to R169) -/

/-- Releases every replaced table that no command uses; the lexicon caches lose its nodes (R169, R173). -/
def Rood.releaseTables (x : Rood) : Rood :=
  ({ x with obj := { x.obj with
      tables := x.obj.tables.take 1 ++
        (x.obj.tables.drop 1).filter (fun t => x.cmds.any (fun c => c.tokSeq == t.loadSeq)) } } : Rood).lexDrop

/-- The table takes effect: it replaces the one in force. -/
def Rood.putTable (now : W64) (bytes : List Byte) (x : Rood) : Rood :=
  let x := match x.tableNow with
    | some t => x.objectEvent now 0x83 0 t.digest
    | none => x
  let x := x.loadEvent now 0x03 0 (sha384 bytes)
  ({ x with obj := { x.obj with
      tables := { loadSeq := x.obj.loadSeq, loadTime := now, bytes := bytes, digest := sha384 bytes } :: x.obj.tables } } :
    Rood).releaseTables

/-- TOK_LOAD when R241 lets it proceed: its checks, then its effect, or a wait while two tables are held (R169). -/
def Rood.runTokLoad (now : W64) (c : Cmd) (x : Rood) : Rood :=
  let r := x.readBulk now c.bulkOff c.bulkLen
  let x := r.1.releaseTables
  if r.2.1 ≠ 0 then x.finishLoad now c r.2.1
  else if !tokTableOk r.2.2 c.bulkLen then x.finishLoad now c stFormat
  else if 2 ≤ x.obj.tables.length then x.setCmd { c with stage := .running, object := r.2.2 }
  else (x.putTable now r.2.2).finishLoad now c stOk

/-! ## LST_SET (R317 to R322) -/

/-- The version is the newest of its number. -/
def Rood.newest (s : ListSet) (x : Rood) : Bool := (x.listNow s.num).any (fun t => t.loadSeq == s.loadSeq)

/-- Releases every replaced version that no command uses, with the frames of its automaton. -/
def Rood.releaseLists (x : Rood) : Rood :=
  let keep := fun (s : ListSet) => x.newest s || x.cmds.any (fun c => c.listSeq == s.loadSeq)
  ({ x with obj := { x.obj with lists := x.obj.lists.filter keep } } : Rood).giveRoom
    ((x.obj.lists.filter (fun s => !keep s)).flatMap (fun s => s.frames))

/-- Bytes of an automaton's frames, all at position 0 (R321). -/
def automatonNeeds (b : List Byte) : List (Nat × Nat) := [(0, frameBytes * automatonFrames (lstPoolLen b))]

/-- The set takes effect with its automaton in the frames taken for it: it replaces the version in force. -/
def Rood.putList (now : W64) (n : Nat) (bytes : List Byte) (frames : List Nat) (x : Rood) : Rood :=
  let x := match x.listNow n with
    | some s => x.objectEvent now 0x84 n s.digest
    | none => x
  let x := x.loadEvent now 0x04 n (sha384 bytes)
  let q := lstSequences bytes
  let s : ListSet :=
    { num := n, loadSeq := x.obj.loadSeq, loadTime := now, banned := q.1, forced := q.2, pool := lstPool bytes
      bytes := bytes, digest := sha384 bytes, frames := frames }
  ({ x with obj := { x.obj with lists := s :: x.obj.lists } } : Rood).releaseLists

/-- A set number holds two versions (R322). -/
def Rood.twoVersions (n : Nat) (x : Rood) : Bool := decide (2 ≤ (x.obj.lists.filter (fun s => s.num == n)).length)

/-- LST_SET when R241 lets it proceed: its checks and its room, then its effect, or a wait while two versions are held. One that waits
has passed: it keeps what it has read and the frames of its automaton. -/
def Rood.runLstSet (now : W64) (c : Cmd) (x : Rood) : Rood :=
  let n := c.f 16 0 8
  let r := x.readBulk now c.bulkOff c.bulkLen
  let x := r.1.releaseLists
  if r.2.1 ≠ 0 then x.finishLoad now c r.2.1
  else if !lstOk r.2.2 c.bulkLen then x.finishLoad now c stFormat
  else if !x.roomFor (automatonNeeds r.2.2) then x.finishLoad now c stAdmitMem
  else
    let t := x.takeRoom (.automaton n) (automatonNeeds r.2.2)
    if x.twoVersions n then t.2.setCmd { c with stage := .running, object := r.2.2, frames := t.1 }
    else (t.2.putList now n r.2.2 t.1).finishLoad now c stOk

/-! ## The rows -/

/-- A command of the queue proceeds. -/
def Rood.runLoad (ctx : Ctx) (c : Cmd) (x : Rood) : Rood :=
  match c.opcode with
  | 0x10 => x.runMdlLoad ctx c
  | 0x11 => x.runUnload ctx.time c
  | 0x12 => x.runTokLoad ctx.time c
  | _ => x.runLstSet ctx.time c

/-- The open load as a part meets it that is accepted now: its KIND and slot, its first bytes and its length (R237). -/
structure PartPlace where
  kind : Nat
  slot : Nat
  head : List Byte
  len : Nat

/-- The range of the staging region that a part names. -/
def Rood.partBytes (c : Cmd) (x : Rood) : List Byte := memReadN x.staging c.bulkOff c.bulkLen

/-- A load that a command of the queue leaves open, closes or abandons in its turn. -/
def Rood.partAfter (c : Cmd) (p : Option PartPlace) (x : Rood) : Option PartPlace :=
  if c.opcode = 0x10 then
    match p with
    | some q =>
      if q.kind = c.kind ∧ q.slot = c.objSlot then
        (if q.len + c.bulkLen < imgFileLen q.head then some { q with len := q.len + c.bulkLen } else none)
      else p
    | none =>
      let b := x.partBytes c
      if b.length < imgFileLen b then some { kind := c.kind, slot := c.objSlot, head := b, len := b.length } else none
  else if c.opcode = 0x11 then p.filter (fun q => q.kind != c.kind || q.slot != c.objSlot)
  else p

/-- The load that is open once the commands of the queue have had their turn. -/
def Rood.openPlace (x : Rood) : Option PartPlace :=
  let now := (x.obj.openLoad.filter (fun l => decide (l.file.length < imgFileLen l.file))).map (fun l =>
    { kind := l.kind, slot := l.slot, head := l.file, len := l.file.length : PartPlace })
  (x.obj.queue.filterMap (fun i => (x.cmd? i).filter (fun c => c.stage == .waiting))).foldl (fun p c => x.partAfter c p) now

/-- Check 2 of Table 7.10 at acceptance: 0 where the part is allowed under R236 and R237 (R238; log entry 33). -/
def Rood.partCheck (c : Cmd) (x : Rood) : Nat :=
  if c.opcode ≠ 0x10 then 0
  else
    match x.openPlace with
    | some q =>
      if q.kind ≠ c.kind ∨ q.slot ≠ c.objSlot then stBadState
      else if imgCutOk q.head (q.len + c.bulkLen) then 0 else stFormat
    | none => let b := x.partBytes c; if imgCutOk b b.length then 0 else stFormat

/-- A command of R241 is accepted: it fails its checks, proceeds, or waits behind an earlier one. -/
def Rood.judgeLoad (ctx : Ctx) (c : Cmd) (x : Rood) : Rood :=
  let st := if c.loadCheck ≠ 0 then c.loadCheck else x.partCheck c
  let x :=
    if st ≠ 0 then x.fail ctx.time c st
    else
      let first := x.obj.queue.isEmpty
      let x := { x with obj := { x.obj with queue := x.obj.queue ++ [c.id] } }
      if first then x.runLoad ctx c else x.setCmd { c with stage := .waiting }
  x.pump ctx.time

/-- The opcodes of R241. -/
def loadOps : List Nat := [0x10, 0x11, 0x12, 0x13]

/-- MDL_LOAD (R236 to R238). -/
def execMdlLoad (r c : Nat) (s : State) : Result :=
  .next (onRood r (fun ctx x => x.onNext c [0x10] loadOps (fun d x => x.judgeLoad ctx d)) s)

/-- MDL_UNLOAD (R237, R240). -/
def execMdlUnload (r c : Nat) (s : State) : Result :=
  .next (onRood r (fun ctx x => x.onNext c [0x11] loadOps (fun d x => x.judgeLoad ctx d)) s)

/-- TOK_LOAD (R166 to R169). -/
def execTokLoad (r c : Nat) (s : State) : Result :=
  .next (onRood r (fun ctx x => x.onNext c [0x12] loadOps (fun d x => x.judgeLoad ctx d)) s)

/-- LST_SET (R317 to R322). -/
def execLstSet (r c : Nat) (s : State) : Result :=
  .next (onRood r (fun ctx x => x.onNext c [0x13] loadOps (fun d x => x.judgeLoad ctx d)) s)

/-- MDL_LOAD_TAKE_EFFECT (R239): the closed load takes effect between steps of every crew of the rood. -/
def execMdlLoadTakeEffect (r : Nat) (s : State) : Result := .next (onRood r (fun ctx x => x.takeLoad ctx) s)

/-- MDL_UNLOAD_TAKE_EFFECT (R240): the unload takes effect between steps of every crew of the rood. -/
def execMdlUnloadTakeEffect (r : Nat) (s : State) : Result := .next (onRood r (fun ctx x => x.takeUnload ctx) s)

/-- The head of the queue waits for the release of a replaced table or version. -/
def Rood.waitingLoad (op : Nat) (x : Rood) : Option Cmd :=
  (x.obj.queue.head?.bind (fun i => x.cmd? i)).filter (fun c => c.opcode == op && c.stage == .running)

/-- TOKENIZER_TABLE_RELEASE (R169): the last command that used a replaced table has completed. -/
def execTokenizerTableRelease (r : Nat) (s : State) : Result :=
  .next (onRood r (fun ctx x => match x.waitingLoad 0x12 with
    | some c =>
      let x := x.releaseTables
      if 2 ≤ x.obj.tables.length then x else ((x.putTable ctx.time c.object).finishLoad ctx.time c stOk).pump ctx.time
    | none => x.releaseTables) s)

/-- LIST_SET_VERSION_RELEASE (R322): the last command that used a replaced version of set `set` has completed. -/
def execListSetVersionRelease (r set : Nat) (s : State) : Result :=
  .next (onRood r (fun ctx x => match (x.waitingLoad 0x13).filter (fun c => c.f 16 0 8 == set) with
    | some c =>
      let x := x.releaseLists
      if x.twoVersions set then x else ((x.putList ctx.time set c.object c.frames).finishLoad ctx.time c stOk).pump ctx.time
    | none => x.releaseLists) s)

/-- LOAD_QUEUE_ADVANCE (R241): the next command of the queue proceeds once the one before it has completed. -/
def execLoadQueueAdvance (r : Nat) (s : State) : Result :=
  .next (onRood r (fun ctx x => match (x.obj.queue.head?.bind (fun i => x.cmd? i)) with
    | some c => if c.stage = .waiting then (x.runLoad ctx c).pump ctx.time else x
    | none => x) s)

/-- Frames that a running checkpoint still has to copy: those of its sessions and of its vector indexes (R407). -/
def CkpRun.holdsFrame (a : Nat) (r : CkpRun) : Bool :=
  r.next.numbers.any (fun q => q.1 == a && r.next.image.frames.any (fun f => f.num == q.2)) ||
    r.next.image.vectors.any (fun v => v.index.nodeFrames.contains a || v.index.tableFrames.contains a || v.index.rootFrame == a)

/-- Frames whose zeroing may end now: all but those that a running checkpoint still has to copy (R247, R407). -/
def Rood.zeroable (x : Rood) : List Nat := x.kv.zeroing.filter (fun a => !x.ckp.run.any (fun r => r.holdsFrame a))

/-- A frame that returns to the pool loses its record frame number (R412). -/
def CkpRef.forget (z : List Nat) (r : CkpRef) : CkpRef := { r with numbers := r.numbers.filter (fun q => !z.contains q.1) }

/-- Freed frames are zero and return to the frame pool (R247). -/
def Rood.poolFrames (z : List Nat) (x : Rood) : Rood :=
  { x with
    kv := { x.kv with zeroing := x.kv.zeroing.filter (fun a => !z.contains a) }
    ckp := { x.ckp with
      ref := x.ckp.ref.map (fun r => r.forget z)
      run := x.ckp.run.map (fun r => { r with next := r.next.forget z }) } }

/-- FRAME_ZEROED (R247): freed frames are zero and return to the frame pool. -/
def execFrameZeroed (r : Nat) (s : State) : Result := .next (onRood r (fun _ x => x.poolFrames x.zeroable) s)

end Sys2Proof.Machine
end

