-- ==== Sys2Proof/Machine/VecGraph.lean ====
section
/-! DEFINITION. The proximity graph of a vector index (chapter 12): records, prepared vectors, scores, the search, inserting,
deleting, compaction and the merge of shards. -/
namespace Sys2Proof.Machine
open Sys2Proof

/-! ## Records (R339 to R344, Tables 12.2 to 12.4) -/

/-- VB. -/
def vecBytes (fmt dim : Nat) : Nat := if fmt = 0 then 4 * dim else if fmt = 3 then 34 * dim / 32 else 2 * dim

/-- RS. -/
def recBytes (fmt dim degree : Nat) : Nat := 64 * ceilDiv (64 + vecBytes fmt dim + 8 * degree) 64

/-- NPF. -/
def nodesPerFrame (fmt dim degree : Nat) : Nat := 65536 / recBytes fmt dim degree

def VecIndex.perFrame (v : VecIndex) : Nat := nodesPerFrame v.elemFmt v.dim v.degree

/-- A free record (R343). -/
def Node.free (gen : Nat) : Node :=
  { element := 0, gen := gen, state := .free, insCommit := 0, delCommit := 0, version := 0, norm2 := 0, vector := [], adj := [] }

def VecIndex.node (s : Nat) (v : VecIndex) : Node := (lookKey s v.nodes).getD (Node.free 1)

def VecIndex.setNode (s : Nat) (n : Node) (v : VecIndex) : VecIndex :=
  { v with nodes := if n = Node.free 1 then delKey s v.nodes else putKey s n v.nodes }

def VecIndex.edgeTo (s : Nat) (v : VecIndex) : Edge := { gen := (v.node s).gen, slot := s }

/-- R342. -/
def VecIndex.stale (v : VecIndex) (g : Edge) : Bool := (v.node g.slot).gen != g.gen || (v.node g.slot).state == .free

/-- Edges of a node that are not stale. -/
def VecIndex.valid (v : VecIndex) (n : Node) : List Edge := n.adj.filter (fun g => !v.stale g)

/-- The slot lies in a damaged frame (R462). -/
def VecIndex.lost (s : Nat) (v : VecIndex) : Bool := v.damagedFrames.contains (s / max v.perFrame 1)

def VecIndex.live (v : VecIndex) : Nat := (v.nodes.filter (fun p => p.2.state == .live)).length
def VecIndex.tombs (v : VecIndex) : Nat := (v.nodes.filter (fun p => p.2.state == .tombstoned)).length
def VecIndex.freeSlots (v : VecIndex) : Nat := v.capacity - v.live - v.tombs

/-- The root image in force: the one of greater SERIAL (R344). -/
def VecIndex.root (v : VecIndex) : RootImage := if v.rootA.serial < v.rootB.serial then v.rootB else v.rootA

/-- A change of the root writes the other image with the next SERIAL (R344). -/
def VecIndex.putRoot (f : RootImage → RootImage) (v : VecIndex) : VecIndex :=
  let n := { f v.root with serial := v.root.serial + 1 }
  if v.rootA.serial < v.rootB.serial then { v with rootA := n } else { v with rootB := n }

/-- The root with its counts taken afresh, and a given COMMIT. -/
def VecIndex.commit (c : Nat) (v : VecIndex) : VecIndex :=
  v.putRoot (fun r => { r with commit := c, live := v.live, tombs := v.tombs, free := v.freeSlots })

def Edge.bytes (g : Edge) : List Byte := leBytes 4 g.slot ++ leBytes 2 g.gen ++ zeros 2

def NodeState.code : NodeState → Nat
  | .free => 0
  | .live => 1
  | .tombstoned => 2

/-- The record of a node (Table 12.2). -/
def Node.bytes (fmt dim degree : Nat) (n : Node) : List Byte :=
  padTo (recBytes fmt dim degree) (leBytes 4 n.element ++ leBytes 4 (n.gen ||| n.state.code <<< 16 ||| n.adj.length <<< 24) ++
    leBytes 8 n.insCommit ++ leBytes 8 n.delCommit ++ leBytes 8 n.version.toNat ++ leBytes 4 n.norm2.toNat ++ zeros 28 ++
    padTo (vecBytes fmt dim) n.vector ++ n.adj.flatMap Edge.bytes)

/-- A root image (Table 12.4). -/
def VecIndex.rootBytes (r : RootImage) (v : VecIndex) : List Byte :=
  leBytes 4 0x5845444E ++ leBytes 4 (v.num ||| v.elemFmt <<< 4 ||| v.metric <<< 8 ||| v.dim <<< 16) ++ leBytes 4 v.degree ++
    leBytes 4 v.capacity ++ leBytes 8 r.commit ++ (match r.entry with
      | some g => g.bytes
      | none => zeros 8) ++ leBytes 4 r.live ++ leBytes 4 r.tombs ++ leBytes 4 r.free ++ zeros 4 ++ leBytes 8 r.serial ++
    zeros 72

/-! ## Vectors (R345) -/

/-- tsum of the squares. -/
def squares (v : List Nat) : Nat := tsum (v.map (fun x => fmul x x))

/-- Step 1: a unit vector for METRIC 1. -/
def prepared (metric : Nat) (v : List Nat) : List Nat :=
  if metric ≠ 1 then v
  else
    let ss := squares v
    if ss = 0 then v.map (fun _ => 0) else v.map (fun x => fmul x (frsqrt ss))

/-- One Q8 block: codes, then the FP16 scale. -/
def q8Block (x : List Nat) : List Byte :=
  let r := quantInt 127 x
  r.1.map (fun c => byteOf (fieldOf 8 c)) ++ leBytes 2 r.2

/-- Step 2: the stored form. -/
def storedVec (fmt : Nat) (v : List Nat) : List Byte :=
  match fmt with
  | 0 => v.flatMap (leBytes 4)
  | 1 => v.flatMap (fun x => leBytes 2 (frnd bf16 (d32 x)))
  | 2 => v.flatMap (fun x => leBytes 2 (frnd fp16 (d32 x)))
  | _ => (groups 32 v).flatMap q8Block

def q8Read (bs : List Byte) : Blk := .int ((bs.take 32).map (fun b => signedOf 8 b.toNat)) (fdec fp16 (u16At 32 bs))

/-- The stored elements as FP32 codes. -/
def readVec (fmt : Nat) (bs : List Byte) : List Nat :=
  match fmt with
  | 0 => (chunks 4 bs).map leVal
  | 1 => (halfwords bs).map bfTo32
  | 2 => (halfwords bs).map (fun h => r32 (fdec fp16 h))
  | _ => (chunks 34 bs).flatMap (fun b => (q8Read b).elems)

/-! ## Scores (R346, Table 12.5) -/

/-- A sum over blocks of 32 of a sum over their elements. -/
def blockSum (l : List Nat) : Nat := tsum ((groups 32 l).map tsum)

def innerScore (fmt : Nat) (q : List Nat) (bs : List Byte) : Nat :=
  if fmt = 3 then tsum (((chunks 34 bs).map q8Read).zipWith blkDot (quantVec .a8 q))
  else blockSum (q.zipWith fmul (readVec fmt bs))

def distScore (q x : List Nat) : Nat :=
  blockSum (q.zipWith (fun a b => let d := fadd a (fneg b); fmul d d) x)

def VecIndex.score (v : VecIndex) (q : List Nat) (n : Node) : Nat :=
  if v.metric ≠ 2 then innerScore v.elemFmt q n.vector
  else if v.elemFmt = 3 then
    fadd (fadd (squares q) n.norm2.toNat) (fneg (fmul 0x40000000 (innerScore 3 q n.vector)))
  else distScore q (readVec v.elemFmt n.vector)

/-- METRIC 2 ranks the smallest first. -/
def VecIndex.smallest (v : VecIndex) : Bool := v.metric == 2

/-- The key of a score under R297; none for a NaN. -/
def VecIndex.keyOf (v : VecIndex) (s : Nat) : Option Nat := selKey v.smallest s

/-! ## The search (R349) -/

/-- An entry of the search queue. -/
structure SEnt where
  key : Nat
  slot : Nat
  score : Nat
  done : Bool
  deriving DecidableEq, Repr

/-- Higher key first, then the lower slot. -/
def insertEnt (a : SEnt) : List SEnt → List SEnt
  | [] => [a]
  | b :: l => if b.key < a.key ∨ (a.key = b.key ∧ a.slot < b.slot) then a :: b :: l else b :: insertEnt a l

/-- A search in progress: its queue best first, the slots seen, the slots scored, NaNs and expansions. -/
structure Search where
  queue : List SEnt
  seen : List Nat
  scored : List Nat
  nans : Nat
  rounds : Nat
  deriving DecidableEq, Repr

/-- Scores a slot and enters it; a queue of more than `l` entries loses its last. -/
def VecIndex.enter (v : VecIndex) (q : List Nat) (l slot : Nat) (s : Search) : Search :=
  let sc := v.score q (v.node slot)
  let s := { s with scored := slot :: s.scored }
  match v.keyOf sc with
  | none => { s with nans := s.nans + 1 }
  | some k => { s with queue := (insertEnt { key := k, slot := slot, score := sc, done := false } s.queue).take l }

/-- One edge of an expanded entry. -/
def VecIndex.follow (v : VecIndex) (trav : Nat → Bool) (q : List Nat) (l : Nat) (s : Search) (g : Edge) : Search :=
  if v.stale g || !trav g.slot || s.seen.contains g.slot then s
  else v.enter q l g.slot { s with seen := g.slot :: s.seen }

/-- Expands the best entry that is not yet expanded, while there is one. -/
def VecIndex.expand (v : VecIndex) (trav : Nat → Bool) (q : List Nat) (l : Nat) : (fuel : Nat) → Search → Search
  | 0, s => s
  | f + 1, s =>
    match s.queue.find? (fun e => !e.done) with
    | none => s
    | some e =>
      let s := { s with
        queue := s.queue.map (fun d => if d.slot == e.slot then { d with done := true } else d), rounds := s.rounds + 1 }
      v.expand trav q l f ((v.node e.slot).adj.foldl (v.follow trav q l) s)

/-- search(q, C, L) without its test of visibility: every queue entry. `trav` says which slots are traversable. A NaN score of ENTRY is
not entered, and it is not among the NaNs that the search counts. -/
def VecIndex.search (v : VecIndex) (trav : Nat → Bool) (q : List Nat) (l : Nat) : Search :=
  let none' : Search := { queue := [], seen := [], scored := [], nans := 0, rounds := 0 }
  match v.root.entry with
  | none => none'
  | some e =>
    if v.stale e || !trav e.slot then none'
    else v.expand trav q l (v.nodes.length + 1) { v.enter q l e.slot { none' with seen := [e.slot] } with nans := 0 }

/-- R348, and R462 for a damaged frame. -/
def VecIndex.traversable (c : Nat) (v : VecIndex) (s : Nat) : Bool :=
  let n := v.node s
  n.state != .free && decide (n.insCommit ≤ c) && !v.lost s

def Node.visible (c : Nat) (n : Node) : Bool :=
  n.state != .free && decide (n.insCommit ≤ c) && (n.delCommit == 0 || decide (c < n.delCommit))

/-- One query of a sweep at COMMIT `c`: its visible entries, best first, its NaNs, the slots scored and the expansions. -/
structure Answer where
  hits : List VecHit
  nans : Nat
  scored : List Nat
  rounds : Nat
  deriving DecidableEq, Repr

def VecIndex.hit (v : VecIndex) (e : SEnt) : VecHit :=
  { element := (v.node e.slot).element, score := BitVec.ofNat 32 e.score, version := (v.node e.slot).version }

def VecIndex.answer (v : VecIndex) (c l : Nat) (raw : List Nat) : Answer :=
  let s := v.search (v.traversable c) (prepared v.metric raw) l
  { hits := (s.queue.filter (fun e => (v.node e.slot).visible c)).map v.hit, nans := s.nans, scored := s.scored
    rounds := s.rounds }

/-! ## Inserting (R358) -/

/-- The edges that prune keeps: candidates best first for `a`, each closer to `a` than to any edge kept before. -/
def VecIndex.pruneSlots (v : VecIndex) (a : Node) (cand : List Nat) : List Nat :=
  let qa := readVec v.elemFmt a.vector
  let ranked := cand.eraseDups.foldl (fun l s => match v.keyOf (v.score qa (v.node s)) with
    | some k => insertEnt { key := k, slot := s, score := 0, done := false } l
    | none => l) ([] : List SEnt)
  ranked.foldl (fun (sel : List Nat) y =>
    if v.degree ≤ sel.length then sel
    else
      let near := fun (z : Nat) =>
        match v.keyOf (v.score (readVec v.elemFmt (v.node z).vector) (v.node y.slot)) with
        | some k => decide (y.key < k)
        | none => false
      if sel.any near then sel else sel ++ [y.slot]) []

def VecIndex.prune (v : VecIndex) (a : Node) (cand : List Nat) : List Edge := (v.pruneSlots a cand).map (fun s => v.edgeTo s)

def VecIndex.modNode (s : Nat) (f : Node → Node) (v : VecIndex) : VecIndex := v.setNode s (f (v.node s))

/-- The live node of an element that no tombstone names. -/
def VecIndex.holder (id : Nat) (v : VecIndex) : Option Nat :=
  (v.nodes.find? (fun p => p.2.state == .live && p.2.delCommit == 0 && p.2.element == id)).map (fun p => p.1)

/-- Tombstones the live node of an element; the flag says whether there was one. -/
def VecIndex.tombstone (id c : Nat) (v : VecIndex) : VecIndex × Bool :=
  match v.holder id with
  | some s => (v.modNode s (fun n => { n with delCommit := c, state := .tombstoned }), true)
  | none => (v, false)

/-- The lowest free slot. -/
def VecIndex.lowestFree (v : VecIndex) : Nat :=
  ((List.range (v.nodes.length + 1)).find? (fun s => (v.node s).state == .free)).getD v.nodes.length

/-- Adds the reverse edge from `t` to `s`. -/
def VecIndex.reverse (s t : Nat) (v : VecIndex) : VecIndex :=
  let n := v.node t
  if n.adj.length < v.degree then v.modNode t (fun n => { n with adj := n.adj ++ [v.edgeTo s] })
  else v.modNode t (fun n => { n with adj := v.prune n ((v.valid n).map (fun g => g.slot) ++ [s]) })

/-- An item of a batch: its element, its version and its FP32 vector. -/
structure VecItem where
  element : Nat
  version : W64
  vector : List Nat
  deriving DecidableEq, Repr

/-- insert(x, id, ver, c). -/
def VecIndex.insert (c : Nat) (v : VecIndex) (i : VecItem) : VecIndex :=
  let v := (v.tombstone i.element c).1
  let s := v.lowestFree
  let x := prepared v.metric i.vector
  let st := storedVec v.elemFmt x
  let v := v.modNode s (fun n => { n with
    element := i.element, state := .live, insCommit := c, delCommit := 0, version := i.version
    norm2 := BitVec.ofNat 32 (squares (readVec v.elemFmt st)), vector := st, adj := [] })
  match v.root.entry with
  | none => v.putRoot (fun r => { r with entry := some (v.edgeTo s) })
  | some _ =>
    let found := (v.search (v.traversable c) x (max 64 (2 * v.degree))).queue
    let cand := (found.map (fun e => e.slot)).filter (fun t => t != s && (v.node t).delCommit == 0)
    let adj := v.prune (v.node s) cand
    let v := v.modNode s (fun n => { n with adj := adj })
    adj.foldl (fun v g => v.reverse s g.slot) v

/-! ## Compaction (R361) -/

/-- Edges of `y` that survive the freeing of the slots `f`, repaired when `y` is live. -/
def VecIndex.repair (f : List Nat) (v : VecIndex) (y : Nat) : VecIndex :=
  let n := v.node y
  if n.adj.any (fun g => v.stale g || f.contains g.slot) then
    if n.state = .live then
      let own := (v.valid n).map (fun g => g.slot)
      let far := (own.filter (fun s => f.contains s)).flatMap (fun s => (v.valid (v.node s)).map (fun g => g.slot))
      let cand := (own ++ far).filter (fun s => s != y && !f.contains s)
      v.modNode y (fun n => { n with adj := v.prune n cand })
    else v.modNode y (fun n => { n with adj := n.adj.filter (fun g => !(v.stale g || f.contains g.slot)) })
  else v

/-- Frees a slot (R343). -/
def VecIndex.freeNode (v : VecIndex) (s : Nat) : VecIndex := v.setNode s (Node.free ((v.node s).gen % 65535 + 1))

/-- compact(): the index and FREED. -/
def VecIndex.compact (cmin : Nat) (v : VecIndex) : VecIndex × Nat :=
  let f := (v.nodes.filter (fun p => p.2.state == .tombstoned && decide (p.2.delCommit ≤ cmin))).map (fun p => p.1)
  let rest := (v.nodes.filter (fun p => p.2.state != .free && !f.contains p.1)).map (fun p => p.1)
  let v := rest.foldl (VecIndex.repair f) v
  let v := f.foldl VecIndex.freeNode v
  let lost := v.root.entry.any (fun g => f.contains g.slot)
  let low := (v.nodes.find? (fun p => p.2.state == .live)).map (fun p => v.edgeTo p.1)
  (if lost then v.putRoot (fun r => { r with entry := low }) else v, f.length)

/-! ## Results (R350, R354, R367, Table 12.6) -/

def VecHit.bytes (h : VecHit) : List Byte :=
  leBytes 4 h.element ++ leBytes 4 h.score.toNat ++ leBytes 8 h.version.toNat

def vecPadding : List Byte := leBytes 4 0xFFFFFFFF ++ zeros 12

/-- The header of a selection (Table 10.2). -/
def SelResult.bytes (r : SelResult) : List Byte :=
  leBytes 4 r.offered ++ leBytes 4 r.valid ++ leBytes 4 r.nans ++ leBytes 4 (r.k ||| r.taken.length <<< 16) ++
    leBytes 4 r.tieCount ++ leBytes 4 r.tieTaken ++ leBytes 4 r.mass ++ leBytes 4 r.left

/-- The selection of a query's entries with k = K, with the NaNs of its search (R350). -/
def selectHits (smallest : Bool) (k nans : Nat) (hits : List VecHit) : List VecHit × SelResult :=
  let r := select smallest k (hits.map (fun h => (h.element, h.score.toNat)))
  (r.taken.filterMap (fun e => hits.find? (fun h => h.element == e.idx)),
    { r with offered := r.offered + nans, nans := r.nans + nans })

/-- The better of two entries of one element: greater VERSION, then higher key. -/
def betterHit (smallest : Bool) (a b : VecHit) : VecHit :=
  if a.version.toNat < b.version.toNat then b
  else if b.version.toNat < a.version.toNat then a
  else if (selKey smallest a.score.toNat).getD 0 < (selKey smallest b.score.toNat).getD 0 then b else a

/-- Keeps one entry for each element. -/
def mergeHits (smallest : Bool) (l : List VecHit) : List VecHit :=
  l.foldl (fun out h =>
    if out.any (fun o => o.element == h.element) then
      out.map (fun o => if o.element == h.element then betterHit smallest o h else o)
    else out ++ [h]) []

end Sys2Proof.Machine
end

