-- ==== Sys2Proof/Machine/Vectors.lean ====
section
/-! DEFINITION. The vector commands of a rood (chapter 12): creation, batches, sweeps, shards on a chain, compaction and
removal, with the order that Table 12.8 gives the commands of one index; and what an ATS invalidation does (R148). -/
namespace Sys2Proof.Machine
open Sys2Proof

/-! ## Descriptor fields (Table 4.6) -/

def Cmd.isVec (c : Cmd) : Bool := decide (0x20 ≤ c.opcode) && decide (c.opcode ≤ 0x25)

/-- A serial command of Table 12.8. -/
def Cmd.isSerial (c : Cmd) : Bool := c.isVec && c.opcode != 0x23

def Cmd.index (c : Cmd) : Nat := c.f 16 0 2
def Cmd.items (c : Cmd) : Nat := c.f 20 0 32
def Cmd.sharded (c : Cmd) : Bool := c.f 16 8 1 == 1
def Cmd.vecK (c : Cmd) : Nat := c.f 20 0 16
def Cmd.vecL (c : Cmd) : Nat := c.f 20 16 16
def Cmd.queries (c : Cmd) : Nat := c.f 24 0 16
def Cmd.resultLen (c : Cmd) : Nat := c.f 28 0 32
def Cmd.queryOff (c : Cmd) : Nat := c.f 32 0 64
def Cmd.resultAddr (c : Cmd) : Nat := c.f 40 0 64
def Cmd.queryLen (c : Cmd) : Nat := c.f 48 0 32

/-! ## Checks 2 to 4 that need no index (R337, R338, R353, R356, R360, R145) -/

/-- Legal values of Table 12.1; an all-ones count is left to check 3 (R338). -/
def Cmd.createOk (c : Cmd) : Bool :=
  let dim := c.f 20 0 16
  let deg := c.f 20 16 16
  let cap := c.f 24 0 32
  decide (c.f 16 4 4 ≤ 3) && decide (c.f 16 8 4 ≤ 2) &&
    (dim == 0xFFFF || (decide (32 ≤ dim) && decide (dim ≤ 4096) && dim % 32 == 0)) &&
    (deg == 0xFFFF || (decide (8 ≤ deg) && decide (deg ≤ 64) && deg % 8 == 0)) &&
    (cap == 0xFFFFFFFF || (decide (1 ≤ cap) && decide (cap ≤ 16777216)))

/-- Check 2 over the fields of a vector command; `outOk` says whether a result buffer translates. -/
def Cmd.vecFormat (c : Cmd) (outOk : Bool) : Bool :=
  c.wellFormed &&
    (match c.opcode with
     | 0x20 => c.createOk
     | 0x22 => decide (c.bulkLen ≤ 4 * c.items)
     | 0x23 => c.vecK != 0 && c.vecL != 0 && decide (c.vecK ≤ c.vecL) && c.resultAddr % 8 == 0 &&
        (outOk || !hostSpan c.resultAddr c.resultLen)
     | _ => true)

/-- Check 3. -/
def Cmd.vecLength (c : Cmd) : Bool :=
  let bulk := decide (c.bulkOff + c.bulkLen ≤ bulkSize)
  match c.opcode with
  | 0x20 => c.f 20 0 16 != 0xFFFF && c.f 20 16 16 != 0xFFFF && c.f 24 0 32 != 0xFFFFFFFF
  | 0x21 => c.items != 0xFFFFFFFF && bulk
  | 0x22 => c.items != 0xFFFFFFFF && bulk && decide (4 * c.items ≤ c.bulkLen)
  | 0x23 => c.vecK != 0xFFFF && decide (c.vecL ≤ 1024) && decide (c.queries ≤ 256) && c.resultLen != 0xFFFFFFFF &&
      c.queryLen != 0xFFFFFFFF && decide (16 * c.queries * c.vecK ≤ c.resultLen) && hostSpan c.resultAddr c.resultLen &&
      decide (c.queryOff + c.queryLen ≤ bulkSize)
  | _ => true

/-- Check 4 (R337). -/
def Cmd.vecLicence (ctx : Ctx) (c : Cmd) : Bool :=
  ctx.vectorOk && ctx.licence.any (fun l => decide (c.index < l.indexes)) && (c.opcode != 0x23 || !c.sharded || ctx.chainOk)

/-- The ids of a VEC_DELETE. -/
def vecIds (bs : List Byte) : List Nat := (chunks 4 bs).map leVal

/-- The ids of a VEC_DELETE are legal (check 2, R360). -/
def Rood.idsLegal (c : Cmd) (x : Rood) : Bool :=
  c.opcode != 0x22 || c.bulkLen != 4 * c.items || decide (bulkSize < c.bulkOff + c.bulkLen) ||
    (vecIds (memReadN x.staging c.bulkOff c.bulkLen)).all (fun i => i != 0xFFFFFFFF)

/-- The status of the first of these checks that fails; 0 where they pass. -/
def Rood.vecCheck (ctx : Ctx) (c : Cmd) (outOk : Bool) (x : Rood) : Nat :=
  if !c.vecFormat outOk || !x.idsLegal c then stFormat
  else if !c.vecLength then stLength
  else if !c.vecLicence ctx then stNotLicensed
  else 0

/-! ## Indexes and operations of a rood -/

def Rood.vec? (n : Nat) (x : Rood) : Option VecIndex := x.vecs.find? (fun v => v.num == n)

def Rood.setVec (v : VecIndex) (x : Rood) : Rood :=
  { x with vecs := x.vecs.map (fun w => if w.num == v.num then v else w) }

def Rood.vecOp? (cmd : Nat) (x : Rood) : Option VecOp := x.vecOps.find? (fun o => o.cmd == cmd)

def Rood.setVecOp (o : VecOp) (x : Rood) : Rood :=
  { x with vecOps := x.vecOps.map (fun p => if p.cmd == o.cmd then o else p) }

def Rood.dropVecOp (cmd : Nat) (x : Rood) : Rood := { x with vecOps := x.vecOps.filter (fun o => o.cmd != cmd) }

/-- The mutation that runs on an index. -/
def Rood.mutation (n : Nat) (x : Rood) : Option VecOp := x.vecOps.find? (fun o => !o.sweep && o.index == n)

/-- The command is a query of a damaged index: it completes with FLAGGED 1 (R462). -/
def Rood.flagsVec (c : Cmd) (x : Rood) : Bool := c.opcode == 0x23 && (x.vec? c.index).any (fun v => v.damaged)

/-- Ends a vector command with a record. -/
def Rood.endVec (now : W64) (c : Cmd) (r : CRec) (x : Rood) : Rood :=
  let r := { r with flagged := r.flagged || x.flagsVec c }
  (({ x with vecQueue := x.vecQueue.filter (fun i => i != c.id) } : Rood).dropVecOp c.id).complete now c r

def Rood.failVec (now : W64) (c : Cmd) (status : Nat) (x : Rood) : Rood := x.endVec now c (c.record status)

/-- An earlier-accepted command of the same index that this one waits for (Table 12.8, R364). -/
def Rood.vecBehind (c : Cmd) (x : Rood) : Bool :=
  x.cmds.any (fun d => decide (d.id < c.id) && d.isVec && d.index == c.index &&
    (d.isSerial || c.opcode == 0x20 || c.opcode == 0x25))

/-- An earlier-accepted VEC_DROP of the same index. -/
def Rood.dropAhead (c : Cmd) (x : Rood) : Bool :=
  x.cmds.any (fun d => decide (d.id < c.id) && d.opcode == 0x25 && d.index == c.index)

/-! ## VEC_CREATE (R338 to R340) -/

/-- R250 with a given u. -/
def Kv.allocFrom (w u : Nat) (use : FrameUse) (k : Kv) : Option (Nat × Kv) :=
  match (List.range (64 * w)).findSome? (fun n =>
      let v := (u + n) % (64 * w)
      k.chanFree (v % w) (v / w)) with
  | some key => some (key, k.putFrame key { refs := 1, use := use, data := [] })
  | none => none

/-- Frames numbered from `a`, `n` of them (R340). -/
def Kv.vecFrames (w x : Nat) (use : FrameUse) : (n a : Nat) → Kv → List Nat × Kv
  | 0, _, k => ([], k)
  | n + 1, a, k =>
    match k.allocFrom w ((a + 131 * x) % (64 * w)) use with
    | some (key, k) => let r := Kv.vecFrames w x use n (a + 1) k; (key :: r.1, r.2)
    | none => ([], k)

/-- Node frames and id-table frames of an index (R339). -/
def vecFrameCounts (fmt dim degree cap : Nat) : Nat × Nat :=
  (ceilDiv cap (nodesPerFrame fmt dim degree), ceilDiv (16 * cap) 65536)

/-- A fresh index over the frames that it reserves. -/
def Kv.newIndex (w num fmt metric dim degree cap : Nat) (k : Kv) : VecIndex × Kv :=
  let n := vecFrameCounts fmt dim degree cap
  let a := k.vecFrames w num (.vecNode num) n.1 0
  let b := a.2.vecFrames w num (.vecRoot num) 1 0x01000000
  let c := b.2.vecFrames w num (.vecTable num) n.2 0x01000001
  let root : RootImage := { commit := 0, entry := none, live := 0, tombs := 0, free := cap, serial := 1 }
  ({ num := num, elemFmt := fmt, metric := metric, dim := dim, degree := degree, capacity := cap, rootA := root
     rootB := { root with free := 0, serial := 0 }, nodes := [], nodeFrames := a.1, tableFrames := c.1
     rootFrame := b.1.headD 0, damaged := false, damagedFrames := [] }, c.2)

def Rood.addVec (v : VecIndex) (x : Rood) : Rood := { x with vecs := x.vecs ++ [v] }

/-- VEC_CREATE when its turn has come. -/
def Rood.runCreate (now : W64) (c : Cmd) (x : Rood) : Rood :=
  let fmt := c.f 16 4 4
  let n := vecFrameCounts fmt (c.f 20 0 16) (c.f 20 16 16) (c.f 24 0 32)
  if (x.vec? c.index).isSome then x.failVec now c stBadState
  else if x.framesOpen < n.1 + n.2 + 1 then x.failVec now c stAdmitMem
  else
    let r := x.kv.newIndex x.width c.index fmt (c.f 16 8 4) (c.f 20 0 16) (c.f 20 16 16) (c.f 24 0 32)
    (({ x with kv := r.2 } : Rood).addVec r.1).failVec now c stOk

/-! ## Embeddings of sessions (R369, R370) -/

/-- The store with the frames and lines of one session alone, so that a pass that keeps nothing finds room for its own. -/
def Kv.aside (pos : Nat) (g : KvGeom) (table s : Nat) (k : Kv) : Kv :=
  let fs := (k.sessionFrames pos g table s).map (fun f => f.key)
  let ls := k.sessionLines pos g table s
  { k with frames := k.frames.filter (fun p => fs.contains p.1), lines := k.lines.filter (fun p => ls.contains p.1), zeroing := [] }

/-- The final norm at the pending position of a session (R201, R369), and the context units of its layers. -/
def Rood.embedding (slot : Nat) (e : Entry) (im : Image) (p : Params) (x : Rood) : List Nat × List Nat :=
  let pos := slot % x.width
  let k := x.kv.aside pos e.geom e.dirRoot.toNat e.stored
  match k.grow x.width slot e.geom e.dirRoot.toNat e.stored e.length with
  | none => ([], [])
  | some (t, k) =>
    let m := x.fwdOf im p e
    let r := m.pass { pos := pos, g := e.geom, table := t, stored := e.length } e.pendingToken (e.length - 1) true k
    (rmsnorm p r.x (matVec p im.weights 0xFF 0x11), r.att.reverse.map ctxUnits)

/-- The session that an item names, with its image. -/
def Rood.embedSource (handle : Nat) (x : Rood) : Option (Nat × Entry × Image × Params × Placement) :=
  (x.entry? (handleSlot handle)).bind (fun e => (x.boundImage e).map (fun q => (handleSlot handle, e, q.1, q.2.1, q.2.2)))

/-- R370: the status of an item that takes an embedding. -/
def Rood.embedCheck (dim handle : Nat) (x : Rood) : Nat :=
  if !x.validHandle handle then stBadHandle
  else
    match x.entry? (handleSlot handle) with
    | none => stBadHandle
    | some e =>
      if e.state = SesState.suspect then stSuspect
      else if e.state ≠ SesState.resident ∨ e.length = 0 then stBadState
      else
        match x.boundImage e with
        | none => stBadState
        | some q => if q.2.1.hidden ≠ dim then stFormat else 0

/-- Takes an embedding: one step of class 2 without logits, whose price its session pays (R231, R369, R446). -/
def Rood.takeEmbedding (handle : Nat) (x : Rood) : Rood × List Nat :=
  match x.embedSource handle with
  | none => (x, [])
  | some (slot, e, im, p, pl) =>
    let r := x.embedding slot e im p
    let pt : Part := { cmd := 0, slot := slot, first := e.length - 1, count := 1, decode := false, inject := false }
    let x := x.modEntry slot (fun e => { e with grains := e.grains + stepCharge pl false 1 pt r.2 })
    (((x.countSlice 0 11 1).countSlice 0 12 1), r.1)

/-! ## VEC_INSERT and VEC_DELETE (R347, R356 to R360) -/

/-- Bytes of an insert item. -/
def itemBytes (dim : Nat) : Nat := 16 + 4 * dim

/-- R356 over one item. -/
def itemOk (dim : Nat) (b : List Byte) : Bool :=
  let src := u32At 4 b
  u32At 0 b != 0xFFFFFFFF && decide (src ≤ 1) &&
    (if src = 1 then allZero (b.drop 20) else ((chunks 4 (cut 16 (4 * dim) b)).map leVal).all isFinite32)

/-- The status of the first item whose session fails R370. -/
def Rood.itemsCheck (dim : Nat) (items : List (List Byte)) (x : Rood) : Nat :=
  ((items.filter (fun b => u32At 4 b == 1)).map (fun b => x.embedCheck dim (u32At 16 b))).find? (fun s => s != 0) |>.getD 0

/-- The items with their vectors, taken from the batch or from the models. -/
def Rood.readItems (dim : Nat) (items : List (List Byte)) (x : Rood) : Rood × List VecItem :=
  items.foldl (fun r b =>
    let e := if u32At 4 b = 1 then r.1.takeEmbedding (u32At 16 b) else (r.1, (chunks 4 (cut 16 (4 * dim) b)).map leVal)
    (e.1, r.2 ++ [{ element := u32At 0 b, version := BitVec.ofNat 64 (u64At 8 b), vector := e.2 }])) (x, [])

/-- Starts a mutation: its work is done, and its commit waits for VEC_MUTATION_DONE (R347). -/
def Rood.startMutation (c : Cmd) (v : VecIndex) (commit count : Nat) (x : Rood) : Rood :=
  let o : VecOp :=
    { cmd := c.id, index := v.num, sweep := false, commit := commit, count := count, answers := [], nans := [], rounds := 0
      scores := 0, op := 0, waiting := [], joined := [], lists := [], damaged := false }
  let x := { x with vecOps := x.vecOps ++ [o], vecQueue := x.vecQueue.filter (fun i => i != c.id) }
  (x.setVec v).setCmd { c with stage := .running, embeds := [] }

/-- RESULT of VEC_INSERT and VEC_DELETE (Table 4.8). -/
def mutationResult (items commit : Nat) : List Nat := [items, 0, commit % 2 ^ 32, commit / 2 ^ 32]

/-- An empty batch (R356, R360). -/
def Rood.emptyBatch (now : W64) (c : Cmd) (v : VecIndex) (x : Rood) : Rood :=
  x.endVec now c { c.record stOk with nothingDone := true, result := mutationResult 0 v.root.commit }

/-- The items of a batch that has passed its checks are inserted (R358). -/
def Rood.insertBatch (c : Cmd) (v : VecIndex) (items : List (List Byte)) (x : Rood) : Rood :=
  let r := x.readItems v.dim items
  let commit := v.root.commit + 1
  r.1.startMutation c (r.2.foldl (VecIndex.insert commit) v) commit items.length

/-- A batch that has to wait for its turn is checked for R370 as it is accepted, against the index as it then stands, and holds the
other commands of the sessions that it names until it has taken their embeddings (R369; log entry 78). -/
def Rood.latchItems (c : Cmd) (x : Rood) : Cmd :=
  match if c.opcode = 0x21 then x.vec? c.index else none with
  | none => c
  | some v =>
    let items := chunks (itemBytes v.dim) (memReadN x.staging c.bulkOff c.bulkLen)
    if c.bulkLen != c.items * itemBytes v.dim || !items.all (itemOk v.dim) then c
    else
      let st := x.itemsCheck v.dim items
      { c with
        failed := st
        embeds := if st = 0 then (items.filter (fun b => u32At 4 b == 1)).map (fun b => handleSlot (u32At 16 b)) else [] }

/-- VEC_INSERT when its turn has come. -/
def Rood.runInsert (now : W64) (c : Cmd) (v : VecIndex) (x : Rood) : Rood :=
  let n := itemBytes v.dim
  if c.items * n < c.bulkLen then x.failVec now c stFormat
  else if c.bulkLen < c.items * n then x.failVec now c stLength
  else
    let r := x.readBulk now c.bulkOff c.bulkLen
    let items := chunks n r.2.2
    let st := if c.failed = 0 then r.1.itemsCheck v.dim items else c.failed
    if r.2.1 ≠ 0 then r.1.failVec now c r.2.1
    else if !items.all (itemOk v.dim) then r.1.failVec now c stFormat
    else if v.damaged then r.1.failVec now c stSuspect
    else if c.items = 0 then r.1.emptyBatch now c v
    else if st ≠ 0 then r.1.failVec now c st
    else if v.freeSlots < c.items then r.1.failVec now c stAdmitMem
    else r.1.insertBatch c v items

/-- VEC_DELETE when its turn has come. -/
def Rood.runDelete (now : W64) (c : Cmd) (v : VecIndex) (x : Rood) : Rood :=
  let r := x.readBulk now c.bulkOff c.bulkLen
  if r.2.1 ≠ 0 then r.1.failVec now c r.2.1
  else if v.damaged then r.1.failVec now c stSuspect
  else if c.items = 0 then r.1.emptyBatch now c v
  else
    let commit := v.root.commit + 1
    let d := (vecIds r.2.2).foldl (fun (q : VecIndex × Nat) id =>
      let t := q.1.tombstone id commit
      (t.1, q.2 + bit t.2)) (v, 0)
    r.1.startMutation c d.1 commit d.2

/-- VEC_COMPACT when its turn has come (R361). -/
def Rood.runCompact (now : W64) (c : Cmd) (v : VecIndex) (x : Rood) : Rood :=
  if v.damaged then x.failVec now c stSuspect
  else
    let cmin := ((x.vecOps.filter (fun o => o.sweep && o.index == v.num)).map (fun o => o.commit)).foldl min v.root.commit
    let r := v.compact cmin
    x.startMutation c r.1 v.root.commit r.2

/-- Bank engines make scores for the mutation (log entry 18). -/
def Rood.countMutation (v : VecIndex) (x : Rood) : Rood :=
  match v.nodeFrames with
  | a :: _ => x.ask (.internal ⟨.bank, 64 * (x.firstSg + keyPos a) + keyChan a, 2⟩)
  | [] => x

/-- The mutation of an index ends: COMMIT is set, or the index is damaged (R347, R361, R462). -/
def Rood.endMutation (now : W64) (o : VecOp) (c : Cmd) (v : VecIndex) (damaged : Bool) (x : Rood) : Rood :=
  if damaged || o.damaged then (x.setVec { v with damaged := true }).failVec now c stSuspect
  else
    let v := v.commit o.commit
    let r := if c.opcode = 0x24 then [o.count, 0, 0, 0] else mutationResult o.count o.commit
    ((x.setVec v).countMutation v).endVec now c { c.record stOk with result := r }

/-! ## VEC_DROP (R364) -/

def VecIndex.frames (v : VecIndex) : List Nat := v.rootFrame :: (v.nodeFrames ++ v.tableFrames)

/-- The index goes, and its frames are zeroed and return to the pool; one that a checkpoint still has to copy does so later
(R407). -/
def Rood.dropVec (v : VecIndex) (x : Rood) : Rood :=
  let x := ({ x with vecs := x.vecs.filter (fun w => w.num != v.num) } : Rood).giveRoom v.frames
  x.poolFrames (x.zeroable.filter (fun a => v.frames.contains a))

def Rood.runDrop (now : W64) (c : Cmd) (v : VecIndex) (x : Rood) : Rood := (x.dropVec v).failVec now c stOk

/-! ## Sweeps (R348 to R355) -/

/-- Counts the scores of an answer at the bank engines that made them. -/
def Rood.countScores (v : VecIndex) (slots : List Nat) (x : Rood) : Rood :=
  slots.foldl (fun x s =>
    let a := v.nodeFrames.getD (s / max v.perFrame 1) 0
    x.countBank (keyPos a) (keyChan a) 2 1) x

/-- A sweep over the index: its answers, with rounds and scores counted (R355, Tables 18.1 and 18.4). -/
def Rood.sweep (v : VecIndex) (c l id : Nat) (queries : List (List Nat)) (x : Rood) : Rood × List Answer :=
  let as := queries.map (v.answer c l)
  let rounds := (as.map (fun a => a.rounds)).foldl max 0
  let scored := as.flatMap (fun a => a.scored)
  let s := 2 ^ 24 + v.num
  ((((x.countScores v scored).countAssigned s id 20 rounds).countAssigned s id 21 scored.length).mapTally
    (fun t => { t with vecScores := t.vecScores + scored.length }), as)

/-- Query vectors, one after another. -/
def readQueries (dim : Nat) (bs : List Byte) : List (List Nat) := (chunks (4 * dim) bs).map (fun q => (chunks 4 q).map leVal)

/-- Peers that hold shards of the index of a query, without the device's own number, as the query was accepted (R365). -/
def Cmd.shardPeers (ctx : Ctx) (c : Cmd) : List Nat :=
  (List.range 32).filter (fun i => bitAt c.shards.toNat i && i != ctx.dev.number)

def Cmd.shardRood (c : Cmd) : Nat := bitsOf c.shards.toNat 32 4

/-- Payload of VEC_REQ (Table 13.9). -/
def vecReqBytes (v : VecIndex) (k l queries : Nat) (bs : List Byte) : List Byte :=
  leBytes 4 (v.num ||| v.elemFmt <<< 4 ||| v.metric <<< 8 ||| v.dim <<< 16) ++ leBytes 4 (k ||| l <<< 16) ++
    leBytes 4 queries ++ zeros 4 ++ bs

/-- The sweep of a VEC_QUERY starts, and its requests leave for every peer (R348, R366). -/
def Rood.startSweep (ctx : Ctx) (c : Cmd) (v : VecIndex) (bs : List Byte) (x : Rood) : Rood :=
  let r := x.sweep v v.root.commit c.vecL c.id (readQueries v.dim bs)
  let peers := if c.sharded then c.shardPeers ctx else []
  let p := if peers.isEmpty then (0, r.1) else r.1.newOp ctx
  let o : VecOp :=
    { cmd := c.id, index := v.num, sweep := true, commit := v.root.commit, count := c.queries
      answers := r.2.map (fun a => a.hits), nans := r.2.map (fun a => a.nans), rounds := 0, scores := 0, op := p.1
      waiting := peers, joined := [], lists := [], damaged := v.damaged }
  let x := { p.2 with vecOps := p.2.vecOps ++ [o] }
  (peers.foldl (fun x i => x.sendChain i 0x10 c.shardRood p.1 (vecReqBytes v c.vecK c.vecL c.queries bs)) x).setCmd
    { c with stage := .running }

/-- VEC_QUERY: the checks that need the index, and the start of its sweep (R353, R366). -/
def Rood.runQuery (ctx : Ctx) (c : Cmd) (x : Rood) : Rood :=
  match if x.dropAhead c then none else x.vec? c.index with
  | none => x.failVec ctx.time c stBadState
  | some v =>
    let need := c.queries * (4 * v.dim)
    if need < c.queryLen then x.failVec ctx.time c stFormat
    else if c.queryLen < need then x.failVec ctx.time c stLength
    else if c.sharded && (c.shardPeers ctx).isEmpty then x.failVec ctx.time c stBadState
    else if c.queries = 0 then
      x.endVec ctx.time c { c.record stOk with nothingDone := true, result := mutationResult 0 v.root.commit }
    else
      let r := x.readBulk ctx.time c.queryOff c.queryLen
      if r.2.1 ≠ 0 then r.1.failVec ctx.time c r.2.1 else r.1.startSweep ctx c v r.2.2

/-- The result entries and header of one query. -/
def queryResult (smallest : Bool) (k nans : Nat) (hits : List VecHit) : List Byte × List Byte :=
  let s := selectHits smallest k nans hits
  (s.1.flatMap VecHit.bytes ++ (List.replicate (k - s.1.length) vecPadding).flatten, s.2.bytes)

/-- The merged entries of one query: own answer and every peer's list (R367). -/
def VecOp.merged (smallest : Bool) (k : Nat) (o : VecOp) (i : Nat) : List VecHit × List VecHit :=
  let own := (selectHits smallest k 0 (o.answers.getD i [])).1
  let all := own ++ o.lists.flatMap (fun l => l.2.getD i [])
  (all, mergeHits smallest all)

/-- Entries and headers of every query, and how many duplicates were removed. -/
def VecOp.results (smallest sharded : Bool) (k : Nat) (o : VecOp) : List (List Byte × List Byte) × Nat :=
  let is := List.range o.count
  if sharded then
    (is.map (fun i => queryResult smallest k 0 (o.merged smallest k i).2),
      (is.map (fun i => let m := o.merged smallest k i; m.1.length - m.2.length)).sum)
  else (is.map (fun i => queryResult smallest k (o.nans.getD i 0) (o.answers.getD i [])), 0)

/-- The sweep, or the merge when every list has arrived, ends: results are written (R354). -/
def Rood.endSweep (now : W64) (o : VecOp) (c : Cmd) (x : Rood) : Rood :=
  let v := x.vec? o.index
  let r := o.results (v.any VecIndex.smallest) c.sharded c.vecK
  let heads := decide (c.queries * (16 * c.vecK + 32) ≤ c.resultLen)
  let bytes := r.1.flatMap (fun q => q.1) ++ (if heads then r.1.flatMap (fun q => q.2) else [])
  let x := (x.hostWrite c.resultAddr bytes).countAssigned (2 ^ 24 + o.index) c.id 22 r.2
  let c := { c with flagged := c.flagged || o.damaged }
  x.endVec now c { c.record stOk with result := [c.queries, bytes.length, o.commit % 2 ^ 32, o.commit / 2 ^ 32] }

/-! ## Requests and lists of peers (R366 to R368) -/

/-- A peer's list of one query: the entries and the rest; none while bytes are missing. -/
def readList (bs : List Byte) : Option (List VecHit × List Byte) :=
  let n := u32At 0 bs
  if bs.length < 4 + 16 * n then none
  else some ((chunks 16 (cut 4 (16 * n) bs)).map (fun e =>
    { element := u32At 0 e, score := BitVec.ofNat 32 (u32At 4 e), version := BitVec.ofNat 64 (u64At 8 e) }),
    bs.drop (4 + 16 * n))

/-- The lists of `n` queries. -/
def readLists : (n : Nat) → List Byte → Option (List (List VecHit))
  | 0, _ => some []
  | n + 1, bs =>
    match readList bs with
    | some r => (readLists n r.2).map (fun l => r.1 :: l)
    | none => none

/-- The sweep that waits for a list of a peer under an operation number. -/
def Rood.sweepOf (peer op : Nat) (x : Rood) : Option VecOp :=
  x.vecOps.find? (fun o => o.sweep && o.op == op && o.waiting.contains peer)

/-- Bytes of a peer's list arrive; a list that nothing waits for is discarded (R368). -/
def Rood.takeList (peer op : Nat) (bs : List Byte) (x : Rood) : Rood :=
  match x.sweepOf peer op with
  | none => x
  | some o =>
    let all := ((lookKey peer o.joined).getD []) ++ bs
    match readLists o.count all with
    | none => x.setVecOp { o with joined := putKey peer all o.joined }
    | some l => x.setVecOp { o with
        joined := delKey peer o.joined, waiting := o.waiting.filter (fun i => i != peer), lists := o.lists ++ [(peer, l)] }

/-- A peer refuses, its epoch ends, or its list does not come: the query completes with ST_PEER (R368, R390). -/
def Rood.peerFailed (now : W64) (o : VecOp) (x : Rood) : Rood :=
  match x.cmd? o.cmd with
  | some c => (x.failVec now c stPeer).pump now
  | none => x.dropVecOp o.cmd

/-- The peer answers a request (R366): the four conditions, and the rood works at all. -/
def Rood.mayServe (ctx : Ctx) (src : Nat) (bs : List Byte) (x : Rood) : Option VecIndex :=
  let p := u32At 0 bs
  if !ctx.dev.roodsLive || !bitAt (x.regs.vecShard.getD (p % 4) 0).toNat src then none
  else (x.vec? (p % 4)).filter (fun v => v.elemFmt == bitsOf p 4 4 && v.metric == bitsOf p 8 4 && v.dim == p >>> 16)

/-- The list of one query, as VEC_LIST carries it. -/
def listBytes (smallest : Bool) (k : Nat) (a : Answer) : List Byte :=
  let l := (selectHits smallest k 0 a.hits).1
  leBytes 4 l.length ++ l.flatMap VecHit.bytes

/-- Serves the whole request of a peer. -/
def Rood.serve (ctx : Ctx) (src srcRood op : Nat) (bs : List Byte) (x : Rood) : Rood :=
  match x.mayServe ctx src bs with
  | none => x.sendChain src 0x12 srcRood op []
  | some v =>
    let k := u16At 4 bs
    let r := x.sweep v v.root.commit (u16At 6 bs) op ((readQueries v.dim (bs.drop 16)).take (u32At 8 bs))
    r.1.sendChain src 0x11 srcRood op (r.2.flatMap (listBytes v.smallest k))

/-- Bytes of a request arrive; it is served when it is whole (R387). -/
def Rood.takeRequest (ctx : Ctx) (src srcRood op : Nat) (bs : List Byte) (x : Rood) : Rood :=
  let mine := fun (q : Nat × Nat × List Byte) => q.1 == src && q.2.1 == op
  let all := ((x.vecReqs.find? mine).map (fun q => q.2.2)).getD [] ++ bs
  let rest := x.vecReqs.filter (fun q => !mine q)
  if 16 ≤ all.length ∧ 16 + u32At 8 all * (4 * (u32At 0 all >>> 16)) ≤ all.length then
    ({ x with vecReqs := rest } : Rood).serve ctx src srcRood op all
  else { x with vecReqs := rest ++ [(src, op, all)] }

/-! ## The order of commands of one index (R363, R426) -/

/-- A serial command whose turn has come. -/
def Rood.runSerial (ctx : Ctx) (c : Cmd) (x : Rood) : Rood :=
  if c.opcode = 0x20 then x.runCreate ctx.time c
  else
    match x.vec? c.index with
    | none => x.failVec ctx.time c stBadState
    | some v =>
      match c.opcode with
      | 0x21 => x.runInsert ctx.time c v
      | 0x22 => x.runDelete ctx.time c v
      | 0x24 => x.runCompact ctx.time c v
      | 0x25 => x.runDrop ctx.time c v
      | _ => x

/-- The command waits: behind an earlier one, or for a restore. -/
def Rood.vecWaits (c : Cmd) (x : Rood) : Bool := x.ckp.restore.isSome || (c.isSerial && x.vecBehind c)

/-- A vector command is accepted. -/
def Rood.judgeVec (ctx : Ctx) (c : Cmd) (outOk : Bool) (x : Rood) : Rood :=
  let st := x.vecCheck ctx c outOk
  let x :=
    if st ≠ 0 then x.failVec ctx.time c st
    else if x.vecWaits c then
      ({ x with vecQueue := x.vecQueue ++ [c.id] } : Rood).setCmd { x.latchItems c with stage := .waiting }
    else if c.isSerial then x.runSerial ctx c
    else x.runQuery ctx c
  x.pump ctx.time

/-- The waiting serial command of an index that was accepted first, when nothing holds it back any more. -/
def Rood.vecNext (n : Nat) (x : Rood) : Option Cmd :=
  ((x.vecQueue.filterMap (fun i => x.cmd? i)).find? (fun c => c.isSerial && c.index == n && !x.vecWaits c))

/-- Queries that a restore has held back are judged against the state that it leaves (R426). -/
def Rood.releaseQueries (ctx : Ctx) (x : Rood) : Rood :=
  ((x.vecQueue.filterMap (fun i => x.cmd? i)).filter (fun c => c.opcode == 0x23)).foldl (fun x c =>
    ({ x with vecQueue := x.vecQueue.filter (fun i => i != c.id) } : Rood).runQuery ctx c) x

/-! ## The rows -/

/-- VEC_CREATE (R338, R339). -/
def execVecCreate (r c : Nat) (s : State) : Result :=
  .next (onRood r (fun ctx x => x.onCmd c [0x20] (fun d x => x.judgeVec ctx d true)) s)

/-- VEC_INSERT (R356 to R358). -/
def execVecInsert (r c : Nat) (s : State) : Result :=
  .next (onRood r (fun ctx x => x.onCmd c [0x21] (fun d x => x.judgeVec ctx d true)) s)

/-- VEC_DELETE (R360). -/
def execVecDelete (r c : Nat) (s : State) : Result :=
  .next (onRood r (fun ctx x => x.onCmd c [0x22] (fun d x => x.judgeVec ctx d true)) s)

/-- VEC_QUERY (R349 to R355, R366). -/
def execVecQuery (r c : Nat) (outOk : Bool) (s : State) : Result :=
  .next (onRood r (fun ctx x => x.onCmd c [0x23] (fun d x => x.judgeVec ctx d outOk)) s)

/-- VEC_COMPACT (R361). -/
def execVecCompact (r c : Nat) (s : State) : Result :=
  .next (onRood r (fun ctx x => x.onCmd c [0x24] (fun d x => x.judgeVec ctx d true)) s)

/-- VEC_DROP (R364). -/
def execVecDrop (r c : Nat) (s : State) : Result :=
  .next (onRood r (fun ctx x => x.onCmd c [0x25] (fun d x => x.judgeVec ctx d true)) s)

/-- VEC_SWEEP_DONE (R354): the sweep of a query ends, or the merge when every peer's list has arrived. -/
def execVecSweepDone (r c : Nat) (s : State) : Result :=
  .next (onRood r (fun ctx x => match x.vecOp? c, x.cmd? c with
    | some o, some d => if o.sweep && o.waiting.isEmpty then (x.endSweep ctx.time o d).pump ctx.time else x
    | _, _ => x) s)

/-- VEC_MUTATION_DONE (R347, R359 to R362): the batch or compaction of an index ends. -/
def execVecMutationDone (r index : Nat) (damaged : Bool) (s : State) : Result :=
  .next (onRood r (fun ctx x => match x.mutation index, x.vec? index with
    | some o, some v => (match x.cmd? o.cmd with
      | some c => (x.endMutation ctx.time o c v damaged).pump ctx.time
      | none => x.dropVecOp o.cmd)
    | _, _ => x) s)

/-- VEC_SERIAL_ADVANCE (R363): the next waiting command of an index takes effect. -/
def execVecSerialAdvance (r index : Nat) (s : State) : Result :=
  .next (onRood r (fun ctx x => match x.vecNext index with
    | some c =>
      (({ x with vecQueue := x.vecQueue.filter (fun i => i != c.id) } : Rood).runSerial ctx c).pump ctx.time
    | none => x) s)

/-- VEC_PEER_TIMEOUT (R368): a peer's list has not arrived within 50 ms. -/
def execVecPeerTimeout (r c : Nat) (s : State) : Result :=
  .next (onRood r (fun ctx x => match x.vecOp? c with
    | some o => if o.sweep && !o.waiting.isEmpty then x.peerFailed ctx.time o else x
    | none => x) s)

/-! ## ATS invalidation (R148) -/

/-- A translation of a command's buffer fails at its next use. -/
def Rood.loseTranslation (ctx : Ctx) (c : Cmd) (x : Rood) : Rood :=
  if [0x02, 0x03, 0x04].contains c.opcode then x.loseBuffer ctx c
  else if c.opcode = 0x23 then (x.addrFault ctx.time c).failVec ctx.time c stCancelled
  else x

/-- ATS_INVALIDATION (R148): a translation that a running command uses is removed; `ok` says whether it translates again. A
command that is accepted or waits has its buffers translated when it is judged. -/
def execAtsInvalidation (r c : Nat) (ok : Bool) (s : State) : Result :=
  .next (onRood r (fun ctx x => match x.cmd? c with
    | some d =>
      if ok || d.stage == .accepted || d.stage == .waiting then x else (x.loseTranslation ctx d).pump ctx.time
    | none => x) s)

end Sys2Proof.Machine
end

