-- ==== Sys2Proof/Machine/CkpCode.lean ====
section
/-! DEFINITION. The payload of a checkpoint (R418, R419), the lean format (R413), shards and their coding (R421, R422): a rood
as it stands at a cut to bytes, and bytes back to the records of a restore. -/
namespace Sys2Proof.Machine
open Sys2Proof

/-! ## Records (Table 14.5) -/

/-- A record: 16 bytes of header, the body, and zeros up to a multiple of 8. -/
def ckpRecord (typ : Nat) (body : List Byte) : List Byte :=
  leBytes 1 typ ++ zeros 7 ++ leBytes 8 body.length ++ body ++ zeros ((8 - body.length % 8) % 8)

def gensRecord (first : Nat) (gens : List Nat) : List Byte :=
  ckpRecord 1 (leBytes 4 first ++ leBytes 4 gens.length ++ gens.map byteOf)

/-- A frame reference: layer, kind, number within the layer, record frame number. -/
def refBytes (q : Nat × Nat × Nat × Nat) : List Byte :=
  leBytes 4 q.2.2.2 ++ leBytes 4 (q.2.2.1 ||| q.2.1 <<< 22 ||| q.1 <<< 24)

def readRef (b : List Byte) : Nat × Nat × Nat × Nat :=
  let w := u32At 4 b
  (bitsOf w 24 7, bitsOf w 22 2, bitsOf w 0 22, u32At 0 b)

/-- A SESSION record with the references `refs`. -/
def CkpSession.record (gen : Nat) (full : Bool) (refs : List (Nat × Nat × Nat × Nat)) (s : CkpSession) : List Byte :=
  let e : Entry := { s.entry with moveKind := 0, dirRoot := 0, bushel := 0 }
  ckpRecord 2 (leBytes 4 s.slot ++ leBytes 4 refs.length ++ leBytes 4 (bit full) ++ zeros 4 ++ e.bytes gen ++
    s.digests.flatMap (padTo 48) ++ refs.flatMap refBytes)

/-! ## The lean format (R413) -/

/-- A KV8 block rewritten as KV4 (R194 with Q = 7). -/
def leanBlock (b : List Byte) : List Byte := kvHeadBytes true (readKv false b).elems

/-- A lean block as KV8: the codes sign-extended, the scale unchanged. -/
def unleanBlock (b : List Byte) : List Byte := (kvCodes true (b.take 16)).map (fun c => byteOf (fieldOf 8 c)) ++ cut 16 2 b

/-- The data of slots of a peck: for each KV head the key blocks of every slot, then the value blocks in the same order. -/
def CkpFrame.peckData (lean : Bool) (slots : List (List Byte)) (f : CkpFrame) : List Byte :=
  (List.range (2 * f.heads)).flatMap (fun h => slots.flatMap (fun s =>
    let n := s.length / (2 * f.heads)
    let b := cut (h * n) n s
    if lean && f.kv8 then (chunks 34 b).flatMap leanBlock else b))

/-- The FRAME record of the slots or summaries from `first` on; none when there are none, or for a summary of a lean
checkpoint. -/
def CkpFrame.record (lean : Bool) (first : Nat) (f : CkpFrame) : List Byte :=
  let slots := f.slots.drop first
  if slots.isEmpty ∨ (lean ∧ f.kind ≠ 0) then []
  else
    let data := if f.kind = 0 then f.peckData lean slots else slots.flatten
    ckpRecord 3 (leBytes 4 f.num ++ leBytes 4 (first ||| slots.length <<< 16) ++
      leBytes 4 (f.kind ||| bit (lean && f.kv8 && f.kind == 0) <<< 2) ++ zeros 4 ++ data)

/-! ## Vector indexes -/

/-- The bytes of node frame `n` of an index (R341). -/
def VecIndex.frameBytes (v : VecIndex) (n : Nat) : List Byte :=
  padTo 65536 (((List.range v.perFrame).filter (fun i => decide (n * v.perFrame + i < v.capacity))).flatMap (fun i =>
    (v.node (n * v.perFrame + i)).bytes v.elemFmt v.dim v.degree))

def vecRecord (num : Nat) (dropped full : Bool) (root : List Byte) (frames : List (Nat × List Byte)) : List Byte :=
  ckpRecord 4 (leBytes 4 (num ||| bit dropped <<< 8 ||| bit full <<< 9) ++ leBytes 4 frames.length ++ root ++
    frames.flatMap (fun f => leBytes 4 f.1 ++ zeros 4 ++ f.2))

def VecIndex.allFrames (v : VecIndex) : List (Nat × List Byte) :=
  (List.range v.nodeFrames.length).map (fun n => (n, v.frameBytes n))

/-- The same index, as it stood at another cut. -/
def VecIndex.sameAs (v w : VecIndex) : Bool :=
  v.num == w.num && v.elemFmt == w.elemFmt && v.metric == w.metric && v.dim == w.dim && v.degree == w.degree &&
    v.capacity == w.capacity && v.rootFrame == w.rootFrame && v.nodeFrames == w.nodeFrames &&
    decide (w.root.serial ≤ v.root.serial)

/-- The VECTOR record of one index number, from the reference's index and the present one. -/
def vecRecords (old new : Option VecIndex) (num : Nat) : List Byte :=
  match old, new with
  | none, none => []
  | some _, none => vecRecord num true false (zeros 128) []
  | none, some v => vecRecord num false true (v.rootBytes v.root) v.allFrames
  | some o, some v =>
    if !v.sameAs o then vecRecord num false true (v.rootBytes v.root) v.allFrames
    else
      let fs := v.allFrames.filter (fun f => o.frameBytes f.1 != f.2)
      if fs.isEmpty && v.root == o.root then [] else vecRecord num false false (v.rootBytes v.root) fs

/-! ## Payload -/

/-- The image without a reference: nothing recorded. -/
def CkpImage.genOf (i : Nat) (m : CkpImage) : Nat := (lookKey i m.gens).getD m.baseGen

def CkpImage.session? (i : Nat) (m : CkpImage) : Option CkpSession := m.sessions.find? (fun s => s.slot == i)

def CkpImage.frame? (n : Nat) (m : CkpImage) : Option CkpFrame := m.frames.find? (fun f => f.num == n)

def CkpImage.vec? (n : Nat) (m : CkpImage) : Option VecIndex := (m.vectors.find? (fun v => v.num == n)).map (fun v => v.index)

/-- Groups ascending numbers into runs of consecutive ones: first and length. -/
def runsOf : List Nat → List (Nat × Nat)
  | [] => []
  | a :: l =>
    match runsOf l with
    | (b, n) :: rest => if b = a + 1 then (a, n + 1) :: rest else (a, 1) :: (b, n) :: rest
    | [] => [(a, 1)]

/-- GENS: every slot in a base, the slots whose generation changed in a delta. -/
def CkpImage.gensPart (cap : Nat) (old : Option CkpImage) (m : CkpImage) : List Byte :=
  match old with
  | none => gensRecord 0 ((List.range cap).map m.genOf)
  | some o =>
    let slots := ((sortNat ((m.gens.map (fun q => q.1)) ++ (o.gens.map (fun q => q.1)))).eraseDups).filter
      (fun i => m.genOf i != o.genOf i)
    (runsOf slots).flatMap (fun q => gensRecord q.1 ((List.range q.2).map (fun j => m.genOf (q.1 + j))))

/-- The references that a record names: none of summaries in a lean checkpoint. -/
def keptRefs (lean : Bool) (refs : List (Nat × Nat × Nat × Nat)) : List (Nat × Nat × Nat × Nat) :=
  refs.filter (fun q => !lean || q.2.1 == 0)

/-- SESSION of one slot; nothing in a delta where nothing of it changed. -/
def CkpImage.sessionPart (lean : Bool) (old : Option CkpImage) (m : CkpImage) (s : CkpSession) : List Byte :=
  let gen := m.genOf s.slot
  match old.bind (fun o => (o.session? s.slot).filter (fun _ => o.genOf s.slot == gen)) with
  | none => s.record gen true (keptRefs lean s.refs)
  | some p =>
    if p = s then []
    else if p.refs.all (fun q => !s.refs.contains q) then s.record gen true (keptRefs lean s.refs)
    else s.record gen false (keptRefs lean (s.refs.filter (fun q => !p.refs.contains q)))

/-- FRAME of one frame that some session references. -/
def CkpImage.framePart (lean : Bool) (old : Option CkpImage) (f : CkpFrame) : List Byte :=
  f.record lean (((old.bind (fun o => o.frame? f.num)).map (fun g => g.slots.length)).getD 0)

def CkpImage.live (m : CkpImage) : List CkpFrame :=
  m.frames.filter (fun f => m.sessions.any (fun s => s.refs.any (fun q => q.2.2.2 == f.num)))

/-- The payload of a checkpoint of a rood of `cap` slots against its reference (R402, R418, R419). -/
def CkpImage.payload (cap : Nat) (lean : Bool) (old : Option CkpImage) (m : CkpImage) : List Byte :=
  m.gensPart cap old ++ m.sessions.flatMap (m.sessionPart lean old) ++ m.live.flatMap (CkpImage.framePart lean old) ++
    (List.range 4).flatMap (fun n => vecRecords (old.bind (fun o => o.vec? n)) (m.vec? n) n) ++ ckpRecord 5 m.tally.bytes ++
    ckpRecord 6 []

/-! ## Shards (R421, Table 14.7) -/

def ShardHdr.bytes (h : ShardHdr) : List Byte :=
  let b := leBytes 4 0x544B4843 ++
    leBytes 4 (1 ||| h.index <<< 16 ||| h.k <<< 24 ||| h.parity <<< 28 ||| bit h.lean <<< 30 ||| bit h.base <<< 31) ++
    leBytes 8 h.lineage.toNat ++ leBytes 8 h.seq ++ leBytes 8 h.prevSeq ++ leBytes 8 h.baseSeq ++
    leBytes 8 h.cutTime.toNat ++ leBytes 8 h.payloadLen ++ leBytes 8 h.shardLen ++ padTo 48 h.shape ++
    leBytes 4 h.payloadCrc.toNat ++ leBytes 4 h.shardCrc.toNat ++ leBytes 4 (h.srcDevice ||| h.srcRood <<< 8)
  b ++ leBytes 4 (crc32c b).toNat

/-- MAGIC, VERSION and HDR_CRC hold (R427). -/
def shardHdrOk (b : List Byte) : Bool :=
  decide (128 ≤ b.length) && u32At 0 b == 0x544B4843 && u16At 4 b == 1 && u32At 124 b == (crc32c (b.take 124)).toNat

def readShardHdr (b : List Byte) : ShardHdr :=
  let w := u32At 4 b
  { index := bitsOf w 16 4, k := bitsOf w 24 4, parity := bitsOf w 28 2, lean := bitAt w 30, base := bitAt w 31
    lineage := BitVec.ofNat 64 (u64At 8 b), seq := u64At 16 b, prevSeq := u64At 24 b, baseSeq := u64At 32 b
    cutTime := BitVec.ofNat 64 (u64At 40 b), payloadLen := u64At 48 b, shardLen := u64At 56 b, shape := cut 64 48 b
    payloadCrc := BitVec.ofNat 32 (u32At 112 b), shardCrc := BitVec.ofNat 32 (u32At 116 b)
    srcDevice := bitsOf (u32At 120 b) 0 5, srcRood := bitsOf (u32At 120 b) 8 4 }

/-- A shard as its store holds it: the header, zeros up to offset 4,096, the data. -/
def shardObject (h : ShardHdr) (data : List Byte) : List Byte := padTo 4096 h.bytes ++ data

/-- SHARD_LEN of a payload cut into `k` shards. -/
def shardLenOf (len k : Nat) : Nat := 4096 * ceilDiv len (4096 * k)

/-! ## Coding (R422) -/

/-- Doubling in GF(2^8) modulo x^8 + x^4 + x^3 + x^2 + 1. -/
def gfTwice (a : Nat) : Nat := if a < 128 then 2 * a else (2 * a) ^^^ 0x11D

def gfMulAux : (n a b : Nat) → Nat
  | 0, _, _ => 0
  | n + 1, a, b => (if b % 2 = 1 then a else 0) ^^^ gfMulAux n (gfTwice a) (b / 2)

def gfMul (a b : Nat) : Nat := gfMulAux 8 a b

/-- g^i with g = 0x02. -/
def gfPow (i : Nat) : Nat := Nat.repeat gfTwice i 1

def gfInv (a : Nat) : Nat := ((List.range 256).find? (fun b => gfMul a b == 1)).getD 0

def gfScale (c : Nat) (d : List Byte) : List Byte := d.map (fun b => byteOf (gfMul c b.toNat))

/-- Xor of shards of `n` bytes. -/
def xorAll (n : Nat) (ds : List (List Byte)) : List Byte := ds.foldl listXor (zeros n)

def parityP (n : Nat) (ds : List (List Byte)) : List Byte := xorAll n ds

def parityQ (n : Nat) (ds : List (Nat × List Byte)) : List Byte := xorAll n (ds.map (fun d => gfScale (gfPow d.1) d.2))

/-- The data shards of a payload. -/
def dataShards (k n : Nat) (payload : List Byte) : List (List Byte) :=
  let p := padTo (k * n) payload
  (List.range k).map (fun i => cut (i * n) n p)

/-- Every shard of a payload: the data shards, then P and Q when there is parity. -/
def codeShards (k parity n : Nat) (payload : List Byte) : List (List Byte) :=
  let ds := dataShards k n payload
  if parity = 0 then ds else ds ++ [parityP n ds, parityQ n (ds.zipIdx.map (fun d => (d.2, d.1)))]

/-- The data shards from K shards given with their indexes; none where they do not determine them. -/
def decodeShards (k n : Nat) (have' : List (Nat × List Byte)) : Option (List (List Byte)) :=
  let known := have'.filter (fun d => decide (d.1 < k))
  let get := fun i => lookKey i have'
  let sumP := fun (p : List Byte) => listXor p (parityP n (known.map (fun d => d.2)))
  let sumQ := fun (q : List Byte) => listXor q (parityQ n known)
  let fill := fun (new : List (Nat × List Byte)) => (List.range k).mapM (fun i => (get i).or (lookKey i new))
  match (List.range k).filter (fun i => (get i).isNone), get k, get (k + 1) with
  | [], _, _ => fill []
  | [a], some p, _ => fill [(a, sumP p)]
  | [a], none, some q => fill [(a, gfScale (gfInv (gfPow a)) (sumQ q))]
  | [a, b], some p, some q =>
    let s := sumP p
    let d := gfScale (gfInv (gfPow a ^^^ gfPow b)) (listXor (sumQ q) (gfScale (gfPow b) s))
    fill [(a, d), (b, listXor s d)]
  | _, _, _ => none

/-! ## Records read back -/

/-- A recorded session as a restore reads it: the bytes of its entry, its digests and its references. -/
structure RecSession where
  entry : List Byte
  digests : List (List Byte)
  refs : List (Nat × Nat × Nat × Nat)

/-- One FRAME record: FIRST, COUNT, LEAN and the data. -/
structure RecPiece where
  first : Nat
  count : Nat
  lean : Bool
  data : List Byte

/-- A recorded vector index: its root image and node frames. -/
structure RecVec where
  root : List Byte
  frames : List (Nat × List Byte)

/-- What the checkpoints of a chain say together (R419). -/
structure Rebuilt where
  gens : List Byte
  sessions : List (Nat × RecSession)
  frames : List (Nat × List RecPiece)
  vectors : List (Nat × RecVec)
  tally : List Byte

def Rebuilt.empty : Rebuilt := { gens := [], sessions := [], frames := [], vectors := [], tally := [] }

/-- A record's TYPE and body, and the rest of the payload. -/
def nextRecord (b : List Byte) : Option (Nat × List Byte × List Byte) :=
  if b.length < 16 then none
  else
    let n := u64At 8 b
    if b.length < 16 + n then none
    else some (u8At 0 b, cut 16 n b, b.drop (16 + 8 * ceilDiv n 8))

/-- GENS: the slots that it names become FREE. -/
def Rebuilt.putGens (body : List Byte) (r : Rebuilt) : Rebuilt :=
  let first := u32At 0 body
  let n := u32At 4 body
  { r with
    gens := padTo first r.gens ++ cut 8 n body ++ r.gens.drop (first + n)
    sessions := r.sessions.filter (fun s => decide (s.1 < first) || decide (first + n ≤ s.1)) }

/-- References of a session after those that a record without FULL adds. -/
def mergeRefs (old new : List (Nat × Nat × Nat × Nat)) : List (Nat × Nat × Nat × Nat) :=
  old.filter (fun q => !new.any (fun p => p.1 == q.1 && p.2.1 == q.2.1 && p.2.2.1 == q.2.2.1)) ++ new

def Rebuilt.putSession (body : List Byte) (r : Rebuilt) : Rebuilt :=
  let slot := u32At 0 body
  let new := (chunks 8 (body.drop 288)).map readRef
  let old := if bitAt (u32At 8 body) 0 then [] else ((lookKey slot r.sessions).map (fun s => s.refs)).getD []
  let s : RecSession := { entry := cut 16 128 body, digests := chunks 48 (cut 144 144 body), refs := mergeRefs old new }
  { r with sessions := putKey slot s r.sessions, gens := r.gens.set slot (byteOf (u8At 17 body)) }

def Rebuilt.putFrame (body : List Byte) (r : Rebuilt) : Rebuilt :=
  let n := u32At 0 body
  let p : RecPiece :=
    { first := u16At 4 body, count := u16At 6 body, lean := bitAt (u32At 8 body) 2, data := body.drop 16 }
  { r with frames := putKey n (((lookKey n r.frames).getD []) ++ [p]) r.frames }

def Rebuilt.putVector (body : List Byte) (r : Rebuilt) : Rebuilt :=
  let w := u32At 0 body
  let num := bitsOf w 0 2
  let fs := (List.range (u32At 4 body)).map (fun i => (u32At (136 + 65544 * i) body, cut (144 + 65544 * i) 65536 body))
  let old := if bitAt w 9 then [] else ((lookKey num r.vectors).map (fun v => v.frames)).getD []
  if bitAt w 8 then { r with vectors := delKey num r.vectors }
  else { r with
    vectors := putKey num { root := cut 8 128 body, frames := fs.foldl (fun l f => putKey f.1 f.2 l) old } r.vectors }

/-- Applies a payload, record by record; none where it is not a series of records that END closes. -/
def Rebuilt.applyAux : (fuel : Nat) → List Byte → Rebuilt → Option Rebuilt
  | 0, _, _ => none
  | f + 1, b, r =>
    match nextRecord b with
    | none => none
    | some (1, body, rest) => Rebuilt.applyAux f rest (r.putGens body)
    | some (2, body, rest) => Rebuilt.applyAux f rest (r.putSession body)
    | some (3, body, rest) => Rebuilt.applyAux f rest (r.putFrame body)
    | some (4, body, rest) => Rebuilt.applyAux f rest (r.putVector body)
    | some (5, body, rest) => Rebuilt.applyAux f rest { r with tally := body }
    | some (6, _, _) => some r
    | some _ => none

def Rebuilt.apply (payload : List Byte) (r : Rebuilt) : Option Rebuilt := Rebuilt.applyAux (payload.length / 16 + 1) payload r

end Sys2Proof.Machine
end

