-- ==== Sys2Proof/Machine/Checkpoint.lean ====
section
/-! DEFINITION. Taking checkpoints (chapter 14): lineage and control registers, the cut, shards and their transfer, triggers and
the order of checkpoint commands. -/
namespace Sys2Proof.Machine
open Sys2Proof

/-! ## Registers (R400, R414, R417, R420) -/

/-- A checkpoint command or a triggered checkpoint runs. -/
def Rood.ckpRuns (x : Rood) : Bool := x.ckp.run.isSome || x.ckp.restore.isSome

/-- One runs or waits (R400). -/
def Rood.ckpBusy (x : Rood) : Bool := x.ckpRuns || !x.ckp.queue.isEmpty

/-- A checkpoint command has been accepted and not yet judged. -/
def Rood.ckpPending (x : Rood) : Bool := x.cmds.any (fun c => c.stage == .accepted && [0x30, 0x31].contains c.opcode)

/-- A write of LINEAGE: ignored for 0 and while a checkpoint command runs or waits (R400, R401). -/
def Rood.writeLineage (v : W64) (x : Rood) : Rood :=
  if v = 0 ∨ x.ckpBusy ∨ x.ckpPending then x
  else { x with regs := { x.regs with lineage := v }, ckp := { x.ckp with nextSeq := 1, ref := none } }

/-- LINEAGE_WRITE (R400). -/
def execLineageWrite (r : Nat) (value : W64) (s : State) : Result := .next (onRood r (fun _ x => x.writeLineage value) s)

/-- Fields of ROOD_CKP_CTL that are kept; bit 3 is reserved (Table 14.4). -/
def ckpCtlMask : Nat := 2 ^ 64 - 1 - 8

/-- A write of ROOD_CKP_CTL; TARGET 2 or 3 is ignored as a whole and sets the configuration error bit (R414, R519). -/
def Rood.writeCkpCtl (now : W64) (v : W64) (x : Rood) : Rood :=
  if 2 ≤ bitsOf v.toNat 4 2 then x.configEntry now 4 0x500
  else { x with regs := { x.regs with ckpCtl := BitVec.ofNat 64 (v.toNat &&& ckpCtlMask) } }

/-- CKP_CTL_WRITE (R414). -/
def execCkpCtlWrite (r : Nat) (value : W64) (s : State) : Result :=
  .next (onRood r (fun ctx x => x.writeCkpCtl ctx.time value) s)

def Rood.ckpField (lo w : Nat) (x : Rood) : Nat := bitsOf x.regs.ckpCtl.toNat lo w

def Rood.ckpK (x : Rood) : Nat := bitsOf x.regs.ckpPeers.toNat 40 4
def Rood.ckpRood (x : Rood) : Nat := bitsOf x.regs.ckpPeers.toNat 32 4
def Rood.ckpMirror (x : Rood) : Bool := bitAt x.regs.ckpPeers.toNat 44

/-- Devices of PEERS, in ascending order. -/
def Rood.ckpDevices (x : Rood) : List Nat := (List.range 32).filter (fun i => bitAt x.regs.ckpPeers.toNat i)

/-- ROOD_CKP_PEERS satisfies R420. -/
def Rood.peersOk (ctx : Ctx) (x : Rood) : Bool :=
  decide (2 ≤ x.ckpK) && decide (x.ckpK ≤ 14) &&
    x.ckpDevices.length == (if x.ckpMirror then 2 else 1) * (x.ckpK + 2) && !x.ckpDevices.contains ctx.dev.number

/-- The rood shape digest (R71). -/
def Rood.shape (ctx : Ctx) (x : Rood) : List Byte :=
  sha384 ([byteOf x.width, byteOf (bit ctx.vectorOk), byteOf (bit ctx.retrievalOk)] ++ zeros 13)

/-! ## The cut (R402 to R405, R412) -/

/-- Frames numbered so far: the reference's numbers, this image's, the next number, the frames by number, and the positions of
the frames copied. -/
structure Cutting where
  old : List (Nat × Nat)
  prev : Option CkpImage
  used : List (Nat × Nat)
  next : Nat
  frames : List (Nat × CkpFrame)
  copied : List Nat

/-- The longer of two records of one frame. -/
def CkpFrame.longer (f : CkpFrame) (g : Option CkpFrame) : CkpFrame :=
  match g with
  | some g => if f.slots.length < g.slots.length then g else f
  | none => f

/-- Every record frame number given so far in the lineage (R412). -/
def Cutting.numbers (c : Cutting) : List (Nat × Nat) := c.used ++ c.old.filter (fun q => (lookKey q.1 c.used).isNone)

/-- Enters a frame by its key: its record frame number. -/
def Cutting.enter (key pos : Nat) (f : CkpFrame) (c : Cutting) : Nat × Cutting :=
  let n := ((lookKey key c.used).or (lookKey key c.old)).getD c.next
  let f := { f with num := n }.longer (lookKey n c.frames)
  let before := ((c.prev.bind (fun m => m.frame? n)).map (fun g => g.slots.length)).getD 0
  (n, { c with
    used := putKey key n c.used, next := if n = c.next then c.next + 1 else c.next, frames := putKey n f c.frames
    copied := if before < f.slots.length ∧ (lookKey key c.used).isNone then c.copied ++ [pos] else c.copied })

/-- The slots of a frame up to its fill, read through `rd` (offset, length). -/
def KvGeom.slotBytes (g : KvGeom) (kind fill : Nat) (rd : Nat → Nat → List Byte) : List (List Byte) :=
  (List.range fill).map (fun s =>
    if kind = 0 then
      [0, g.voff].flatMap (fun base => (List.range g.hkv).flatMap (fun h => rd (base + g.blkOff h s 0) (g.nb * kvBlk g.kv4)))
    else rd (s * g.sumBytes) g.sumBytes)

/-- A frame of a session of `s` stored positions as a checkpoint records it. -/
def KvGeom.ckpFrame (g : KvGeom) (s : Nat) (f : SesFrame) (rd : Nat → Nat → List Byte) : CkpFrame :=
  { num := 0, kind := f.kind, heads := g.hkv, kv8 := !g.kv4, slots := g.slotBytes f.kind (g.fill s f.kind f.num) rd }

/-- Enters the frames of one session: its references. -/
def Cutting.enterAll (g : KvGeom) (s : Nat) (fs : List (SesFrame × Nat × (Nat → Nat → List Byte))) (c : Cutting) :
    List (Nat × Nat × Nat × Nat) × Cutting :=
  fs.foldl (fun r f =>
    let e := r.2.enter f.1.key f.2.1 (g.ckpFrame s f.1 f.2.2)
    (r.1 ++ [(f.1.layer, f.1.kind, f.1.num, e.1)], e.2)) ([], c)

/-- The state in which a session is recorded (Table 14.3). -/
def Entry.recordedAs (e : Entry) : SesState :=
  match e.state with
  | .suspect => .suspect
  | .parked => .parked
  | .moving => if e.moveKind = 1 ∨ e.moveKind = 4 then .resident else .parked
  | _ => .resident

/-- Positions that the frames of a session in a slot have been brought to. -/
def Rood.allocated (slot : Nat) (e : Entry) (x : Rood) : Nat :=
  match x.seqOfSlot slot with
  | some q => x.allocOf q
  | none => e.stored

/-- Frames of a session in bonded DRAM, up to its stored positions. -/
def Rood.cutFrames (slot : Nat) (e : Entry) (x : Rood) : List (SesFrame × Nat × (Nat → Nat → List Byte)) :=
  let g := e.geom
  let pos := slot % x.width
  let h := g.held (x.allocated slot e)
  (g.frameOrder e.stored).map (fun f =>
    let m := if f.kind = 0 then h.1 else if f.kind = 1 then h.2.1 else h.2.2
    let key := x.kv.translate pos e.dirRoot.toNat f.layer f.kind m f.num
    ({ f with key := key }, keyPos key, fun off n => x.kv.frameRead key off n))

/-- A session as it is recorded: one recorded RESIDENT has the PECKS of its stored positions, so that a step, an append or a
prefill that has not completed has not happened (R403, R110). -/
def CkpSession.of (slot : Nat) (e : Entry) (x : Rood) (st : SesState) (refs : List (Nat × Nat × Nat × Nat)) : CkpSession :=
  { slot := slot
    entry := { e with
      state := st, moveKind := 0, dirRoot := 0, bushel := 0
      pecks := if st = .resident then e.geom.peckCount e.stored else e.pecks }
    digests := [padTo 48 e.geo.digest, x.adapterDigest e, x.listDigest e], refs := refs }

/-- The bushel of a session that is PARKED or MOVING from that state: its entry names it, or its move does (Table 3.1). -/
def Rood.bushelId (slot : Nat) (e : Entry) (x : Rood) : Nat :=
  if e.state = .moving then ((x.move? slot).map (fun m => m.obj)).getD 0 else e.bushel

/-- A PARKED session: its frames from its bushel, or as the reference recorded them; unreadable, it is recorded SUSPECT. -/
def Rood.cutParked (ctx : Ctx) (slot : Nat) (e : Entry) (c : Cutting) (x : Rood) : Rood × CkpSession × Cutting :=
  let g := e.geom
  let order := g.frameOrder e.stored
  let id := x.bushelId slot e
  let key := fun i => id * 2 ^ 32 + i
  let enter := fun (x : Rood) (rd : Nat → SesFrame → (Nat → Nat → List Byte)) =>
    let r := c.enterAll g e.stored (order.zipIdx.map (fun f => ({ f.1 with key := key f.2 }, slot % x.width, rd f.2 f.1)))
    (x, CkpSession.of slot e x .parked r.1, r.2)
  if order.isEmpty then (x, CkpSession.of slot e x .parked [], c)
  else if order.zipIdx.all (fun f => (lookKey (key f.2) c.old).isSome) then
    let refs := order.zipIdx.map (fun f => (f.1.layer, f.1.kind, f.1.num, (lookKey (key f.2) c.old).getD 0))
    (x, CkpSession.of slot e x .parked refs, refs.zipIdx.foldl (fun c q => match c.prev.bind (fun m => m.frame? q.1.2.2.2) with
      | some f => (c.enter (key q.2) (slot % x.width) f).2
      | none => c) c)
  else
    let r := x.readObject ctx id
    match r.2 with
    | none => (r.1, CkpSession.of slot e x .suspect [], c)
    | some b =>
      let fs := (bushelParts b).2.2
      enter r.1 (fun i _ off n => cut off n (fs.getD i []))

/-- One session. -/
def Rood.cutSession (ctx : Ctx) (slot : Nat) (e : Entry) (c : Cutting) (x : Rood) : Rood × CkpSession × Cutting :=
  match e.recordedAs with
  | .resident =>
    let r := c.enterAll e.geom e.stored (x.cutFrames slot e)
    (x, CkpSession.of slot e x .resident r.1, r.2)
  | .parked => x.cutParked ctx slot e c
  | _ => (x, CkpSession.of slot e x .suspect [], c)

/-- The rood as it stands at the cut, against a reference; none of it is against a base. -/
def Rood.cutImage (ctx : Ctx) (ref : Option CkpRef) (x : Rood) : Rood × CkpImage × Cutting :=
  let c : Cutting :=
    { old := (ref.map (fun r => r.numbers)).getD [], prev := ref.map (fun r => r.image), used := []
      next := (ref.map (fun r => r.nextNumber)).getD 1, frames := [], copied := [] }
  let r := (x.slots.filterMap (fun s => s.2.entry.map (fun e => (s.1, e)))).foldl
    (fun (r : Rood × List CkpSession × Cutting) s =>
      let n := r.1.cutSession ctx s.1 s.2 r.2.2
      (n.1, r.2.1 ++ [n.2.1], n.2.2)) (x, [], c)
  (r.1, { baseGen := x.baseGen, gens := x.slots.map (fun s => (s.1, s.2.gen)), sessions := r.2.1
          frames := r.2.2.frames.map (fun f => f.2), vectors := x.vecs.map (fun v => { num := v.num, index := v })
          tally := x.takeTally ctx.time }, r.2.2)

/-! ## Running a checkpoint (R404, R409 to R411, R423, R425) -/

/-- The command's fields. -/
def Cmd.ckpTarget (c : Cmd) : Nat := c.f 16 0 2
def Cmd.ckpBase (c : Cmd) : Bool := c.f 16 2 1 == 1
def Cmd.ckpLean (c : Cmd) : Bool := c.f 16 3 1 == 1
def Cmd.ckpSeq (c : Cmd) : Nat := c.f 24 0 64

/-- Sixteen frames of each stack group are the copy buffers (R409). -/
def Rood.copyNeeds (x : Rood) : List (Nat × Nat) := (List.range x.width).map (fun p => (p, 16 * frameBytes))

def Rood.freeCopy (x : Rood) : Rood :=
  x.giveRoom ((x.kv.frames.filter (fun f => f.2.use == .copyBuf)).map (fun f => f.1))

/-- R410, but for the frame numbers; `ctl` is the control word that governs the checkpoint (R414). -/
def Rood.takesBase (ctl : W64) (c : Cmd) (x : Rood) : Bool :=
  c.ckpBase ||
    (match x.ckp.ref with
     | none => true
     | some r => r.target != c.ckpTarget || r.peers != x.regs.ckpPeers ||
        (bitsOf ctl.toNat 8 8 != 0 && decide (bitsOf ctl.toNat 8 8 ≤ r.deltas + 1)))

/-- The record frame numbers that a failed checkpoint has given stay given, unless it restarted them (R412). -/
def CkpRef.keepNumbers (run : CkpRun) (r : CkpRef) : CkpRef :=
  if run.base then r else { r with numbers := run.next.numbers, nextNumber := run.next.nextNumber }

/-- Ends a running checkpoint: the copy buffers return and its command completes; on ST_OK it becomes the reference. -/
def Rood.endTake (now : W64) (run : CkpRun) (status : Nat) (x : Rood) : Rood :=
  let ok := status = stOk
  let ref := if ok then some run.next else x.ckp.ref.map (CkpRef.keepNumbers run)
  let x := ({ x with ckp := { x.ckp with run := none, ref := ref } } : Rood).freeCopy
  let x := if ok then x.count 15 1 else x
  match x.cmd? run.cmd with
  | some c => x.complete now c { c.record status with result := [0, 0, run.next.seq % 2 ^ 32, run.next.seq / 2 ^ 32] }
  | none => x

/-- A chain checkpoint fails: the shards that are not durable yet go on (R425). -/
def Rood.failTake (now : W64) (run : CkpRun) (x : Rood) : Rood :=
  ({ x with ckp := { x.ckp with trailing := x.ckp.trailing ++ run.shards.filter (fun s => !s.durable) } } : Rood).endTake
    now run stPeer

/-- The shard headers of a payload. -/
def Rood.shardHdrs (ctx : Ctx) (run : CkpRun) (k parity : Nat) (payload : List Byte) (shards : List (List Byte)) (x : Rood) :
    List ShardHdr :=
  shards.zipIdx.map (fun s =>
    { index := s.2, k := k, parity := parity, lean := run.lean, base := run.base, lineage := x.regs.lineage
      seq := run.next.seq, prevSeq := run.prevSeq, baseSeq := run.next.baseSeq, cutTime := run.cutTime
      payloadLen := payload.length, shardLen := shardLenOf payload.length k, shape := x.shape ctx
      payloadCrc := crc32c payload, shardCrc := crc32c s.1, srcDevice := ctx.dev.number, srcRood := x.num })

/-- The payload of a running checkpoint. -/
def Rood.ckpPayload (run : CkpRun) (x : Rood) : List Byte :=
  run.next.image.payload x.slotCap run.lean (if run.base then none else x.ckp.ref.map (fun r => r.image))

/-- The headers and data of a running checkpoint's shards. -/
def Rood.ckpShards (ctx : Ctx) (run : CkpRun) (k parity : Nat) (x : Rood) : List (ShardHdr × List Byte) :=
  let p := x.ckpPayload run
  let ds := codeShards k parity (shardLenOf p.length k) p
  (x.shardHdrs ctx run k parity p ds).zip ds

/-- Offers one shard to a device: none where no route leads to it. -/
def Rood.offerShard (ctx : Ctx) (peer : Nat) (s : ShardHdr × List Byte) (x : Rood) : Rood × ShardRun :=
  let o := x.newOp ctx
  (o.2.sendChain peer 0x20 x.ckpRood o.1 s.1.bytes,
    { peer := peer, rood := x.ckpRood, op := o.1, accepted := false, durable := false, hdr := s.1, data := s.2 })

/-- Offers every shard, and every mirror, to its device (R423). -/
def Rood.offerShards (ctx : Ctx) (run : CkpRun) (x : Rood) : Rood :=
  let ss := x.ckpShards ctx run x.ckpK 2
  let r := (x.ckpDevices.zip (if x.ckpMirror then ss ++ ss else ss)).foldl (fun (r : Rood × List ShardRun) q =>
    let o := r.1.offerShard ctx q.1 q.2
    (o.1, r.2 ++ [o.2])) (x, [])
  let run := { run with shards := r.2 }
  if run.shards.all (fun s => ctx.dev.reaches s.peer) then { r.1 with ckp := { r.1.ckp with run := some run } }
  else r.1.failTake ctx.time run

/-- The cut: the sequence number is taken, the image fixed, and the copy begins. -/
def Rood.cutTake (ctx : Ctx) (ctl : W64) (c : Cmd) (x : Rood) : Rood :=
  let x := (x.takeRoom .copyBuf x.copyNeeds).2
  let seq := x.ckp.nextSeq
  let base := x.takesBase ctl c
  let r := x.cutImage ctx (if base then none else x.ckp.ref)
  let base' := base || decide (2 ^ 32 < r.2.2.next)
  let r := if base = base' then r else x.cutImage ctx none
  let ref := if base' then none else x.ckp.ref
  let next : CkpRef :=
    { seq := seq, baseSeq := (ref.map (fun f => f.baseSeq)).getD seq, deltas := (ref.map (fun f => f.deltas + 1)).getD 0
      target := c.ckpTarget, peers := x.regs.ckpPeers, image := r.2.1, numbers := r.2.2.numbers, nextNumber := r.2.2.next }
  let run : CkpRun :=
    { cmd := c.id, lean := c.ckpLean, base := base', prevSeq := (ref.map (fun f => f.seq)).getD 0, cutTime := ctx.time
      next := next, shards := [], suspect := false }
  let y := r.2.2.copied.foldl (fun y p => y.countSlice p 23 1) r.1
  let y := ({ y with ckp := { y.ckp with nextSeq := seq + 1, steps := 0, run := some run } } : Rood).setCmd
    { c with stage := .running }
  if c.ckpTarget = 1 then y.offerShards ctx run else y

/-- CKP_TAKE when its turn has come: R417, then the copy buffers (R409). -/
def Rood.runTake (ctx : Ctx) (ctl : W64) (c : Cmd) (x : Rood) : Rood :=
  if c.ckpTarget = 1 && !x.peersOk ctx then x.fail ctx.time c stBadState
  else if !x.roomFor x.copyNeeds then x.fail ctx.time c stAdmitMem
  else x.cutTake ctx ctl c

/-- Checks 2 and 4 of CKP_TAKE and CKP_RESTORE (R417, R426). -/
def Cmd.ckpCheck (ctx : Ctx) (c : Cmd) : Nat :=
  if !c.wellFormed || decide (2 ≤ c.ckpTarget) then stFormat
  else if c.ckpTarget = 1 && !ctx.chainOk then stNotLicensed
  else 0

/-! ## A store of shards (R424) -/

/-- Lineage, sequence, index and BASE of a shard object. -/
def FlashObj.shard? (o : FlashObj) : Option (W64 × Nat × Nat × Bool) :=
  match o.kind with
  | .shard l s i b => some (l, s, i, b)
  | .bushel _ => none

/-- The shard objects of a lineage and index. -/
def Rood.shardsOf (l : W64) (i : Nat) (x : Rood) : List FlashObj :=
  x.flash.filter (fun o => match o.shard? with
    | some (l', _, i', _) => l' == l && i' == i
    | none => false)

/-- The older of the newest two bases; 0 while the store holds fewer. -/
def olderBase (os : List FlashObj) : Nat :=
  let bs := os.filterMap (fun o => match o.shard? with
    | some (_, s, _, true) => some s
    | _ => none)
  let top := bs.foldl max 0
  (bs.filter (fun s => s != top)).foldl max 0

/-- Discards what a store does not keep: shards older than the older of the newest two bases. -/
def Rood.discardOld (l : W64) (i : Nat) (x : Rood) : Rood :=
  let os := x.shardsOf l i
  (os.filter (fun o => match o.shard? with
    | some (_, s, _, _) => decide (s < olderBase os)
    | none => false)).foldl (fun x o => x.freeObject o.id) x

/-- Stores a shard: a shard of the same lineage, sequence and index is replaced; none where the share does not hold it. -/
def Rood.storeShard (ctx : Ctx) (h : ShardHdr) (data : List Byte) (x : Rood) : Option Rood :=
  let same := (x.shardsOf h.lineage h.index).filter (fun o => match o.shard? with
    | some (_, s, _, _) => s == h.seq
    | none => false)
  (x.writeObject ctx (.shard h.lineage h.seq h.index h.base) (shardObject h data)).map (fun y =>
    (same.foldl (fun y o => y.freeObject o.id) y).discardOld h.lineage h.index)

/-! ## Progress of a running checkpoint -/

/-- CKP_TAKE_DONE: the copy of a local checkpoint ends, or every shard of a chain checkpoint is durable. -/
def Rood.takeDone (ctx : Ctx) (mediaOk : Bool) (x : Rood) : Rood :=
  match x.ckp.run with
  | none => x
  | some run =>
    if run.suspect then x.endTake ctx.time run stSuspect
    else if run.next.target = 1 then
      if run.shards.all (fun s => s.durable) then x.endTake ctx.time run stOk else x
    else if !mediaOk then x.endTake ctx.time run stMedia
    else
      match (x.ckpShards ctx run 1 0).head?.bind (fun s => x.storeShard ctx s.1 s.2) with
      | some y => y.endTake ctx.time run stOk
      | none => x.endTake ctx.time run stMedia

/-- CKP_TAKE_DONE (R425). -/
def execCkpTakeDone (r : Nat) (media : Media) (s : State) : Result :=
  .next (onFlash media.wear r (fun ctx x => (x.takeDone ctx media.ok).pump ctx.time) s)

/-- The shard of an operation with a peer, running or trailing. -/
def Rood.shardOp (peer op : Nat) (x : Rood) : Option ShardRun :=
  (((x.ckp.run.map (fun r => r.shards)).getD []) ++ x.ckp.trailing).find? (fun s => s.peer == peer && s.op == op)

/-- Changes the shards of an operation with a peer. -/
def Rood.modShard (peer op : Nat) (f : ShardRun → ShardRun) (x : Rood) : Rood :=
  let g := fun (s : ShardRun) => if s.peer == peer && s.op == op then f s else s
  { x with ckp := { x.ckp with
      run := x.ckp.run.map (fun r => { r with shards := r.shards.map g }), trailing := x.ckp.trailing.map g } }

/-- SHARD_ACCEPT: the shard's data follows. -/
def Rood.shardAccepted (peer op : Nat) (x : Rood) : Rood :=
  match x.shardOp peer op with
  | some s =>
    if s.accepted then x
    else
      (chunks 65536 s.data).zipIdx.foldl (fun x c => x.sendChain peer 0x23 s.rood op (leBytes 8 (65536 * c.2) ++ c.1))
        (x.modShard peer op (fun s => { s with accepted := true }))
  | none => x

/-- SHARD_DONE: the shard is durable on its peer. -/
def Rood.shardDurable (peer op : Nat) (x : Rood) : Rood :=
  let x := x.modShard peer op (fun s => { s with durable := true })
  { x with ckp := { x.ckp with trailing := x.ckp.trailing.filter (fun s => !s.durable) } }

/-- SHARD_REFUSE, or the end of the epoch of a shard: the checkpoint completes with ST_PEER (R425). -/
def Rood.shardFailed (now : W64) (which : ShardRun → Bool) (x : Rood) : Rood :=
  let x := { x with ckp := { x.ckp with trailing := x.ckp.trailing.filter (fun s => !which s) } }
  match x.ckp.run with
  | some run =>
    if run.shards.any (fun s => which s && !s.durable) then
      (x.failTake now { run with shards := run.shards.filter (fun s => !which s) }).pump now
    else x
  | none => x

/-! ## Integrity events during the copy (R408) -/

/-- Sessions that an event touches before they are copied are recorded SUSPECT. A chain checkpoint has been copied when its
shards are offered. -/
def Rood.ckpSuspect (p : CkpSession → Bool) (x : Rood) : Rood :=
  match x.ckp.run with
  | some run =>
    if run.next.target = 1 then x
    else
      let f := fun (s : CkpSession) => if p s then { s with entry := { s.entry with state := .suspect }, refs := [] } else s
      let m := { run.next.image with sessions := run.next.image.sessions.map f }
      { x with ckp := { x.ckp with run := some { run with next := { run.next with image := m } } } }
  | none => x

/-- The session of a slot is touched. -/
def Rood.ckpTouch (slot : Nat) (x : Rood) : Rood := x.ckpSuspect (fun s => s.slot == slot)

/-- A frame is touched: also one that a session which has gone since the cut has left to the checkpointer (R407, R408). -/
def Rood.ckpTouchFrame (key : Nat) (x : Rood) : Rood :=
  match x.ckp.run.bind (fun r => lookKey key r.next.numbers) with
  | some n => x.ckpSuspect (fun s => s.refs.any (fun q => q.2.2.2 == n))
  | none => x

/-- A vector node frame is touched before it is copied: the checkpoint completes with ST_SUSPECT. -/
def Rood.ckpTouchVec (x : Rood) : Rood :=
  match x.ckp.run with
  | some run => if run.next.target = 1 then x else { x with ckp := { x.ckp with run := some { run with suspect := true } } }
  | none => x

/-! ## Triggers (R415, R416) -/

/-- The descriptor of a triggered checkpoint, from ROOD_CKP_CTL as it stood when the trigger fell due. -/
def Rood.triggerCmd (t : Bool × W64) (x : Rood) : Cmd :=
  let ctl := t.2.toNat
  let tag := 0xFFFFFFFFFFFFFF00 + if t.1 then 1 else 2
  let raw := 0x30 + tag * 2 ^ 64 + (bitsOf ctl 4 2 + 8 * bitsOf ctl 6 1) * 2 ^ 128
  { Cmd.ofLine x.nextCmd 8 (bitsOf ctl 0 3) (.clean (BitVec.ofNat 512 raw)) with stage := .running }

/-- A trigger is held with the control word of the moment at which it fell due (R414). -/
def Rood.holdTrigger (t : Bool × W64) (x : Rood) : Rood :=
  { x with ckp := { x.ckp with trigger := some (x.ckp.trigger.getD t) } }

/-- A trigger fires when nothing runs or waits, a record of CRING can be reserved, and the pool supplies the copy buffers of a
checkpoint that would be cut, outside the recovery state; else it is held (R409, R415, R473). -/
def Rood.fireTrigger (ctx : Ctx) (t : Bool × W64) (x : Rood) : Rood :=
  let c := x.triggerCmd t
  let cuts := c.ckpCheck ctx == 0 && (c.ckpTarget != 1 || x.peersOk ctx)
  if x.fenced then x
  else if x.ckpBusy || x.ckpPending || ctx.dev.integ.recovery || !((x.crings[c.cring]?).any CRing.canReserve) ||
      (cuts && !x.roomFor x.copyNeeds) then x.holdTrigger t
  else
    let x := ({ x with nextCmd := x.nextCmd + 1, cmds := x.cmds ++ [c], ckp := { x.ckp with trigger := none, steps := 0 } } : Rood).modCring
      c.cring (fun r => { r with reserved := r.reserved + 1 })
    let st := c.ckpCheck ctx
    if st ≠ 0 then x.fail ctx.time c st else x.runTake ctx t.2 c

/-- CKP_INTERVAL_TIMER (R415): INTERVAL_MS has passed since the last cut. -/
def execCkpIntervalTimer (r : Nat) (s : State) : Result :=
  .next (onRood r (fun ctx x =>
    if x.ckpField 7 1 = 1 ∧ x.ckpField 32 32 ≠ 0 then (x.fireTrigger ctx (true, x.regs.ckpCtl)).pump ctx.time else x) s)

/-- The trigger of STEPS_K, looked at after each step boundary. -/
def Rood.stepTrigger (ctx : Ctx) (x : Rood) : Rood :=
  let k := x.ckpField 16 16
  if x.ckpField 7 1 = 1 ∧ k ≠ 0 ∧ 1024 * k ≤ x.ckp.steps ∧ x.ckp.trigger.isNone then x.fireTrigger ctx (false, x.regs.ckpCtl) else x

end Sys2Proof.Machine
end

