-- ==== Sys2Proof/Machine/Restore.lean ====
section
/-! DEFINITION. Restoring a rood from checkpoints (R426 to R432): the inventory, the choice, the fetch, admission, and the one
act that replaces sessions, frames, bushels and indexes. -/
namespace Sys2Proof.Machine
open Sys2Proof

/-! ## Inventory and choice (R427, R428) -/

/-- Headers of the shards that the rood's own share holds of a lineage. -/
def Rood.ownShards (ctx : Ctx) (l : W64) (x : Rood) : List ShardHdr :=
  ((x.flash.filter (fun o => match o.shard? with
    | some (l', _, _, _) => l' == l
    | none => false)).filterMap (fun o =>
      (o.exts.head?.bind (fun e => ctx.dev.flash.readExtent x.storageKey e)).map (fun b => b.take 128))).filter shardHdrOk |>.map readShardHdr

/-- The order of shards of one sequence: their index, then the device that holds a copy, so that nothing depends on the order in
which inventories arrive (R40). -/
def InvItem.before (i j : InvItem) : Bool :=
  decide (i.hdr.index < j.hdr.index) || (i.hdr.index == j.hdr.index && decide (i.peer < j.peer))

/-- The first shard in that order. -/
def leastItem (l : List InvItem) : Option InvItem :=
  l.foldl (fun m i => match m with
    | none => some i
    | some j => if i.before j then some i else some j) none

/-- Shards of one sequence that count: those that agree with the shard of lowest index. -/
def countedOf (items : List InvItem) (seq : Nat) : List InvItem :=
  let g := items.filter (fun i => i.hdr.seq == seq)
  match leastItem g with
  | none => []
  | some j => g.filter (fun i => i.hdr.prevSeq == j.hdr.prevSeq && i.hdr.baseSeq == j.hdr.baseSeq && i.hdr.k == j.hdr.k &&
      i.hdr.payloadLen == j.hdr.payloadLen && i.hdr.lean == j.hdr.lean && i.hdr.base == j.hdr.base && i.hdr.shape == j.hdr.shape)

/-- A sequence is complete: K distinct indexes, and the rood's shape; a sequence that could not be rebuilt is not. -/
def completeSeq (shape : List Byte) (bad : List Nat) (items : List InvItem) (seq : Nat) : Bool :=
  match countedOf items seq with
  | [] => false
  | i :: l =>
    !bad.contains seq && i.hdr.shape == shape &&
      decide (i.hdr.k ≤ ((i :: l).map (fun j => j.hdr.index)).eraseDups.length)

/-- The chain of a sequence from its base upwards; none where it is not restorable. -/
def chainOf (shape : List Byte) (bad : List Nat) (items : List InvItem) : (fuel seq : Nat) → Option (List Nat)
  | 0, _ => none
  | f + 1, seq =>
    if !completeSeq shape bad items seq then none
    else
      match countedOf items seq with
      | [] => none
      | i :: _ => if i.hdr.base then some [seq] else (chainOf shape bad items f i.hdr.prevSeq).map (fun l => l ++ [seq])

def RestoreRun.chain (shape : List Byte) (r : RestoreRun) (seq : Nat) : Option (List Nat) :=
  chainOf shape r.bad r.items (r.items.length + 1) seq

/-- The sequence that the restore takes, or the status with which it ends. -/
def RestoreRun.choose (shape : List Byte) (want : Nat) (r : RestoreRun) : Nat × Option Nat :=
  if !r.items.isEmpty && r.items.all (fun i => i.hdr.shape != shape) then (stShape, none)
  else
    let seqs := if want ≠ 0 then [want] else (r.items.map (fun i => i.hdr.seq)).eraseDups
    match (seqs.filter (fun s => (r.chain shape s).isSome)).foldl (fun m s => match m with
        | none => some s
        | some t => some (max s t)) (none : Option Nat) with
    | some s => (0, some s)
    | none => (stIncomplete, none)

/-! ## The end of a restore -/

/-- The restore ends; vector queries that it held back are judged (R426). -/
def Rood.endRestore (ctx : Ctx) (r : RestoreRun) (status : Nat) (x : Rood) : Rood :=
  let x := { x with ckp := { x.ckp with restore := none } }
  let x := match x.cmd? r.cmd with
    | some c => x.complete ctx.time c { c.record status with result := [0, 0, r.chosen % 2 ^ 32, r.chosen / 2 ^ 32] }
    | none => x
  (x.releaseQueries ctx).settle ctx

def Rood.setRestore (r : RestoreRun) (x : Rood) : Rood := { x with ckp := { x.ckp with restore := some r } }

/-! ## Rebuilding a chain (R419, R422, R429) -/

/-- The shards in hand of one checkpoint, by index. -/
def RestoreRun.inHand (seq : Nat) (r : RestoreRun) : List ShardPart := r.parts.filter (fun p => p.seq == seq)

/-- The sublists of `n` members, in the order of the list. -/
def sublistsOf {α : Type} : (n : Nat) → List α → List (List α)
  | 0, _ => [[]]
  | _ + 1, [] => []
  | n + 1, a :: l => (sublistsOf n l).map (fun s => a :: s) ++ sublistsOf (n + 1) l

/-- The payload that some shards give; none where its CRC fails. -/
def payloadFrom (ps : List ShardPart) : Option (List Byte) :=
  ps.head?.bind (fun p =>
    let h := p.hdr
    ((decodeShards h.k h.shardLen (ps.map (fun q => (q.hdr.index, q.data)))).map
      (fun ds => ds.flatten.take h.payloadLen)).filter (fun b => crc32c b == h.payloadCrc))

/-- The payload of one checkpoint, from K of the shards in hand, those of the lowest indexes first; none where PAYLOAD_CRC fails for
every choice of K (R429). -/
def RestoreRun.payloadOf (seq : Nat) (r : RestoreRun) : Option (List Byte) :=
  let ps := (List.range 16).filterMap (fun i => (r.inHand seq).find? (fun p => p.hdr.index == i))
  (sublistsOf ((ps.head?.map (fun p => p.hdr.k)).getD 1) ps).findSome? payloadFrom

/-- What a chain says together, or the sequence that could not be rebuilt. -/
def RestoreRun.rebuild (seqs : List Nat) (r : RestoreRun) : Except Nat Rebuilt :=
  seqs.foldl (fun a s => match a with
    | .error e => .error e
    | .ok b =>
      match (r.payloadOf s).bind (fun p => b.apply p) with
      | some b => .ok b
      | none => .error s) (.ok Rebuilt.empty)

/-- Some checkpoint of a chain is lean (R413). -/
def RestoreRun.leanChain (seqs : List Nat) (r : RestoreRun) : Bool :=
  r.parts.any (fun p => seqs.contains p.seq && p.hdr.lean)

/-! ## Sessions (R430, R431) -/

/-- The geometry of a recorded session: that of the image in its model slot where the digests agree, else what its references
and frames tell (log entry 41). -/
def Rood.recGeo (b : Rebuilt) (s : RecSession) (x : Rood) : SesGeo :=
  let d := s.digests.headD (zeros 48)
  let guess : SesGeo :=
    let blk := if bitAt (u32At 0 s.entry) 19 then 18 else 34
    let pieces := (s.refs.filter (fun q => q.2.1 == 0)).flatMap (fun q => (lookKey q.2.2.2 b.frames).getD [])
    let blocks := match pieces.head? with
      | some p => p.data.length / (2 * max p.count 1 * (if p.lean then 18 else blk))
      | none => 1
    let heads := Config.restoredHeads d
    let heads := if heads ≠ 0 ∧ blocks % heads = 0 then heads else max blocks 1
    { layers := (s.refs.map (fun q => q.1 + 1)).foldl max 0, kvHeads := heads, headDim := 32 * (max blocks 1 / heads), digest := d }
  match x.placed (u8At 3 s.entry) with
  | some (im, p, _) =>
    if im.digest = d then { layers := p.layers, kvHeads := p.kvHeads, headDim := p.headDim, digest := d } else guess
  | none => guess

/-- The entry of a restored session (R431). -/
def Rood.recEntry (now : W64) (b : Rebuilt) (s : RecSession) (x : Rood) : Entry :=
  let e := readEntry (x.recGeo b s) s.entry
  let same := match x.placed e.modelSlot with
    | some (im, _, _) => im.digest == s.digests.headD [] && x.adapterDigest e == s.digests.getD 1 [] &&
        x.listDigest e == s.digests.getD 2 []
    | none => false
  { e with
    openTime := now, lastTime := now, bushel := 0, dirRoot := 0
    modelSeq := if same then ((x.placed e.modelSlot).map (fun q => q.1.loadSeq)).getD 0 else 0 }

/-- Writes the slots or summaries of one FRAME record into a frame. -/
def Kv.writePiece (g : KvGeom) (kind key : Nat) (k : Kv) (p : RecPiece) : Kv :=
  if kind ≠ 0 then k.frameWrite key (p.first * g.sumBytes) p.data
  else
    let n := p.count * g.nb * (if p.lean then 18 else kvBlk g.kv4)
    (List.range (2 * g.hkv)).foldl (fun k h =>
      let d := cut (h * n) n p.data
      let d := if p.lean && !g.kv4 then (chunks 18 d).flatMap unleanBlock else d
      k.frameWrite key ((if h < g.hkv then 0 else g.voff) + g.blkOff (h % g.hkv) p.first 0) d) k

/-- One frame of a session: a frame that another session has brought already gains a reference (R431; log entry 79). -/
def Kv.restoreFrame (w i table : Nat) (g : KvGeom) (b : Rebuilt) (num : Option Nat) (f : SesFrame)
    (m : List (Nat × Nat) × Kv) : Option (List (Nat × Nat) × Kv) :=
  match num.bind (fun n => lookKey n m.1) with
  | some key => (Kv.enter w i table f.layer f.kind f.num key (m.2.addRef key)).map (fun k => (m.1, k))
  | none =>
    match m.2.alloc w i f.layer (allocNum f.kind f.num) (kindUse f.kind) with
    | none => none
    | some (key, k) =>
      let k := ((num.bind (fun n => lookKey n b.frames)).getD []).foldl (Kv.writePiece g f.kind key) k
      (Kv.enter w i table f.layer f.kind f.num key k).map (fun k =>
        (match num with
          | some n => putKey n key m.1
          | none => m.1, k))

/-- Summaries and super-summaries computed again from the keys (R413). -/
def Kv.resummarize (pos table s : Nat) (g : KvGeom) (k : Kv) : Kv :=
  let v : KvSes := { pos := pos, g := g, table := table, stored := s }
  (List.range g.layers).foldl (fun k l =>
    let k := (List.range (s / g.tok)).foldl (fun k j =>
      k.frameWrite (v.frame k l 1 (j / g.sums)) (j % g.sums * g.sumBytes) (v.summary k (v.frame k l 0 j))) k
    (List.range (s / g.tok / 64)).foldl (fun k n =>
      k.frameWrite (v.frame k l 2 (n / g.sums)) (n % g.sums * g.sumBytes) (v.superSummary k l n)) k) k

/-- The number under which a frame of a recorded session is shared with other restored sessions: its record frame number. In a lean
chain no summary frame is recorded; a full one belongs to whoever references the last peck that it covers, since a fork shares
exactly those (R121, R273, R413, R431). -/
def recNum (lean : Bool) (g : KvGeom) (s : Nat) (refs : List (Nat × Nat × Nat × Nat)) (f : SesFrame) : Option Nat :=
  let num := fun (kind n : Nat) => (refs.find? (fun q => q.1 == f.layer && q.2.1 == kind && q.2.2.1 == n)).map (fun q => q.2.2.2)
  if lean && f.kind != 0 then
    let last := (f.num + 1) * g.sums * (if f.kind = 1 then 1 else 64)
    if last ≤ s / g.tok then (num 0 (last - 1)).map (fun n => n + 2 ^ 33 * f.kind) else none
  else num f.kind f.num

/-- Brings the frames and lines of a recorded session into a store: its layer table, the frames by record number, the store. -/
def Kv.restoreSession (w i : Nat) (g : KvGeom) (s : Nat) (lean : Bool) (b : Rebuilt) (refs : List (Nat × Nat × Nat × Nat))
    (m : List (Nat × Nat) × Kv) : Option (Nat × List (Nat × Nat) × Kv) :=
  if s = 0 then some (0, m)
  else
    match m.2.newLines w i (ceilDiv g.layers 16) with
    | none => none
    | some (t, k) =>
      ((g.frameOrder s).foldl (fun m f => m.bind (Kv.restoreFrame w i t g b (recNum lean g s refs f) f)) (some (m.1, k))).map (fun m =>
        (t, m.1, if lean && g.retr then m.2.resummarize (i % w) t s g else m.2))

/-- Frames that a restored session brings to the pool beside those that others have brought. -/
def newFrames (lean : Bool) (g : KvGeom) (s : Nat) (refs : List (Nat × Nat × Nat × Nat)) (seen : List Nat) : List Nat × Nat :=
  let nums := (g.frameOrder s).filterMap (recNum lean g s refs)
  let shared := (nums.filter (fun n => seen.contains n)).length
  (seen ++ nums, g.frames s - shared)

/-! ## Vector indexes (R432) -/

def NodeState.ofCode : Nat → NodeState
  | 1 => .live
  | 2 => .tombstoned
  | _ => .free

def readEdge (b : List Byte) : Edge := { slot := u32At 0 b, gen := u16At 4 b }

/-- A node record read back (Table 12.2). -/
def readNode (fmt dim : Nat) (b : List Byte) : Node :=
  { element := u32At 0 b, gen := u16At 4 b, state := NodeState.ofCode (u8At 6 b), insCommit := u64At 8 b, delCommit := u64At 16 b
    version := BitVec.ofNat 64 (u64At 24 b), norm2 := BitVec.ofNat 32 (u32At 32 b), vector := cut 64 (vecBytes fmt dim) b
    adj := (List.range (u8At 7 b)).map (fun i => readEdge (cut (64 + vecBytes fmt dim + 8 * i) 8 b)) }

/-- Parameters of a recorded index: ELEM_FMT, METRIC, DIM, DEGREE, CAPACITY. -/
def RecVec.params (v : RecVec) : Nat × Nat × Nat × Nat × Nat :=
  let w := u32At 4 v.root
  (bitsOf w 4 4, bitsOf w 8 4, bitsOf w 16 16, u32At 8 v.root, u32At 12 v.root)

/-- A node as a restore takes it up: one inserted after COMMIT is freed, one deleted after it is live. -/
def restoredNode (commit : Nat) (n : Node) : Node :=
  if n.state = .free then n
  else if commit < n.insCommit then Node.free (n.gen % 65535 + 1)
  else if commit < n.delCommit then { n with state := .live, delCommit := 0 }
  else n

/-- A restored index over frames of its own. -/
def Kv.restoreVec (w num : Nat) (r : RecVec) (k : Kv) : VecIndex × Kv :=
  let p := r.params
  let q := k.newIndex w num p.1 p.2.1 p.2.2.1 p.2.2.2.1 p.2.2.2.2
  let v := q.1
  let commit := u64At 16 r.root
  let size := recBytes v.elemFmt v.dim v.degree
  let nodes : List (Nat × Node) := r.frames.flatMap (fun f => (List.range v.perFrame).filterMap (fun i =>
    let s := f.1 * v.perFrame + i
    let n := restoredNode commit (readNode v.elemFmt v.dim (cut (i * size) size f.2))
    if s < v.capacity ∧ n ≠ Node.free 1 then some (s, n) else none))
  let v := { v with nodes := nodes.foldl (fun (l : List (Nat × Node)) (n : Nat × Node) => putKey n.1 n.2 l) [] }
  let entry := cut 24 8 r.root
  let root : RootImage :=
    { commit := commit, entry := if allZero entry then none else some (readEdge entry), live := v.live, tombs := v.tombs
      free := v.freeSlots, serial := max 1 (u64At 48 r.root) }
  ({ v with rootA := root }, q.2)

/-! ## Admission (R429) -/

/-- What a rebuilt state needs beside the present one. -/
structure RestoreNeeds where
  frames : Nat
  lines : List (Nat × Nat)
  exts : Nat

def Rood.restoreNeeds (lean : Bool) (b : Rebuilt) (x : Rood) : RestoreNeeds :=
  let ses := b.sessions.map (fun s => (s.1, x.recEntry 0 b s.2, s.2.refs))
  let res := ses.filter (fun s => s.2.1.state == SesState.resident)
  let park := ses.filter (fun s => s.2.1.state == SesState.parked)
  let f := res.foldl (fun (a : List Nat × Nat) s =>
    let n : List Nat × Nat := newFrames lean s.2.1.geom s.2.1.stored s.2.2 a.1
    (n.1, a.2 + n.2)) ([], 0)
  let vecs := b.vectors.map (fun v =>
    let p := v.2.params
    let n := vecFrameCounts p.1 p.2.2.1 p.2.2.2.1 p.2.2.2.2
    n.1 + n.2 + 1)
  { frames := f.2 + vecs.sum, lines := res.map (fun s => (s.1 % x.width, s.2.1.geom.lines s.2.1.stored))
    exts := (park.map (fun s => extentsOf (bushelSize (s.2.1.geom.frames s.2.1.stored)))).sum }

/-- The pool, the lines of every stack and the flash share hold those needs. -/
def Rood.admits (n : RestoreNeeds) (x : Rood) : Bool :=
  decide (n.frames ≤ x.framesOpen) &&
    (List.range x.width).all (fun p => decide (((n.lines.filter (fun l => l.1 == p)).map (fun l => l.2)).sum ≤ x.linesOpen p)) &&
    x.shareHolds n.exts

/-- The index numbers and retrieval sessions are within the licence. -/
def Rood.restoreLicensed (ctx : Ctx) (b : Rebuilt) (x : Rood) : Bool :=
  (ctx.retrievalOk || b.sessions.all (fun s => !(x.recEntry 0 b s.2).retrieval)) &&
    (b.vectors.isEmpty || (ctx.vectorOk &&
      b.vectors.all (fun v => decide (v.1 < (ctx.licence.map (fun l => l.indexes)).getD 0))))

/-! ## Fetching (R429) -/

/-- The next shard to fetch of a sequence: an index not in hand, not in transit and not tried, the lowest; then a mirror of an
index that was tried. -/
def RestoreRun.nextItem (seq : Nat) (r : RestoreRun) : Option InvItem :=
  let busy := fun (i : InvItem) =>
    (r.inHand seq).any (fun p => p.hdr.index == i.hdr.index) || r.fetching.any (fun f => f.seq == seq && f.index == i.hdr.index)
  let fresh := (countedOf r.items seq).filter (fun i => !busy i && !r.tried.contains (seq, i.hdr.index, i.peer))
  (leastItem (fresh.filter (fun i => !r.tried.any (fun t => t.1 == seq && t.2.1 == i.hdr.index)))).or (leastItem fresh)

/-- K of a sequence. -/
def RestoreRun.kOf (seq : Nat) (r : RestoreRun) : Nat := ((countedOf r.items seq).head?.map (fun i => i.hdr.k)).getD 1

/-- Shards still to be asked for: K, and one more each time that PAYLOAD_CRC failed. -/
def RestoreRun.missing (seq : Nat) (r : RestoreRun) : Nat :=
  r.kOf seq + r.more.count seq - (r.inHand seq).length - (r.fetching.filter (fun f => f.seq == seq)).length

/-- The CRC of a shard's data holds. -/
def ShardPart.ok (p : ShardPart) : Bool := p.data.length == p.hdr.shardLen && crc32c p.data == p.hdr.shardCrc

/-- Reads one shard from the rood's own flash share. -/
def Rood.readOwn (ctx : Ctx) (l : W64) (i : InvItem) (x : Rood) : Rood × Option ShardPart :=
  match (x.shardsOf l i.hdr.index).find? (fun o => match o.shard? with
    | some (_, s, _, _) => s == i.hdr.seq
    | none => false) with
  | none => (x, none)
  | some o =>
    let r := x.readObject ctx o.id
    (r.1, (r.2.map (fun b => { seq := i.hdr.seq, hdr := readShardHdr (b.take 128), data := b.drop 4096 })).filter ShardPart.ok)

/-- Takes up one shard: from flash at once, from a peer by SHARD_GET. -/
def Rood.fetchOne (ctx : Ctx) (r : RestoreRun) (i : InvItem) (x : Rood) : Rood × RestoreRun :=
  if r.source = 0 then
    let q := x.readOwn ctx x.regs.lineage i
    (q.1, { r with tried := r.tried ++ [(i.hdr.seq, i.hdr.index, i.peer)], parts := r.parts ++ q.2.toList })
  else
    let o := x.newOp ctx
    (o.2.sendChain i.peer 0x27 x.ckpRood o.1 (leBytes 8 x.regs.lineage.toNat ++ leBytes 8 i.hdr.seq ++ leBytes 4 i.hdr.index ++ zeros 4),
      { r with
        tried := r.tried ++ [(i.hdr.seq, i.hdr.index, i.peer)]
        fetching := r.fetching ++ [{ op := o.1, seq := i.hdr.seq, index := i.hdr.index, peer := i.peer, hdr := none, data := [] }] })

/-- Asks for every shard that a chain still lacks; a sequence that lacks one with nothing left to ask for goes to `bad`. -/
def Rood.fetchMore (ctx : Ctx) (seqs : List Nat) : (fuel : Nat) → RestoreRun → Rood → Rood × RestoreRun
  | 0, r, x => (x, r)
  | f + 1, r, x =>
    match seqs.find? (fun s => decide (0 < r.missing s) && !r.bad.contains s) with
    | none => (x, r)
    | some s =>
      match r.nextItem s with
      | some i => let q := x.fetchOne ctx r i; Rood.fetchMore ctx seqs f q.2 q.1
      | none => Rood.fetchMore ctx seqs f { r with bad := r.bad ++ [s] } x

/-- Everything is in hand: admission, then the licence, then the restore waits to take effect between steps. -/
def Rood.restoreReady (ctx : Ctx) (r : RestoreRun) (b : Rebuilt) (lean : Bool) (x : Rood) : Rood :=
  let n := x.restoreNeeds lean b
  if !x.admits n then x.endRestore ctx r stAdmitMem
  else if !x.restoreLicensed ctx b then x.endRestore ctx r stNotLicensed
  else
    let x := x.setRestore { r with resFrames := n.frames, resLines := n.lines, resExts := n.exts }
    match x.cmd? r.cmd with
    | some c => x.setCmd { c with stage := .ready }
    | none => x

/-- Chooses, fetches and rebuilds, again after each sequence that cannot be rebuilt, until a shard is awaited or the restore
has ended or is ready. -/
def Rood.restoreGo (ctx : Ctx) (want : Nat) : (fuel : Nat) → RestoreRun → Rood → Rood
  | 0, r, x => x.endRestore ctx r stIncomplete
  | f + 1, r, x =>
    match r.choose (x.shape ctx) want with
    | (_, some s) =>
      let seqs := (r.chain (x.shape ctx) s).getD []
      let q := Rood.fetchMore ctx seqs (r.items.length + seqs.length + 1) { r with chosen := s } x
      if seqs.any (fun s => q.2.bad.contains s) then Rood.restoreGo ctx want f q.2 q.1
      else if !q.2.fetching.isEmpty then q.1.setRestore q.2
      else
        match q.2.rebuild seqs with
        | .ok b => q.1.restoreReady ctx q.2 b (q.2.leanChain seqs)
        | .error s =>
          Rood.restoreGo ctx want f (if (q.2.nextItem s).isSome then { q.2 with more := q.2.more ++ [s] } else { q.2 with bad := q.2.bad ++ [s] }) q.1
    | (st, none) => x.endRestore ctx r st

/-- More rounds than a restore can take: each gives up a sequence or takes up one more shard. -/
def RestoreRun.rounds (r : RestoreRun) : Nat := 2 * r.items.length + 1

/-- Goes on with a restore whose inventory is complete and that awaits no shard. -/
def Rood.restoreOn (ctx : Ctx) (r : RestoreRun) (x : Rood) : Rood :=
  if !r.waiting.isEmpty ∨ !r.fetching.isEmpty then x.setRestore r
  else
    match x.cmd? r.cmd with
    | some c => (x.setRestore r).restoreGo ctx c.ckpSeq r.rounds r
    | none => x.setRestore r

/-! ## Starting (R426) -/

/-- A session or vector command of the rood stands in the way (check 7). -/
def Rood.restoreBlocked (x : Rood) : Bool :=
  x.slots.any (fun s => s.2.entry.any (fun e => e.state == .queued || e.state == .running || e.state == .moving)) ||
    !x.vecOps.isEmpty

/-- CKP_RESTORE when its turn has come. -/
def Rood.runRestore (ctx : Ctx) (c : Cmd) (x : Rood) : Rood :=
  if x.restoreBlocked || (c.ckpTarget == 1 && !x.peersOk ctx) then x.fail ctx.time c stBadState
  else
    let r : RestoreRun :=
      { cmd := c.id, source := c.ckpTarget, waiting := [], lists := [], items := [], chosen := 0, tried := [], more := [], fetching := [], parts := []
        bad := [], resFrames := 0, resLines := [], resExts := 0 }
    let x := x.setCmd { c with stage := .running }
    if c.ckpTarget = 0 then
      x.restoreOn ctx { r with items := (x.ownShards ctx x.regs.lineage).map (fun h => { hdr := h, peer := 32 }) }
    else
      let q := x.ckpDevices.foldl (fun (q : Rood × List (Nat × Nat)) p =>
        let o := q.1.newOp ctx
        (o.2.sendChain p 0x25 x.ckpRood o.1 (leBytes 8 x.regs.lineage.toNat), q.2 ++ [(p, o.1)])) (x, [])
      q.1.setRestore { r with waiting := q.2 }

/-! ## Messages of a restore -/

/-- The headers of an INV_LIST that count. -/
def invHeaders (b : List Byte) : List ShardHdr :=
  ((chunks 128 (b.drop 8)).take (u32At 0 b)).filter shardHdrOk |>.map readShardHdr

/-- A peer's inventory, or none of it when it has not answered. -/
def Rood.takeInventory (ctx : Ctx) (which : Nat × Nat → Bool) (hs : List ShardHdr) (x : Rood) : Rood :=
  match x.ckp.restore with
  | none => x
  | some r =>
    let peers := (r.waiting.filter which).map (fun w => w.1)
    if peers.isEmpty then x
    else
      let new := (hs.filter (fun h => h.lineage == x.regs.lineage)).map (fun h => { hdr := h, peer := peers.headD 32 : InvItem })
      x.restoreOn ctx { r with waiting := r.waiting.filter (fun w => !which w), items := r.items ++ new }

/-- Bytes of a peer's INV_LIST arrive; they count when the list is whole (R387). -/
def Rood.takeInvPart (ctx : Ctx) (peer op : Nat) (bs : List Byte) (x : Rood) : Rood :=
  match x.ckp.restore with
  | none => x
  | some r =>
    let all := ((lookKey peer r.lists).getD []) ++ bs
    if !r.waiting.contains (peer, op) then x
    else if all.length < 8 + 128 * u32At 0 all then x.setRestore { r with lists := putKey peer all r.lists }
    else (x.setRestore { r with lists := delKey peer r.lists }).takeInventory ctx (fun w => w == (peer, op)) (invHeaders all)

/-- The fetch of an operation changes; a shard that is whole is taken up, or replaced when its CRC fails. -/
def Rood.modFetch (ctx : Ctx) (which : Fetch → Bool) (f : Fetch → Option Fetch) (x : Rood) : Rood :=
  match x.ckp.restore with
  | none => x
  | some r =>
    if !r.fetching.any which then x
    else
      let fs := r.fetching.filterMap (fun g => if which g then f g else some g)
      let whole := fun (g : Fetch) => match g.hdr with
        | some h => decide (h.shardLen ≤ g.data.length)
        | none => false
      let parts := (fs.filter whole).filterMap (fun g => g.hdr.map (fun h => { seq := g.seq, hdr := h, data := g.data : ShardPart }))
      let r := { r with fetching := fs.filter (fun g => !whole g), parts := r.parts ++ parts.filter ShardPart.ok }
      match x.cmd? r.cmd with
      | some c => (x.setRestore r).restoreGo ctx c.ckpSeq r.rounds r
      | none => x.setRestore r

def Rood.isFetch (peer op : Nat) (f : Fetch) : Bool := f.peer == peer && f.op == op

/-- SHARD_HDR: the header of a fetched shard. -/
def Rood.takeShardHdr (ctx : Ctx) (peer op : Nat) (b : List Byte) (x : Rood) : Rood :=
  x.modFetch ctx (Rood.isFetch peer op) (fun g => if shardHdrOk b then some { g with hdr := some (readShardHdr b) } else none)

/-- SHARD_DATA of a fetched shard, in order. -/
def Rood.takeShardData (ctx : Ctx) (peer op : Nat) (b : List Byte) (x : Rood) : Rood :=
  x.modFetch ctx (Rood.isFetch peer op) (fun g =>
    if g.hdr.isSome && u64At 0 b == g.data.length then some { g with data := g.data ++ b.drop 8 } else some g)

/-- The shards that match do not arrive: each is replaced (R429). -/
def Rood.loseFetch (ctx : Ctx) (which : Fetch → Bool) (x : Rood) : Rood := x.modFetch ctx which (fun _ => none)

/-- CKP_PEER_TIMEOUT (R427, R429): 50 ms have passed without an inventory or a shard. -/
def Rood.restoreTimeout (ctx : Ctx) (x : Rood) : Rood :=
  match x.ckp.restore with
  | none => x
  | some r => if r.waiting.isEmpty then x.loseFetch ctx (fun _ => true) else x.takeInventory ctx (fun _ => true) []

/-! ## Taking effect (R430 to R432) -/

/-- A store and the sessions restored so far. -/
structure Restoring where
  x : Rood
  kv : Kv
  map : List (Nat × Nat)
  slots : List (Nat × Slot)

/-- The bushel of a session recorded PARKED (R373, R431). -/
def Rood.recBushel (gen slot : Nat) (e : Entry) (lean : Bool) (b : Rebuilt) (s : RecSession) (x : Rood) : List Byte :=
  let g := e.geom
  let pos := slot % x.width
  let k := (Kv.restoreSession x.width slot g e.stored lean b s.refs ([], Kv.reset x.width)).getD (0, [], Kv.reset x.width)
  let fs := (k.2.2.sessionFrames pos g k.1 e.stored).map (fun f => (f, k.2.2.frameRead f.key 0 frameBytes))
  let n := fs.length
  padTo (framesOff n) (e.bushelHead gen (s.digests.getD 1 (zeros 48)) (s.digests.getD 2 (zeros 48)) ++
    fs.flatMap (fun f => listEntry g e.stored f.1 f.2)) ++ fs.flatMap (fun f => f.2)

/-- One session of the rebuilt state; none where something that admission reserved is not there. -/
def Restoring.session (ctx : Ctx) (lean : Bool) (b : Rebuilt) (slot : Nat) (s : RecSession) (r : Restoring) : Option Restoring :=
  let e := r.x.recEntry ctx.time b s
  let gen := u8At 1 s.entry
  let put := fun (r : Restoring) (e : Entry) => { r with slots := putKey slot { gen := gen, entry := some e, taken := false } r.slots }
  match e.state with
  | .resident =>
    (Kv.restoreSession r.x.width slot e.geom e.stored lean b s.refs (r.map, r.kv)).map (fun k =>
      put { r with map := k.2.1, kv := k.2.2 } { e with dirRoot := BitVec.ofNat 32 k.1 })
  | .parked =>
    (r.x.writeObject ctx (.bushel slot) (r.x.recBushel gen slot e lean b s)).map (fun y =>
      put { r with x := y } { e with bushel := r.x.nextObj })
  | _ => some (put r e)

/-- The generations of the slots after a restore: a FREE slot's recorded one advanced once. -/
def restoredGen (b : Rebuilt) (i : Nat) : Nat := ((b.gens.getD i 1).toNat) % 255 + 1

/-- Frees the state that a restore replaces (R247, R384). -/
def Rood.dropAll (x : Rood) : Rood :=
  let x := x.slots.foldl (fun x s => match s.2.entry with
    | some e => (if e.bushel = 0 then x else x.freeObject e.bushel).freeKv s.1 e
    | none => x.labDrop s.1) x
  let x := x.vecs.foldl (fun x v => x.dropVec v) x
  { x with kv := { x.kv with labs := List.replicate x.width [] } }

/-- A receiver that cannot keep a session that it has accepted answers with the number of test 7: REFUSE is the one message that ends
a move at its sender (R376, R395; log entry 80). -/
def Rood.rejectArrival (a : Arrival) (x : Rood) : Rood := x.sendChain a.src 0x03 a.srcRood a.op (leBytes 4 7)

/-- Arriving moves end: the slots that they hold belong to the table that goes (log entry 42). -/
def Rood.endArrivals (x : Rood) : Rood :=
  x.arrivals.foldl (fun x a =>
    (x.rejectArrival a).modCring a.cring (fun c => { c with reserved := c.reserved - 1 }))
    { x with arrivals := [] }

/-- Puts the rebuilt sessions and indexes in place of the present ones. -/
def Rood.replaceAll (b : Rebuilt) (q : Restoring) (x : Rood) : Rood :=
  let base := restoredGen b (x.slotCap - 1)
  let free := (List.range x.slotCap).filter (fun i => (lookKey i q.slots).isNone && restoredGen b i != base)
  let slots := free.foldl (fun l i => putKey i { gen := restoredGen b i, entry := none, taken := false } l) q.slots
  let inUse := q.slots.map (fun s => s.1)
  { x with
    slots := slots, baseGen := base
    freeLists := (List.range x.width).map (fun p =>
      { head := [], fresh := p, skip := inUse.filter (fun i => i % x.width == p), tail := [] })
    carried := some { readTally b.tally with carried := true }
    ckp := { x.ckp with ref := none } }

/-- The rebuilt state beside the present one; none where something that admission reserved is not there. -/
def Rood.rebuildBeside (ctx : Ctx) (lean : Bool) (b : Rebuilt) (x : Rood) : Option (Restoring × List VecIndex) :=
  (b.sessions.foldl (fun r s => r.bind (Restoring.session ctx lean b s.1 s.2))
    (some { x := x, kv := x.kv, map := [], slots := [] })).map (fun q =>
      b.vectors.foldl (fun (a : Restoring × List VecIndex) v =>
        let n := Kv.restoreVec x.width v.1 v.2 a.1.kv
        ({ a.1 with kv := n.2 }, a.2 ++ [n.1])) (q, []))

/-- CKP_RESTORE_APPLY: everything is replaced in one act between steps. -/
def Rood.applyRestore (ctx : Ctx) (r : RestoreRun) (b : Rebuilt) (lean : Bool) (x : Rood) : Rood :=
  let x := x.endArrivals
  match x.rebuildBeside ctx lean b with
  | none => x.endRestore ctx r stAdmitMem
  | some (q, vs) =>
    let y := ({ q.x with kv := q.kv } : Rood).dropAll
    let y := { (y.replaceAll b q) with vecs := vs }
    let top := (r.items.map (fun i => i.hdr.seq)).foldl max 0
    ({ y with ckp := { y.ckp with nextSeq := top + 1 } } : Rood).endRestore ctx r stOk

def Rood.restoreApply (ctx : Ctx) (x : Rood) : Rood :=
  match x.ckp.restore with
  | none => x
  | some r =>
    let seqs := (r.chain (x.shape ctx) r.chosen).getD []
    let free := { r with resFrames := 0, resLines := [], resExts := 0 }
    match x.cmd? r.cmd, r.rebuild seqs with
    | some c, .ok b =>
      if c.stage = .ready && x.betweenSteps then (x.setRestore free).applyRestore ctx free b (r.leanChain seqs) else x
    | _, _ => x

/-! ## The order of checkpoint commands (R417) -/

/-- Runs a command whose turn has come. -/
def Rood.runCkp (ctx : Ctx) (c : Cmd) (x : Rood) : Rood := if c.opcode = 0x30 then x.runTake ctx x.regs.ckpCtl c else x.runRestore ctx c

/-- A checkpoint command is accepted: checks 2 and 4, then its turn. -/
def Rood.judgeCkp (ctx : Ctx) (c : Cmd) (x : Rood) : Rood :=
  let st := c.ckpCheck ctx
  let x :=
    if st ≠ 0 then x.fail ctx.time c st
    else if x.ckpBusy then ({ x with ckp := { x.ckp with queue := x.ckp.queue ++ [c.id] } } : Rood).setCmd { c with stage := .waiting }
    else x.runCkp ctx c
  x.pump ctx.time

/-- The next waiting command, or the held trigger when none waits. -/
def Rood.ckpAdvance (ctx : Ctx) (x : Rood) : Rood :=
  if x.ckpRuns then x
  else
    match x.ckp.queue with
    | i :: rest =>
      let x := { x with ckp := { x.ckp with queue := rest } }
      match x.cmd? i with
      | some c => x.runCkp ctx c
      | none => x
    | [] =>
      match x.ckp.trigger with
      | some t => x.fireTrigger ctx t
      | none => x

/-! ## The rows -/

/-- CKP_TAKE (R404, R417). -/
def execCkpTake (r c : Nat) (s : State) : Result :=
  .next (onRood r (fun ctx x => x.onNext c [0x30] [0x30, 0x31] (fun d x => x.judgeCkp ctx d)) s)

/-- CKP_RESTORE (R426). -/
def execCkpRestore (r : Nat) (c : CmdWear) (s : State) : Result :=
  .next (onFlash c.wear r (fun ctx x => x.onNext c.id [0x31] [0x30, 0x31] (fun d x => x.judgeCkp ctx d)) s)

/-- CKP_RESTORE_APPLY (R430). -/
def execCkpRestoreApply (r : Nat) (s : State) : Result := .next (onRood r (fun ctx x => x.restoreApply ctx) s)

/-- CKP_QUEUE_ADVANCE (R415, R417). -/
def execCkpQueueAdvance (r : Nat) (s : State) : Result :=
  .next (onRood r (fun ctx x => (x.ckpAdvance ctx).pump ctx.time) s)

/-- CKP_PEER_TIMEOUT (R427, R429). -/
def execCkpPeerTimeout (r : Nat) (s : State) : Result := .next (onRood r (fun ctx x => x.restoreTimeout ctx) s)

end Sys2Proof.Machine
end

