-- ==== Sys2Proof/Machine/Arrivals.lean ====
section
/-! DEFINITION. What the messages of a peer do to a rood: arriving sessions (R393 to R396), the answers that a move awaits
(R395, R399), shards that the rood stores for a peer (R423, R424), and the end of the operations with a peer (R390, R391). -/
namespace Sys2Proof.Machine
open Sys2Proof

/-! ## OFFER (R393, Table 13.10) -/

/-- Test 4: the objects of the session's slots are those that it is bound to. -/
def Rood.holdsObjects (h : List Byte) (x : Rood) : Bool :=
  let e := hdrEntry h
  (x.placed e.modelSlot).any (fun q => q.1.digest == cut 160 48 h) &&
    (e.adapterSlot == 0xFFFF || x.adapterDigest e == cut 208 48 h && (lookKey e.adapterSlot x.obj.adapters).isSome) &&
    (e.listSet == 0xFF || x.listDigest e == cut 256 48 h && (x.listNow e.listSet).isSome)

/-- Test 5: the geometry is the image's. -/
def Rood.geometryAgrees (h : List Byte) (x : Rood) : Bool :=
  let e := hdrEntry h
  (x.placed e.modelSlot).any (fun q => u8At 6 h == q.2.1.layers && u8At 10 h == q.2.1.kvHeads && u8At 11 h == q.2.1.headDim &&
    u16At 8 h == tokensPerPeck q.2.1.kvHeads q.2.1.headDim e.kv4)

/-- Where an arriving session lands: in flash, PARKED, from a mirror or a PARKED source (R394, R399). -/
def landsInFlash (payload : List Byte) (o : Origin) : Bool := u32At 512 payload == 1 || o.parked

/-- What the sender of an OFFER holds beside it (log entry 28). -/
def Ctx.origin (ctx : Ctx) (src op : Nat) : Origin :=
  (lookKey op (ctx.dev.pair src).origins).getD { tag := 0, handle := 0, parked := false }

/-- The handle of the session at its sender: GEN of ENTRY and the slot (R85, R396). -/
def originHandle (header : List Byte) (o : Origin) : Nat := handleSlot o.handle.toNat ||| u8At 33 header <<< 24

/-- The arrival that an OFFER would begin. -/
def Rood.arrivalOf (src srcRood op slot : Nat) (payload : List Byte) (o : Origin) (x : Rood) : Arrival :=
  { op := op, cring := bitsOf x.regs.chainAccept.toNat 8 3, src := src, srcRood := srcRood, mirror := u32At 512 payload == 1
    header := payload.take 512, slot := slot, list := [], frames := [], toFlash := landsInFlash payload o
    originTag := o.tag.toNat % 2 ^ 32, srcHandle := originHandle (payload.take 512) o }

/-- Tests 7 and 8. -/
def Rood.roomForArrival (a : Arrival) (x : Rood) : Bool :=
  if a.toFlash then x.shareHolds (extentsOf (bushelSize (hdrFrames a.header)))
  else decide (a.needs.1 ≤ x.framesOpen) && decide (a.needs.2 ≤ x.linesOpen (a.slot % x.width))

/-- The first failing test, 0 when all pass; tests 1 and 2 come first for a shard too (R423). Test 1 holds of every rood of a composed
device, a fenced one too; a device without roods answers by `noRoodAnswer`. -/
def Rood.offerTest12 (src : Nat) (x : Rood) : Nat :=
  let v := x.regs.chainAccept.toNat
  if bitAt v 31 && bitAt v (32 + src) then 0 else 2

def Rood.offerTest (ctx : Ctx) (src srcRood op : Nat) (payload : List Byte) (x : Rood) : Nat :=
  let h := payload.take 512
  let t := x.offerTest12 src
  if t ≠ 0 then t
  else if (hdrEntry h).retrieval && !ctx.retrievalOk then 3
  else if !x.holdsObjects h then 4
  else if !x.geometryAgrees h then 5
  else
    match x.popSlot with
    | none => 6
    | some (i, _) =>
      let a := x.arrivalOf src srcRood op i payload (ctx.origin src op)
      if !x.roomForArrival a then 7
      else if !((x.crings[a.cring]?).any CRing.canReserve) then 8
      else 0

/-! ## The session opens (R394, R396) -/

/-- TAG of an arrival record (Table 13.11). -/
def Arrival.tag (a : Arrival) : Nat := a.originTag <<< 32 ||| bit a.mirror <<< 16 ||| a.srcRood <<< 8 ||| a.src

def Arrival.record (handle : Nat) (a : Arrival) : CRec :=
  { status := stOk, yield := 0, implicitRevival := false, nothingDone := false, flagged := false, byteTokens := false
    carried := false, opcode := 0x0A, handle := handle, tag := BitVec.ofNat 64 a.tag, result := [a.srcHandle, 0, 0, 0]
    irqNow := false }

/-- The entry of an arriving session, but for what its place gives it. -/
def Rood.arrivalEntry (now : W64) (a : Arrival) (x : Rood) : Entry :=
  let e := hdrEntry a.header
  { e with
    state := if a.toFlash then .parked else .resident, moveKind := 0, openTime := now, lastTime := now, parent := 0
    grains := 0, streamBytes := 0, modelSeq := ((x.placed e.modelSlot).map (fun q => q.1.loadSeq)).getD 0
    dirRoot := 0, bushel := 0, pecks := if a.toFlash then 0 else e.geom.peckCount e.stored }

/-- Frames of an arrival in peck-list order. -/
def Arrival.frameBytes (a : Arrival) : List (List Byte) := a.frames.map (fun f => f.2)

/-- The place of an arriving session: its extents, or frames and lines of the pool. -/
def Rood.landArrival (ctx : Ctx) (a : Arrival) (x : Rood) : Option (Entry × Rood) :=
  let e := x.arrivalEntry ctx.time a
  if a.toFlash then
    let n := hdrFrames a.header
    (x.writeObject ctx (.bushel a.slot) (padTo (framesOff n) (a.header ++ a.list) ++ a.frameBytes.flatten)).map (fun y =>
      ({ e with bushel := x.nextObj }, y))
  else
    (x.kv.install x.width a.slot e.geom e.stored a.frameBytes).map (fun k =>
      ({ e with dirRoot := BitVec.ofNat 32 k.1 }, { x with kv := k.2 }))

/-- The movers of the positions that hold the frames count them; frames that go to flash are counted by the home mover (R28,
Table 18.1; log entry 22). -/
def Rood.countLanded (a : Arrival) (e : Entry) (x : Rood) : Rood :=
  if a.toFlash then x.countSlice (a.slot % x.width) 23 (hdrFrames a.header) else x.countCopied (x.frameKeys a.slot e)

/-- Every reservation of an arrival ends. -/
def Rood.dropArrival (a : Arrival) (x : Rood) : Rood :=
  { x with arrivals := x.arrivals.filter (fun b => !(b.src == a.src && b.op == a.op)) }

/-- An arrival that ends without a session: slot and record are free again. -/
def Rood.loseArrival (now : W64) (a : Arrival) (x : Rood) : Rood :=
  (((x.dropArrival a).untakeSlot a.slot).modCring a.cring (fun c => { c with reserved := c.reserved - 1 })).pump now

/-- The bushel is whole: in one act the session opens, its arrival record is written and DONE is sent; a bushel that R376 does
not accept, or that cannot be written, ends the move. -/
def Rood.openArrival (ctx : Ctx) (a : Arrival) (x : Rood) : Rood :=
  let fail := (x.loseArrival ctx.time a).rejectArrival a
  if !bushelOk a.header a.list a.frameBytes then fail
  else
    match (x.dropArrival a).landArrival ctx a with
    | none => fail
    | some (e, y) =>
      let y := (y.setEntry a.slot e).mapTally (fun t => { t with sessionsOpened := t.sessionsOpened + 1 })
      let h := y.handleOf a.slot
      (((y.countLanded a e).writeRecord ctx.time a.cring (a.record h)).sendChain
        a.src 0x06 a.srcRood a.op (leBytes 4 h)).pump ctx.time

/-- Opens an arrival that has all its bytes. -/
def Rood.arrivalOn (ctx : Ctx) (a : Arrival) (x : Rood) : Rood :=
  let n := hdrFrames a.header
  if a.frames.length = n ∧ a.list.length = 8 * n then x.openArrival ctx a else x

/-- OFFER at the rood that it names. -/
def Rood.takeOffer (ctx : Ctx) (src srcRood op : Nat) (payload : List Byte) (x : Rood) : Rood :=
  let t := x.offerTest ctx src srcRood op payload
  if t ≠ 0 then x.sendChain src 0x03 srcRood op (leBytes 4 t)
  else
    match x.popSlot with
    | none => x
    | some (i, y) =>
      let a := x.arrivalOf src srcRood op i payload (ctx.origin src op)
      let y := (y.setSlot i { y.slot i with taken := true }).modCring a.cring (fun c => { c with reserved := c.reserved + 1 })
      let y := ({ y with arrivals := y.arrivals ++ [a] } : Rood).sendChain src 0x02 srcRood op (leBytes 4 (y.handleOf i))
      y.arrivalOn ctx a

def Rood.arrival? (src op : Nat) (x : Rood) : Option Arrival := x.arrivals.find? (fun a => a.src == src && a.op == op)

/-- Replaces an arrival, and opens it when it is whole. -/
def Rood.putArrival (ctx : Ctx) (a : Arrival) (x : Rood) : Rood :=
  ({ x with arrivals := x.arrivals.map (fun b => if b.src == a.src && b.op == a.op then a else b) } : Rood).arrivalOn ctx a

/-- LIST: consecutive bytes of the peck list. -/
def Rood.takeListBytes (ctx : Ctx) (src op : Nat) (b : List Byte) (x : Rood) : Rood :=
  match x.arrival? src op with
  | some a => x.putArrival ctx { a with list := (a.list ++ b).take (8 * hdrFrames a.header) }
  | none => x

/-- FRAME: one frame by its peck-list index. -/
def Rood.takeFrame (ctx : Ctx) (src op : Nat) (b : List Byte) (x : Rood) : Rood :=
  match x.arrival? src op with
  | some a =>
    if u32At 0 b < hdrFrames a.header then
      x.putArrival ctx { a with frames := putKey (u32At 0 b) (padTo frameBytes (b.drop 8)) a.frames }
    else x
  | none => x

/-! ## What a move awaits (R395, R399) -/

/-- The move of an operation with a peer. -/
def Rood.moveOf (peer op : Nat) (x : Rood) : Option Move :=
  x.moves.find? (fun m => (decide (4 ≤ m.kind) || m.mirrored) && m.peer == peer && m.op == op)

/-- ACCEPT: LIST and FRAME messages leave. -/
def Rood.takeAccept (peer op : Nat) (x : Rood) : Rood :=
  match x.moveOf peer op with
  | some m => if m.accepted then x else (x.setMove { m with accepted := true }).sendBushel m
  | none => x

/-- REFUSE: the move ends with ST_PEER. -/
def Rood.takeRefuse (ctx : Ctx) (peer op : Nat) (x : Rood) : Rood :=
  match x.moveOf peer op with
  | some m => (x.failMove ctx.time m stPeer m.back true).settle ctx
  | none => x

/-- DONE: a migration ends with ST_OK; a parking, when its bushel is durable too. -/
def Rood.takeDone' (ctx : Ctx) (peer op : Nat) (b : List Byte) (x : Rood) : Rood :=
  match x.moveOf peer op with
  | some m =>
    if m.kind ≠ 1 then (x.finishMigrate ctx.time m (u32At 0 b)).settle ctx
    else if m.durable then (x.finishPark ctx.time { m with mirrorDone := true }).settle ctx
    else x.setMove { m with mirrorDone := true }
  | none => x

/-- ABORT: a receiver frees what it reserved; one for an OP whose DONE has been sent is discarded (R395). -/
def Rood.takeAbort (ctx : Ctx) (src op : Nat) (x : Rood) : Rood :=
  match x.arrival? src op with
  | some a => x.loseArrival ctx.time a
  | none => x

/-! ## Storing shards for a peer (R423, R424) -/

/-- SHARD_OFFER: tests 1, 2 and 7. -/
def Rood.takeShardOffer (src srcRood op : Nat) (b : List Byte) (x : Rood) : Rood :=
  let h := readShardHdr b
  let t := x.offerTest12 src
  let t := if t ≠ 0 then t else if x.shareHolds (extentsOf (4096 + h.shardLen)) then 0 else 7
  if t ≠ 0 then x.sendChain src 0x22 srcRood op (leBytes 4 t)
  else
    ({ x with ckp := { x.ckp with
        incoming := x.ckp.incoming ++ [{ op := op, src := src, srcRood := srcRood, hdr := h, data := [] }] } } : Rood).sendChain
      src 0x21 srcRood op []

/-- SHARD_DATA for a shard that the rood stores; the last of it makes the shard durable. -/
def Rood.storeData (ctx : Ctx) (src op : Nat) (b : List Byte) (x : Rood) : Rood :=
  match x.ckp.incoming.find? (fun i => i.src == src && i.op == op) with
  | none => x
  | some i =>
    if u64At 0 b ≠ i.data.length then x
    else
      let i := { i with data := i.data ++ b.drop 8 }
      let rest := x.ckp.incoming.filter (fun j => !(j.src == src && j.op == op))
      if i.data.length < i.hdr.shardLen then { x with ckp := { x.ckp with incoming := rest ++ [i] } }
      else
        let y := { x with ckp := { x.ckp with incoming := rest } }
        match y.storeShard ctx i.hdr (i.data.take i.hdr.shardLen) with
        | some z => z.sendChain src 0x24 i.srcRood op []
        | none => y.sendChain src 0x22 i.srcRood op (leBytes 4 7)

/-- INV_REQ: the headers of every shard of the lineage. -/
def Rood.answerInventory (ctx : Ctx) (src srcRood op : Nat) (b : List Byte) (x : Rood) : Rood :=
  let hs := x.ownShards ctx (BitVec.ofNat 64 (u64At 0 b))
  x.sendChain src 0x26 srcRood op (leBytes 4 hs.length ++ zeros 4 ++ hs.flatMap ShardHdr.bytes)

/-- SHARD_GET: the shard, or SHARD_NONE. -/
def Rood.answerGet (ctx : Ctx) (src srcRood op : Nat) (b : List Byte) (x : Rood) : Rood :=
  let l : W64 := BitVec.ofNat 64 (u64At 0 b)
  let o := (x.shardsOf l (u32At 16 b)).find? (fun o => match o.shard? with
    | some (_, s, _, _) => s == u64At 8 b
    | none => false)
  match o with
  | none => x.sendChain src 0x29 srcRood op []
  | some o =>
    let r := x.readObject ctx o.id
    match r.2 with
    | none => r.1.sendChain src 0x29 srcRood op []
    | some bs =>
      (chunks 65536 (bs.drop 4096)).zipIdx.foldl (fun x c => x.sendChain src 0x23 srcRood op (leBytes 8 (65536 * c.2) ++ c.1))
        (r.1.sendChain src 0x28 srcRood op (bs.take 128))

/-! ## The end of operations with a peer (R390, R391) -/

/-- What a peer has sent, or is sending, ends: arrivals, shards, requests. -/
def Rood.dropIncoming (now : W64) (peer : Nat) (x : Rood) : Rood :=
  let x := (x.arrivals.filter (fun a => a.src == peer)).foldl (fun x a => x.loseArrival now a) x
  { x with
    vecReqs := x.vecReqs.filter (fun q => q.1 != peer)
    ckp := { x.ckp with incoming := x.ckp.incoming.filter (fun i => i.src != peer) } }

/-- Operations of this rood with the peer end: those that `hit` marks as carried. A timeout sends ABORT where a route exists. -/
def Rood.endOwn (ctx : Ctx) (peer : Nat) (all : Bool) (x : Rood) : Rood :=
  let ms := x.moves.filter (fun m => (decide (4 ≤ m.kind) || (m.mirrored && !m.mirrorDone)) && m.peer == peer && (all || m.accepted))
  let x := ms.foldl (fun x m => x.failMove ctx.time m stPeer m.back all) x
  let x := x.shardFailed ctx.time (fun s => s.peer == peer && (all || s.accepted))
  let os := x.vecOps.filter (fun o => o.sweep && o.waiting.contains peer && (all || (lookKey peer o.joined).isSome))
  let x := os.foldl (fun x o => x.peerFailed ctx.time o) x
  let x := if all then x.takeInventory ctx (fun w => w.1 == peer) [] else x
  (x.loseFetch ctx (fun f => f.peer == peer && (all || f.hdr.isSome))).settle ctx

/-- Some operation of the rood has sent or awaits a message of the pair (R390). -/
def Rood.waitsOn (peer : Nat) (x : Rood) : Bool :=
  x.moves.any (fun m => (decide (4 ≤ m.kind) || (m.mirrored && !m.mirrorDone)) && m.peer == peer) ||
    x.arrivals.any (fun a => a.src == peer) || x.vecOps.any (fun o => o.waiting.contains peer) ||
    x.vecReqs.any (fun q => q.1 == peer) || x.ckp.incoming.any (fun i => i.src == peer) ||
    (((x.ckp.run.map (fun r => r.shards)).getD []) ++ x.ckp.trailing).any (fun s => s.peer == peer && !s.durable) ||
    x.ckp.restore.any (fun r => r.waiting.any (fun w => w.1 == peer) || r.fetching.any (fun f => f.peer == peer))

/-- The epoch of the direction to a peer ends (R390). -/
def Rood.epochEnded (ctx : Ctx) (peer : Nat) (x : Rood) : Rood := (x.dropIncoming ctx.time peer).endOwn ctx peer true

/-- The peer has opened a new epoch: the operations that its old one carried end (R391). -/
def Rood.peerReopened (ctx : Ctx) (peer : Nat) (x : Rood) : Rood := (x.dropIncoming ctx.time peer).endOwn ctx peer false

end Sys2Proof.Machine
end

