-- ==== Sys2Proof/Machine/Units.lean ====
section
/-! DEFINITION. Units as Tables 1.3 and 19.20 number and place them, spare tiles and the defect map (R30, R466, R490). -/
namespace Sys2Proof.Machine
open Sys2Proof

/-- The quadrant of a tile; a spare tile lies in quadrant (s - 96) // 2 (Table 1.3). -/
def tileQuad (t : Nat) : Nat := if t < 96 then t / 24 else (t - 96) / 2

/-- The quadrant of a unit, 0xFF for a unit that lies in none (Table 1.3, Table 19.16). -/
def quadOf : UnitId → Nat
  | .tile t => tileQuad t
  | .bank g _ => g / 6
  | .slice g _ => g / 6
  | .segment g => g / 6
  | .stack g => g / 6
  | .chainPort p => p / 2
  | .flashChan f => f / 4
  | .bridge _ => 0xFF
  | .rail _ => 0xFF
  | .refClock => 0xFF
  | .pll q => q
  | .hostIf => 0
  | .governor => 0
  | .secUnit => 0
  | .cfgLoader => 0
  | .sideband => 0

/-- The stack group of a unit, 0xFF for none. -/
def sgOf : UnitId → Nat
  | .tile t => if t < 96 then t / 4 else 0xFF
  | .bank g _ => g
  | .slice g _ => g
  | .segment g => g
  | .stack g => g
  | _ => 0xFF

/-- UNIT_KIND and UNIT (Table 19.20), which has no kind for the PLL of a quadrant: DESIGN CHOICE, log entry 66. -/
def unitCode : UnitId → Nat × Nat
  | .tile t => (0x01, t)
  | .bank _ c => (0x02, c)
  | .slice _ u => (0x03, u)
  | .segment _ => (0x04, 0)
  | .bridge b => (0x05, b)
  | .stack _ => (0x06, 0)
  | .chainPort p => (0x07, p)
  | .flashChan f => (0x08, f)
  | .hostIf => (0x09, 0)
  | .governor => (0x0A, 0)
  | .secUnit => (0x0B, 0)
  | .cfgLoader => (0x0C, 0)
  | .sideband => (0x0D, 0)
  | .rail k => (0x0E, k)
  | .refClock => (0x0F, 0)
  | .pll _ => (0x00, 0)

/-- The shared units of quadrant 0, and a rail: an event against one ends in a whole-device reset (Table 16.3). -/
def unitShared : UnitId → Bool
  | .hostIf => true
  | .governor => true
  | .secUnit => true
  | .cfgLoader => true
  | .sideband => true
  | .rail _ => true
  | _ => false

/-- The unit is one that runs its own assays in idle gaps (R463). -/
def unitGap : UnitId → Bool
  | .bank g c => decide (g < 24) && decide (c < 64)
  | .slice g u => decide (g < 24) && decide (u < 7)
  | .segment g => decide (g < 24)
  | _ => false

/-- Names the unit in an entry (Table 19.16). -/
def LogEntry.ofUnit (u : UnitId) (e : LogEntry) : LogEntry :=
  { e with quad := quadOf u, sg := sgOf u, unitKind := (unitCode u).1, unit := (unitCode u).2 }

/-- The quadrants that a bridge joins (Table 19.20). -/
def bridgeEnds (b : Nat) : List Nat := [[0, 1], [1, 3], [3, 2], [2, 0]].getD b []

/-- The two bridges of a quadrant. -/
def quadBridges (q : Nat) : List Nat := (List.range 4).filter (fun b => (bridgeEnds b).contains q)

/-! ## Spares and the defect map (Table 17.4) -/

def bvSet {n : Nat} (i : Nat) (v : BitVec n) : BitVec n := v ||| BitVec.ofNat n (2 ^ i)
def bvClear {n : Nat} (i : Nat) (v : BitVec n) : BitVec n := v &&& ~~~(BitVec.ofNat n (2 ^ i))

/-- The lowest free spare of a quadrant, counted from 0. -/
def DefectMap.freeSpare (q : Nat) (m : DefectMap) : Option Nat :=
  [2 * q, 2 * q + 1].find? (fun s => m.spares.getD s 0 == 0xFF)

/-- The spare that stands for an active tile. -/
def DefectMap.spareOf (t : Nat) (m : DefectMap) : Option Nat := (List.range 8).find? (fun s => m.spares.getD s 0xFF == t)

/-- A spare is withdrawn (R464). -/
def DefectMap.withdraw (s : Nat) (m : DefectMap) : DefectMap := { m with spares := m.spares.set s 0xFE }

/-- The tile that holds number `t` fails: it is marked, the spare that had its role is withdrawn, and the lowest free spare of
the quadrant takes the role. False when no spare is free (R466, R490). -/
def DefectMap.failTile (t : Nat) (m : DefectMap) : DefectMap × Bool :=
  let m := { m with tileFailed := bvSet t m.tileFailed }
  let m := match m.spareOf t with
    | some s => m.withdraw s
    | .none => m
  match m.freeSpare (t / 24) with
  | some s => ({ m with spares := m.spares.set s t }, true)
  | .none => (m, false)

/-- The 64 bytes of the map (Table 17.4). -/
def DefectMap.bytes (m : DefectMap) : List Byte :=
  padTo 64 ((m.spares.take 8).map byteOf ++ leBytes 4 m.sgFailed.toNat ++
    leBytes 4 (m.flashFailed.toNat ||| m.portFailed.toNat <<< 16 ||| m.bridgeFailed.toNat <<< 24) ++ leBytes 12 m.tileFailed.toNat)

/-- DEV_SG_FAILED and the stack groups of the map: a stack group is marked failed. -/
def Dev.setFailed (g : Nat) (d : Dev) : Dev := { d with integ := { d.integ with sgFailed := bvSet g d.integ.sgFailed } }

def Dev.mapDefects (f : DefectMap → DefectMap) (d : Dev) : Dev := { d with boot := { d.boot with defects := f d.boot.defects } }

end Sys2Proof.Machine
end

