-- ==== Sys2Proof/Machine/Chain.lean ====
section
/-! DEFINITION. The chain as a receiver and a link (chapter 13): what arrives is acknowledged, ordered and applied; messages for
other devices are forwarded; resends, epochs and link-up. -/
namespace Sys2Proof.Machine
open Sys2Proof

/-! ## The chain as rows -/

/-- Types of Tables 13.9 and 14.8. -/
def knownTypes : List Nat :=
  [0x01, 0x02, 0x03, 0x04, 0x05, 0x06, 0x07, 0x10, 0x11, 0x12, 0x20, 0x21, 0x22, 0x23, 0x24, 0x25, 0x26, 0x27, 0x28, 0x29,
    0x3E, 0x3F]

/-- Counts a discarded message for the rood that it names (Table 18.1). -/
def Dev.discard (m : ChainMsg) (d : Dev) : Dev := if (d.rood? m.dstRood).isSome then d.count .rood m.dstRood 12 1 else d

/-- The number after `s`, `n` steps on a cycle that skips 0: how far `b` lies ahead of `a`. -/
def seqAhead (a b : Nat) : Nat := (b + (2 ^ 32 - 1) - a) % (2 ^ 32 - 1)

/-! ## Applying one message -/

/-- The refusal that a message for a rood which does not exist receives (test 1 of Table 13.10, R366, R424, R429). -/
def noRoodAnswer (m : ChainMsg) : Option (Nat × List Byte) :=
  match m.typ with
  | 0x01 => some (0x03, leBytes 4 1)
  | 0x10 => some (0x12, [])
  | 0x20 => some (0x22, leBytes 4 1)
  | 0x25 => some (0x26, zeros 8)
  | 0x27 => some (0x29, [])
  | _ => none

/-- What a message does to the rood that it names. -/
def Rood.applyMsg (m : ChainMsg) (ctx : Ctx) (x : Rood) : Rood :=
  let x := (x.count 10 1).mapTally (fun t => { t with chainBytesIn := t.chainBytesIn + m.payload.length })
  match m.typ with
  | 0x01 => x.takeOffer ctx m.src m.srcRood m.op m.payload
  | 0x02 => x.takeAccept m.src m.op
  | 0x03 => x.takeRefuse ctx m.src m.op
  | 0x04 => x.takeListBytes ctx m.src m.op m.payload
  | 0x05 => x.takeFrame ctx m.src m.op m.payload
  | 0x06 => x.takeDone' ctx m.src m.op m.payload
  | 0x07 => x.takeAbort ctx m.src m.op
  | 0x10 => x.takeRequest ctx m.src m.srcRood m.op m.payload
  | 0x11 => x.takeList m.src m.op m.payload
  | 0x12 => (match x.sweepOf m.src m.op with
    | some o => x.peerFailed ctx.time o
    | none => x)
  | 0x20 => x.takeShardOffer m.src m.srcRood m.op m.payload
  | 0x21 => x.shardAccepted m.src m.op
  | 0x22 => x.shardFailed ctx.time (fun s => s.peer == m.src && s.op == m.op)
  | 0x23 => (x.storeData ctx m.src m.op m.payload).takeShardData ctx m.src m.op m.payload
  | 0x24 => x.shardDurable m.src m.op
  | 0x25 => x.answerInventory ctx m.src m.srcRood m.op m.payload
  | 0x26 => x.takeInvPart ctx m.src m.op m.payload
  | 0x27 => x.answerGet ctx m.src m.srcRood m.op m.payload
  | 0x28 => x.takeShardHdr ctx m.src m.op m.payload
  | 0x29 => x.loseFetch ctx (Rood.isFetch m.src m.op)
  | _ => x

/-- Applies a message in its turn; an unknown type is discarded and counted (R387). -/
def Dev.applyMsg (now : W64) (m : ChainMsg) (d : Dev) : Dev :=
  if !knownTypes.contains m.typ then d.discard m
  else
    match if d.roodsLive then d.rood? m.dstRood else none with
    | some _ => d.atRood m.dstRood (Rood.applyMsg m) now
    | none =>
      match noRoodAnswer m with
      | some a => d.chainSend m.src a.1 m.dstRood m.srcRood m.op a.2
      | none => d

/-! ## Acknowledgement and order (R389) -/

/-- Takes the ACK field: messages up to it are acknowledged, and those that the window now admits leave. -/
def Dev.takeAck (m : ChainMsg) (d : Dev) : Dev :=
  let p := d.pair m.src
  match p.unacked.findIdx? (fun u => u.seq == m.ack) with
  | none => d
  | some i =>
    let d' := d.setPair { p with unacked := p.unacked.drop (i + 1) }
    ((p.unacked.drop chainWindow).take (i + 1)).foldl (fun d u => d.transmit u) d'

/-- Records that `m` is applied as the next of its pair. -/
def Dev.advance (m : ChainMsg) (d : Dev) : Dev := d.setPair { d.pair m.src with rxSeq := m.seq, owesAck := true }

/-- Applies held messages that are now next. -/
def Dev.applyHeld (now : W64) (peer : Nat) : (fuel : Nat) → Dev → Dev
  | 0, d => d
  | f + 1, d =>
    let p := d.pair peer
    match p.held.find? (fun m => m.seq == seqNext p.rxSeq) with
    | none => d
    | some m =>
      let d := d.setPair { p with held := p.held.filter (fun k => k.seq != m.seq) }
      Dev.applyHeld now peer f ((d.advance m).applyMsg now m)

/-- HELLO opens the epoch of the direction from its sender (R391); the HELLO of the epoch that is open is a repeat. -/
def Dev.takeHello (now : W64) (m : ChainMsg) (d : Dev) : Dev :=
  let p := d.pair m.src
  if p.rxOpen && p.rxEpoch == m.epoch then d.discard m
  else
    let d := d.setPair { p with rxOpen := true, rxEpoch := m.epoch, rxSeq := 1, held := [], owesAck := true }
    if p.rxOpen then d.atEach (fun ctx x => x.peerReopened ctx m.src) now else d

/-- A message of the current epoch: next, ahead, or discarded. -/
def Dev.takeNumbered (now : W64) (m : ChainMsg) (d : Dev) : Dev :=
  let p := d.pair m.src
  let n := seqAhead p.rxSeq m.seq
  if !p.rxOpen ∨ p.rxEpoch ≠ m.epoch ∨ m.seq = 0 then d.discard m
  else if n = 1 then ((d.advance m).applyMsg now m).applyHeld now m.src 64
  else if 1 < n ∧ n ≤ chainWindow ∧ p.held.length < 64 ∧ p.held.all (fun k => k.seq != m.seq) then
    d.setPair { p with held := p.held ++ [m] }
  else d.discard m

/-- A message for this device arrives. -/
def Dev.arrive (now : W64) (m : ChainMsg) (d : Dev) : Dev :=
  let p := d.pair m.src
  if !msgCrcOk m then d.discard m
  else if m.typ = 0x3F then
    if p.rxOpen && p.rxEpoch != m.epoch then d.discard m else d.takeAck m
  else if m.typ = 0x3E then if m.seq = 1 then (d.takeAck m).takeHello now m else d.discard m
  else if p.rxOpen && p.rxEpoch == m.epoch then (d.takeAck m).takeNumbered now m
  else d.discard m

/-- The message is one for this device from another, and the device is READY (Table 17.10). -/
def Dev.hears (m : ChainMsg) (d : Dev) : Bool := d.ready && m.dst == d.number && m.src != d.number

/-- A row of one TYPE: any other message leaves the device as it is (log entry 1). -/
def recvMsg (typ : Nat) (m : ChainMsg) (s : State) : State :=
  onDev (fun t d => if m.typ = typ ∧ d.hears m then d.arrive t m else d) s

/-! ## Sessions and moves -/

/-- HELLO (R391). -/
def execHello (m : ChainMsg) (s : State) : Result := .next (recvMsg 0x3E m s)
/-- ACK (R389). -/
def execAck (m : ChainMsg) (s : State) : Result := .next (recvMsg 0x3F m s)
/-- What came with an OFFER is known until the OFFER has been applied or discarded (log entry 28). -/
def Dev.withOrigin (m : ChainMsg) (o : Origin) (d : Dev) : Dev :=
  d.setPair { d.pair m.src with origins := putKey m.op o (d.pair m.src).origins }

/-- Only OFFERs that are held keep it. -/
def Dev.trimOrigins (peer : Nat) (d : Dev) : Dev :=
  let p := d.pair peer
  d.setPair { p with origins := p.origins.filter (fun q => p.held.any (fun m => m.typ == 0x01 && m.op == q.1)) }

/-- OFFER (R393). -/
def execOffer (o : Offered) (s : State) : Result :=
  .next (onDev (fun t d => if o.msg.typ = 0x01 ∧ d.hears o.msg then
    ((d.withOrigin o.msg o.origin).arrive t o.msg).trimOrigins o.msg.src else d) s)
/-- ACCEPT (R394). -/
def execAccept (m : ChainMsg) (s : State) : Result := .next (recvMsg 0x02 m s)
/-- REFUSE (R395). -/
def execRefuse (m : ChainMsg) (s : State) : Result := .next (recvMsg 0x03 m s)
/-- LIST (R394). -/
def execList (m : ChainMsg) (s : State) : Result := .next (recvMsg 0x04 m s)
/-- FRAME (R394). -/
def execFrame (m : ChainMsg) (s : State) : Result := .next (recvMsg 0x05 m s)
/-- DONE (R395). -/
def execDone (m : ChainMsg) (s : State) : Result := .next (recvMsg 0x06 m s)
/-- ABORT (R395). -/
def execAbort (m : ChainMsg) (s : State) : Result := .next (recvMsg 0x07 m s)

/-! ## Vector queries -/

/-- VEC_REQ (R366). -/
def execVecReq (m : ChainMsg) (s : State) : Result := .next (recvMsg 0x10 m s)
/-- VEC_LIST (R367). -/
def execVecList (m : ChainMsg) (s : State) : Result := .next (recvMsg 0x11 m s)
/-- VEC_REFUSE (R368). -/
def execVecRefuse (m : ChainMsg) (s : State) : Result := .next (recvMsg 0x12 m s)

/-! ## Checkpoint shards -/

/-- SHARD_OFFER (R423). -/
def execShardOffer (m : ChainMsg) (s : State) : Result := .next (recvMsg 0x20 m s)
/-- SHARD_ACCEPT (R423). -/
def execShardAccept (m : ChainMsg) (s : State) : Result := .next (recvMsg 0x21 m s)
/-- SHARD_REFUSE (R425). -/
def execShardRefuse (m : ChainMsg) (s : State) : Result := .next (recvMsg 0x22 m s)
/-- SHARD_DATA (R423, R429). -/
def execShardData (m : ChainMsg) (s : State) : Result := .next (recvMsg 0x23 m s)
/-- SHARD_DONE (R425). -/
def execShardDone (m : ChainMsg) (s : State) : Result := .next (recvMsg 0x24 m s)
/-- INV_REQ (R424). -/
def execInvReq (m : ChainMsg) (s : State) : Result := .next (recvMsg 0x25 m s)
/-- INV_LIST (R427). -/
def execInvList (m : ChainMsg) (s : State) : Result := .next (recvMsg 0x26 m s)
/-- SHARD_GET (R429), during which the NAND behaves as `g.wear` says (R383). -/
def execShardGet (g : MsgWear) (s : State) : Result :=
  .next (onDev (fun t d => if g.msg.typ = 0x27 ∧ d.hears g.msg then ({ d with flash := d.flash.wear g.wear } : Dev).arrive t g.msg else d) s)
/-- SHARD_HDR (R429). -/
def execShardHdr (m : ChainMsg) (s : State) : Result := .next (recvMsg 0x28 m s)
/-- SHARD_NONE (R429). -/
def execShardNone (m : ChainMsg) (s : State) : Result := .next (recvMsg 0x29 m s)

/-- CHAIN_UNKNOWN_TYPE (R387): a TYPE of neither table. -/
def execChainUnknownType (m : ChainMsg) (s : State) : Result :=
  .next (onDev (fun t d => if !knownTypes.contains m.typ && d.hears m then d.arrive t m else d) s)

/-! ## Forwarding (R388) -/

/-- A message for another device leaves on the port of its route; with HOPS 31, or with no port up, it is discarded. -/
def Dev.forward (m : ChainMsg) (d : Dev) : Dev :=
  if !d.ready ∨ m.dst = d.number ∨ m.hops = 31 then d
  else
    match d.route m.dst with
    | some p => { d with out := d.out ++ [.chain p { m with hops := m.hops + 1 }] }
    | none => d

/-- CHAIN_FORWARD (R388). -/
def execChainForward (m : ChainMsg) (s : State) : Result := .next (onDev (fun _ d => d.forward m) s)

/-! ## Timers (R389, R390) -/

/-- ACK_SEND_TIMER (R389): a message has been applied and nothing has carried its ACK back. -/
def Dev.sendAck (peer : Nat) (d : Dev) : Dev :=
  let p := d.pair peer
  if p.owesAck && d.ready then d.transmit { msgMake 0x3F d.number peer 0 0 0 [] with epoch := p.txEpoch } else d

def execAckSendTimer (peer : Nat) (s : State) : Result := .next (onDev (fun _ d => d.sendAck peer) s)

/-- Sends an unacknowledged message again, and counts it for its rood and for its port. -/
def Dev.resendOne (m : ChainMsg) (d : Dev) : Dev :=
  match d.route m.dst with
  | none => d
  | some p =>
    let d := if (d.rood? m.srcRood).isSome && m.typ != 0x3E then d.count .rood m.srcRood 11 1 else d
    (d.transmit m).count .device 0 (24 + p) 1

/-- CHAIN_RESEND_TIMER (R390): every unacknowledged message within the window, in SEQ order. -/
def Dev.resend (peer : Nat) (d : Dev) : Dev :=
  if d.ready then ((d.pair peer).unacked.take chainWindow).foldl (fun d m => d.resendOne m) d else d

def execChainResendTimer (peer : Nat) (s : State) : Result := .next (onDev (fun _ d => d.resend peer) s)

/-- Opens the epoch towards a device when a route leads there and none is open (R391). -/
def Dev.reopen (peer : Nat) (d : Dev) : Dev := if d.reaches peer && !(d.pair peer).txOpen then d.openEpoch peer else d

/-- The epoch of the direction to a peer ends, with every operation that has sent or awaits a message of it (R390). -/
def Dev.endEpoch (now : W64) (peer : Nat) (d : Dev) : Dev :=
  (d.setPair { d.pair peer with txOpen := false, unacked := [] }).atEach (fun ctx x => x.epochEnded ctx peer) now

/-- CHAIN_EPOCH_TIMEOUT (R390): for 50 ms an unacknowledged message has not been acknowledged, or an operation has waited on the pair. -/
def Dev.epochTimeout (now : W64) (peer : Nat) (d : Dev) : Dev :=
  let p := d.pair peer
  if (!p.txOpen || p.unacked.isEmpty) && !d.roods.any (fun x => x.waitsOn peer) then d
  else (d.endEpoch now peer).reopen peer

def execChainEpochTimeout (peer : Nat) (s : State) : Result := .next (onDev (fun t d => d.epochTimeout t peer) s)

/-! ## Links (R385, R386) -/

def Dev.modPort (p : Nat) (f : Port → Port) (d : Dev) : Dev := { d with chain := { d.chain with ports := modIdx p f d.chain.ports } }

/-- The port is licensed, passed its assay, and the chain table names this device (R495, codes 0x0C01 and 0x0D02). -/
def Dev.portUsable (p : Nat) (d : Dev) : Bool :=
  d.licensedPorts.getLsbD p && !d.boot.defects.portFailed.getLsbD p && d.chainTableOk

/-- CHAIN_LINK_RETRY (R385): a usable port that is down starts link-up again. -/
def Dev.linkRetry (p : Nat) (d : Dev) : Dev :=
  if d.ready && d.portUsable p && !d.portUp p then d.modPort p (fun q => { q with training := true }) else d

def execChainLinkRetry (port : Nat) (s : State) : Result := .next (onDev (fun _ d => d.linkRetry port) s)

/-- CHAIN_LINK_LOSS: the port is down. -/
def execChainLinkLoss (port : Nat) (s : State) : Result :=
  .next (onDev (fun _ d => d.modPort port (fun q => { q with up := false, training := false, reach := [] })) s)

/-- The first check of R386 that fails, 0 when all hold. -/
def Dev.neighbourCheck (n : Neighbour) (d : Dev) : Nat :=
  if !n.chainOk then 1
  else if !n.challengeOk then 2
  else if n.number = d.number then 3
  else if n.dikDigest ≠ cut (4096 + 48 * n.number) 48 d.boot.image ∨ 32 ≤ n.number then 4
  else if n.secVersion < u8At 9 d.boot.image then 5
  else 0

/-- Steps 3 and 4 of Table 13.7 on this end: GET_CERTIFICATE for slot 0 and CHALLENGE with a fresh nonce leave for the neighbour, each
without its version byte (log entry 45). -/
def Dev.askNeighbour (p : Nat) (d : Dev) : Dev :=
  let nonce := (List.range 4).flatMap (fun i => leBytes 8 (Config.random64 (d.boot.draws + i)).toNat)
  { d with
    boot := { d.boot with draws := d.boot.draws + 4 }
    out := d.out ++ [.portRequest p ([0x82, 0, 0] ++ zeros 2 ++ leBytes 2 0xFFFF), .portRequest p ([0x83, 0, 1] ++ nonce)] }

/-- A new epoch towards a device that a port has come to reach: one that is still open ends first, with its operations (R391; log
entry 81). -/
def Dev.freshEpoch (now : W64) (peer : Nat) (d : Dev) : Dev :=
  if !d.reaches peer then d
  else (if (d.pair peer).txOpen then d.endEpoch now peer else d).reopen peer

/-- CHAIN_LINK_UP (R385, R386): where the lanes have trained, both ends ask each other; the port goes up and a new epoch opens towards
each device reachable through it, or it stays down with the failed check logged. -/
def Dev.linkUp (now : W64) (p : Nat) (n : Neighbour) (d : Dev) : Dev :=
  if !((d.chain.ports[p]?).any (fun q => q.training)) ∨ !d.portUsable p then d
  else
    let d := d.modPort p (fun q => { q with training := false })
    if !n.trained then d
    else
      let d := d.askNeighbour p
      let c := d.neighbourCheck n
      if c ≠ 0 then d.log ((LogEntry.plain now 0x05 c n.number).ofUnit (.chainPort p))
      else
        let d := d.modPort p (fun q => { q with up := true, neighbour := n.number, reach := n.reach })
        ((n.number :: n.reach).eraseDups).foldl (fun d i => d.freshEpoch now i) d

def execChainLinkUp (port : Nat) (nb : Neighbour) (s : State) : Result := .next (onDev (fun t d => d.linkUp t port nb) s)

end Sys2Proof.Machine
end

