-- ==== Sys2Proof/Machine/Formation.lean ====
section
/-! DEFINITION. Roods as the layout forms them (R45 to R50), what composition gives them (R60, R79, R382, R400, R508), and the
seal of a composition (R509 to R511). -/
namespace Sys2Proof.Machine
open Sys2Proof

/-! ## Layout entries (Table 2.1, R49) -/

def LayoutEntry.sgs (e : LayoutEntry) : List Nat := (List.range e.width).map (fun i => e.firstSg + i)

/-- Entry of Table 2.1 as 16 bytes. -/
def LayoutEntry.bytes (e : LayoutEntry) : List Byte :=
  [byteOf e.firstSg, byteOf e.width] ++ zeros 2 ++ leBytes 4 e.flashShare ++ zeros 8

def readLayoutEntry (b : List Byte) : LayoutEntry := { firstSg := u8At 0 b, width := u8At 1 b, flashShare := u32At 4 b }

/-- The reserved fields of an entry are zero. -/
def layoutEntryClean (b : List Byte) : Bool := u16At 2 b == 0 && u64At 8 b == 0

/-- The entries stand in ascending FIRST_SG order and do not overlap. -/
def layoutOrdered : List LayoutEntry → Bool
  | a :: b :: l => decide (a.firstSg + max a.width 1 ≤ b.firstSg) && layoutOrdered (b :: l)
  | _ => true

/-- R49: the number of the first check that fails, 0 when all pass. `raw` holds the `n` entries; `flash` is the lesser of the
licensed flash limit and the attached capacity, in bytes. -/
def layoutCheck (roods flash n : Nat) (raw : List (List Byte)) : Nat :=
  let l := raw.map readLayoutEntry
  if n = 0 ∨ min roods 16 < n then 1
  else if l.any (fun e => e.width = 0 ∨ 24 < e.width) then 2
  else if l.any (fun e => decide (24 < e.firstSg + e.width)) then 3
  else if !layoutOrdered l then 4
  else if !raw.all layoutEntryClean then 5
  else if flash < (l.map (fun e => e.flashShare)).sum * 10 ^ 9 then 6
  else 0

/-- R76: the flash limit in force for an attached capacity, both in bytes. -/
def Dev.flashLimit (attached : Nat) (d : Dev) : Nat := min ((d.boot.licence.map (fun l => l.flashTB * 10 ^ 12)).getD 0) attached

def Dev.licensedRoods (d : Dev) : Nat := (d.boot.licence.map (fun l => l.roods)).getD 0

/-! ## Forming roods (R45, R46, R77, R78) -/

def Rood.sgs (x : Rood) : List Nat := (List.range x.width).map (fun i => x.firstSg + i)

/-- A stack group of these is marked failed. -/
def Dev.anyFailed (sgs : List Nat) (d : Dev) : Bool := sgs.any (fun g => d.integ.sgFailed.getLsbD g)

/-- Rood `i` of a layout as a scrub leaves it; one that contains a failed stack group is fenced (R78, code 0x0B02). What the
host's memory holds stays (log entry 6), and so does the numbering of snapshots (R505). -/
def Dev.formRood (i : Nat) (e : LayoutEntry) (d : Dev) : Rood :=
  { Rood.form i e.firstSg e.width e.flashShare with
    fenced := d.anyFailed e.sgs, host := ((d.rood? i).map (fun x => x.host)).getD []
    snapNumber := ((d.rood? i).map (fun x => x.snapNumber)).getD 0 }

/-- Stack groups of the layout in force. -/
def Dev.layoutSgs (d : Dev) : List Nat := (d.layout.flatMap LayoutEntry.sgs).filter (fun g => decide (g < 24))

/-- A stack group that belongs to no rood is held powered down from READY on (R45). -/
def Dev.sgOff (g : Nat) (d : Dev) : Bool := d.boot.phase == .ready && decide (g < 24) && !d.layoutSgs.contains g

/-- The unit lies in a stack group that is powered down. -/
def Dev.unitOff (u : UnitId) (d : Dev) : Bool := d.sgOff (sgOf u)

/-- The regulators of the tiles of stack groups that are powered down are off. -/
def Dev.powerDown (d : Dev) : Dev :=
  { d with energy := { d.energy with supply := d.energy.supply.zipIdx.map (fun p =>
      if decide (p.2 < 96) && d.sgOff (p.2 / 4) then 0 else p.1) } }

/-- The stack groups of a layout entry have had their first budget interval (R542). -/
def Dev.sgsActive (sgs : List Nat) (d : Dev) : Bool := sgs.all (fun g => d.energy.active.getD g false)

/-- Places of the flash extents of a rood that ends: they wait for their erasure (R77, R384). -/
def Dev.freePlaces (x : Rood) (d : Dev) : Dev := { d with flash := { d.flash with freed := d.flash.freed ++ x.places } }

/-- Every rood of the layout in force, scrubbed. -/
def Dev.formAll (d : Dev) : Dev :=
  let d' := d.roods.foldl (fun d x => d.freePlaces x) d
  { d' with roods := d.layout.zipIdx.map (fun p => d.formRood p.2 p.1) }

/-! ## What composition gives a rood -/

/-- A non-zero draw for a lineage (R400). -/
def freshLineage (draws : Nat) : W64 := let v := Config.random64 draws; if v = 0 then 1 else v

/-- Frames of the extent table, at position 0 (R382). -/
def Rood.reserveTable (x : Rood) : Rood := (x.takeRoom .extentTable [(0, 16 * x.extentLimit)]).2

/-- A rood of the device begins to accept work: a lineage of its own, its extent table, and intake on (R79, R382, R400). While the
reference clock is lost it writes nothing to host memory (R471), and without a full link it has no CXL.cache (R163). -/
def Dev.startRood (lineage : W64) (x : Rood) (d : Dev) : Rood :=
  ({ x with
    regs := { x.regs with lineage := lineage }, intakeOn := x.scrubbing.isEmpty, quiet := d.integ.clockLost, cacheOff := !d.linkFull
    powered := d.sgsActive x.sgs } : Rood).reserveTable

/-- One rood of a composition or of a layout change while composed: storage key, lineage and a tally from zero (R50, R60, R508). -/
def Dev.openRood (now : W64) (x : Rood) (d : Dev) : Dev :=
  let k := Config.random256 d.boot.draws
  let y := d.startRood (freshLineage (d.boot.draws + 1))
    { x with storageKey := k, tally := Tally.fresh x.num x.width d.comp.serial now, carried := none }
  ({ d with boot := { d.boot with draws := d.boot.draws + 2 } } : Dev).setRood y

/-- A rood that a fast-path start composes again: key, shards and tally are kept, and the lineage is fresh (R494). -/
def Dev.resumeRood (x : Rood) (d : Dev) : Dev :=
  ({ d with boot := { d.boot with draws := d.boot.draws + 1 } } : Dev).setRood
    (d.startRood (freshLineage d.boot.draws) x)

/-! ## The boot record (R481, R482, Table 17.3) -/

/-- A HIST_CODE_n with its HIST_COUNT_n. -/
def histBytes (h : Nat × Nat) : List Byte := leBytes 2 h.1 ++ [byteOf (min h.2 255), 0]

/-- The 4,092 bytes before RECORD_CRC. -/
def BootRecord.body (r : BootRecord) : List Byte :=
  padTo 4092 (leBytes 4 0x44524342 ++ leBytes 2 1 ++ [byteOf (bit r.inProgress ||| bit r.lastReady <<< 1), 0] ++
    leBytes 8 r.devSerial.toNat ++ leBytes 8 r.writeCount ++ leBytes 8 r.serialLimit ++ padTo 48 r.imageDigest ++
    leBytes 2 r.lastCode ++ [byteOf r.trainSet, 0] ++ leBytes 4 r.trainCrc.toNat ++ (r.hist.take 14).flatMap histBytes ++
    r.defects.bytes)

/-- The 4,096 bytes of a copy. -/
def BootRecord.bytes (r : BootRecord) : List Byte := r.body ++ leBytes 4 (crc32c r.body).toNat

/-- The defect map in 64 bytes. -/
def readDefects (b : List Byte) : DefectMap :=
  { spares := (List.range 8).map (fun s => u8At s b), sgFailed := BitVec.ofNat 24 (u32At 8 b)
    flashFailed := BitVec.ofNat 16 (u16At 12 b), portFailed := BitVec.ofNat 8 (u8At 14 b)
    bridgeFailed := BitVec.ofNat 4 (u8At 15 b), tileFailed := BitVec.ofNat 96 (leVal (cut 16 12 b)) }

/-- The fields of a copy. -/
def readRecord (b : List Byte) : BootRecord :=
  { inProgress := bitAt (u8At 6 b) 0, lastReady := bitAt (u8At 6 b) 1, devSerial := BitVec.ofNat 64 (u64At 8 b)
    writeCount := u64At 16 b, serialLimit := u64At 24 b, imageDigest := cut 32 48 b, lastCode := u16At 80 b
    trainSet := u8At 82 b, trainCrc := BitVec.ofNat 32 (u32At 84 b)
    hist := (List.range 14).map (fun n => (u16At (88 + 4 * n) b, u8At (90 + 4 * n) b)), defects := readDefects (cut 144 64 b) }

/-- A copy is valid when MAGIC, VERSION and RECORD_CRC hold and DEV_SERIAL is the fused one (R481). -/
def validCopy (serial : W64) (b : List Byte) : Option BootRecord :=
  if b.length = 4096 ∧ u32At 0 b = 0x44524342 ∧ u16At 4 b = 1 ∧ u64At 8 b = serial.toNat ∧
      u32At 4092 b = (crc32c (b.take 4092)).toNat then some (readRecord b)
  else none

/-- S03 reads both copies: of the valid ones, the one with the greater WRITE_COUNT is in force. -/
def Boot.readRecords (b : Boot) : Boot :=
  let p := match validCopy b.fuses.devSerial b.nor.copyA, validCopy b.fuses.devSerial b.nor.copyB with
    | some p, some q => if p.writeCount < q.writeCount then (some q, false) else (some p, true)
    | some p, none => (some p, true)
    | none, q => (q, false)
  { b with
    inForce := p.1, inA := p.2, wasInProgress := p.1.any (fun r => r.inProgress)
    histUnits := if p.1.isSome then b.histUnits else [] }

/-- The record in force. -/
def Boot.record (b : Boot) : Option BootRecord := b.inForce

/-- A record for this device with nothing in it (R483). -/
def BootRecord.blank (serial : W64) : BootRecord :=
  { inProgress := false, lastReady := false, devSerial := serial, writeCount := 0, serialLimit := 0, imageDigest := zeros 48
    lastCode := 0, trainSet := 0, trainCrc := 0, hist := List.replicate 14 (0, 0), defects := DefectMap.none }

/-- The copy that is not in force takes these bytes. -/
def Boot.putCopy (bs : List Byte) (b : Boot) : Boot :=
  { b with nor := if b.inA then { b.nor with copyB := bs } else { b.nor with copyA := bs } }

/-- Writes a new record into the copy that is not in force, with WRITE_COUNT increased by 1; it is then in force. -/
def Boot.writeRecord (f : BootRecord → BootRecord) (b : Boot) : Boot :=
  let old := b.record.getD (BootRecord.blank b.fuses.devSerial)
  let r := { f old with devSerial := b.fuses.devSerial, writeCount := old.writeCount + 1 }
  { b.putCopy r.bytes with inForce := some r, inA := !b.inA }

def Dev.writeRecord (f : BootRecord → BootRecord) (d : Dev) : Dev := { d with boot := d.boot.writeRecord f }

/-- The map in force, in a new boot record (R490). -/
def Dev.recordDefects (d : Dev) : Dev := d.writeRecord (fun r => { r with defects := d.boot.defects })

/-! ## Composition (R79, R80, R482) -/

/-- Fewer than 1,024 serials remain: a new record raises the limit (R482). -/
def Dev.extendSerials (d : Dev) : Dev :=
  if d.comp.serialLimit < d.comp.nextSerial + 1024 then
    let n := d.comp.serialLimit + 65536
    { d.writeRecord (fun r => { r with serialLimit := n }) with comp := { d.comp with serialLimit := n } }
  else d

/-- Steps 2 and 3 of Table 2.11. The sealed tally of the composition before is given up (R511). -/
def Dev.compose (now : W64) (tenant : List Byte) (d : Dev) : Dev :=
  let d : Dev := { d with comp := { d.comp with
    composed := true, releasing := false, ended := false, serial := d.comp.nextSerial, nextSerial := d.comp.nextSerial + 1, tenant := tenant
    composeTime := now, packageGrains := 0, releaseTime := 0, closed := [], sealedTally := [] } }
  (d.roods.foldl (fun d x => d.openRood now x) d).extendSerials

/-! ## The seal (R509, R510) -/

/-- Adds a closed tally to the 48th of them (R509). -/
def Tally.fold (a b : Tally) : Tally :=
  { a with
    rood := 0xFF
    openTime := if b.openTime < a.openTime then b.openTime else a.openTime
    time := if a.time < b.time then b.time else a.time
    grains := a.grains + b.grains, sharedGrains := a.sharedGrains + b.sharedGrains, activeNs := a.activeNs + b.activeNs
    tokensGenerated := a.tokensGenerated + b.tokensGenerated
    positionsPrefilled := a.positionsPrefilled + b.positionsPrefilled, textBytesIn := a.textBytesIn + b.textBytesIn
    streamBytes := a.streamBytes + b.streamBytes, vecScores := a.vecScores + b.vecScores
    frameIntervals := a.frameIntervals + b.frameIntervals, extentIntervals := a.extentIntervals + b.extentIntervals
    chainBytesOut := a.chainBytesOut + b.chainBytesOut, chainBytesIn := a.chainBytesIn + b.chainBytesIn
    sessionsOpened := a.sessionsOpened + b.sessionsOpened, loads := a.loads + b.loads, events := a.events + b.events
    peakFrames := max a.peakFrames b.peakFrames }

/-- Closes tallies: at most 48 are kept, and each further one is folded into the last. -/
def closeTallies (l new : List Tally) : List Tally :=
  new.foldl (fun l t =>
    let t := { t with closed := true }
    if l.length < 48 then l ++ [t] else l.modify 47 (fun a => a.fold t)) l

/-- Live and carried tallies in ascending ROOD, then the closed ones (R510). -/
def Dev.tallies (now : W64) (d : Dev) : List Tally :=
  d.roods.flatMap (fun x => x.takeTally now :: x.carried.toList) ++ d.comp.closed

/-- The header of a sealed tally (Table 18.5). -/
def Dev.sealHeader (release : W64) (entries : Nat) (d : Dev) : List Byte :=
  leBytes 4 0x4C414553 ++ leBytes 2 1 ++ leBytes 2 entries ++ leBytes 8 d.comp.serial ++ leBytes 8 d.comp.composeTime.toNat ++
    leBytes 8 release.toNat ++ padTo 32 d.comp.tenant ++ keyDigest (ecPublic d.boot.ak) ++ leBytes 8 d.comp.packageGrains ++ zeros 8

/-- Signs with the AK (R510); the secret of the signature is a draw of its own (log entry 9). -/
def Dev.akSign (digest : List Byte) (d : Dev) : List Byte × Dev :=
  (ecdsaSign d.boot.ak (Config.nonce d.boot.draws) digest, { d with boot := { d.boot with draws := d.boot.draws + 1 } })

/-- Seals the composition at RELEASE_TIME `release` (step 7 of Table 2.11, R543). -/
def Dev.sealComposition (release : W64) (ts : List Tally) (d : Dev) : Dev :=
  let body := d.sealHeader release ts.length ++ ts.flatMap Tally.bytes
  let s := d.akSign (sha384 body)
  { s.2 with comp := { s.2.comp with sealedTally := body ++ s.1, releaseTime := release } }

/-- The composition is over: measurement 7 is clear and the roods hold nothing of it. -/
def Dev.uncompose (d : Dev) : Dev :=
  ({ d with comp := { d.comp with composed := false, releasing := false, ended := false, tenant := [], closed := [] } } : Dev)

end Sys2Proof.Machine
end

