-- ==== Sys2Proof/Machine/Boot.lean ====
section
/-! DEFINITION. Start-up: what the device reads, the steps S01 to S14 on both paths, and what each failure code does (chapter
17). A start runs to its end within the row that begins it (log entries 8 and 20). -/
namespace Sys2Proof.Machine
open Sys2Proof

/-! ## Keys and measurements (R58, R67) -/

/-- A candidate scalar of R58, and those after it while it is not one. -/
def deriveScalarAux (uds : List Byte) : (fuel : Nat) → List Byte → Nat
  | 0, _ => 1
  | fuel + 1, info =>
    let d := beVal (hkdf384 (zeros 48) uds info 48)
    if d = 0 ∨ p384N ≤ d then deriveScalarAux uds fuel (info ++ [1]) else d

def Boot.derive (info : List Byte) (b : Boot) : Nat := deriveScalarAux (beBytes 32 b.fuses.uds.toNat) 256 info

def Boot.dikOf (b : Boot) : Nat := b.derive (ascii "SILTIS-DIK" ++ [byteOf b.fuses.secVersion])
def Boot.dxkOf (b : Boot) : Nat := b.derive (ascii "SILTIS-DXK" ++ [byteOf b.fuses.secVersion])

/-- Measurements 1 to 4 (Table 2.7). -/
def Boot.measurement (n : Nat) (b : Boot) : List Byte :=
  match n with
  | 1 => b.fuses.romDigest
  | 2 => leBytes 4 (Config.measurement2 b.fuses.secVersion b.fuses.production).toNat
  | 3 => sha384 b.image
  | _ => sha384 ((b.licence.map (fun l => l.bytes)).getD [])

def Boot.akOf (b : Boot) : Nat :=
  b.derive (ascii "SILTIS-AK" ++ b.measurement 1 ++ b.measurement 2 ++ b.measurement 3 ++ b.measurement 4)

/-! ## The configuration image (Table 17.2, R480) -/

/-- The reserved bytes of the image, as offset and length. -/
def imageReserved : List (Nat × Nat) := [(6, 2), (12, 52), (65, 15), (336, 176), (516, 60), (2624, 1472), (5664, 2524)]

/-- Both ports of a route entry are 0 to 7 or 0xF. -/
def portFieldOk (b : Nat) : Bool :=
  (decide (b % 16 < 8) || b % 16 == 15) && (decide (b / 16 < 8) || b / 16 == 15)

/-- R480. -/
def configOk (img : List Byte) : Bool :=
  img.length == 8192 && u32At 0 img == 0x47494643 && u16At 4 img == 1 && u32At 8188 img == (crc32c (img.take 8188)).toNat &&
    imageReserved.all (fun r => allZero (cut r.1 r.2 img)) && u32At 8 img / 2 ^ 17 == 0 &&
    decide (u8At 8 img ≤ 31) && decide (u8At 9 img ≤ 32) && decide (1 ≤ u32At 512 img) && decide (u32At 512 img ≤ 8) &&
    (List.range 32).all (fun n => portFieldOk (u8At (5632 + n) img))

def configFullTrain (img : List Byte) : Bool := bitAt (u8At 10 img) 0

/-- Entries of the image's layout: the count N and the first N of them. -/
def configLayout (img : List Byte) : Nat × List (List Byte) :=
  (u8At 64 img, (List.range (min (u8At 64 img) 16)).map (fun r => cut (80 + 16 * r) 16 img))

/-! ## Licences (Table 2.10, R74, R75) -/

def licenceBytes (img : List Byte) (i : Nat) : List Byte := cut (576 + 256 * i) 256 img

def readLicence (b : List Byte) : Licence :=
  { serial := BitVec.ofNat 64 (u64At 8 b), variant := u8At 64 b, roods := u8At 65 b, chainPorts := BitVec.ofNat 8 (u8At 66 b)
    vector := bitAt (u8At 68 b) 0, retrieval := bitAt (u8At 68 b) 1, flashTB := u16At 72 b, indexes := u8At 74 b
    minSecver := u32At 76 b, bytes := b }

/-- The fields lie within the limits of the variant (Table 0.1). -/
def Licence.withinVariant (l : Licence) : Bool :=
  decide (1 ≤ l.roods) && decide (l.indexes ≤ 4) && (l.vector == (l.indexes != 0)) &&
    ((l.variant == 1 && decide (l.roods ≤ 8) && l.chainPorts == 0 && !l.vector && !l.retrieval && decide (l.flashTB ≤ 128)) ||
      (l.variant == 2 && decide (l.roods ≤ 16) && decide (l.flashTB ≤ 512)))

/-- R74. -/
def licenceOk (f : Fuses) (dikDigest b : List Byte) : Bool :=
  u32At 0 b == 0x4E43494C && u16At 4 b == 1 && u16At 6 b == 0 && u8At 67 b == 0 && u32At 68 b / 4 == 0 && u8At 75 b == 0 &&
    allZero (cut 80 80 b) && cut 16 48 b == dikDigest && decide (u32At 76 b ≤ f.secVersion) &&
    (readLicence b).withinVariant && ecdsaVerify f.licenceKey (sha384 (b.take 160)) (cut 160 96 b)

/-- The governing one of two valid licences (R75). -/
def Licence.better (a b : Licence) : Licence :=
  if a.variant < b.variant ∨ (a.variant = b.variant ∧ a.serial < b.serial) then b else a

def governing (ls : List Licence) : Option Licence :=
  ls.foldl (fun m l => match m with
    | some a => some (a.better l)
    | none => some l) none

/-! ## Failure codes (R485, R486, Table 17.6) -/

/-- Step of a code. -/
def codeStep (c : Nat) : Nat := c / 256

/-- Gives a failure code: it is logged and kept for the step history, with the unit that gave it. -/
def Dev.giveCode (now : W64) (c detail reaction : Nat) (u : Option UnitId) (d : Dev) : Dev :=
  let e := { LogEntry.plain now 0x02 c detail with reaction := reaction }
  let d := d.log (match u with
    | some v => e.ofUnit v
    | none => e)
  { d with boot := { d.boot with
      code := c, codes := d.boot.codes ++ [c], unitCodes := d.boot.unitCodes ++ (u.map (fun v => (v, c))).toList } }

/-- The step history after this start (Table 17.3, R496). The code 0xnnFF of R497 is not counted. -/
def histNext (codes : List Nat) (old : List (Nat × Nat)) : List (Nat × Nat) :=
  (List.range 14).map (fun i =>
    let mine := codes.filter (fun c => codeStep c == i + 1)
    match mine.getLast? with
    | some c => (c, if mine.all (fun c => c % 256 == 0xFF) then (old.getD i (0, 0)).2 else min 255 ((old.getD i (0, 0)).2 + 1))
    | none => (0, 0))

/-- The part of a boot record that the end of a start writes. -/
def Boot.closeRecord (ready : Bool) (b : Boot) (r : BootRecord) : BootRecord :=
  { r with
    inProgress := false, lastReady := ready, lastCode := b.code, hist := histNext b.codes r.hist
    imageDigest := if ready then sha384 b.image else r.imageDigest, defects := b.defects }

/-- The end of a start writes its record, and with it the units of the step history. -/
def Dev.closeStart (ready : Bool) (d : Dev) : Dev :=
  let d := d.writeRecord (fun r => d.boot.closeRecord ready r)
  { d with boot := { d.boot with histUnits := d.boot.unitCodes } }

/-- The start ends with a Stop code (R486): no record is written at S01 to S03. -/
def Dev.stopStart (now : W64) (c detail : Nat) (d : Dev) : Dev :=
  let d := d.giveCode now c detail 0 none
  let d : Dev := { d with boot := { d.boot with phase := .stopped } }
  if codeStep c ≤ 3 then d else d.closeStart false

/-- HIST_CODE_n and HIST_COUNT_n of the record in force. -/
def Boot.hist (n : Nat) (b : Boot) : Nat × Nat := (b.record.map (fun r => r.hist.getD (n - 1) (0, 0))).getD (0, 0)

/-- The step history holds the code for the unit (Table 17.8; log entry 67). -/
def Boot.histHas (u : UnitId) (c : Nat) (b : Boot) : Bool := (b.hist (codeStep c)).1 == c && b.histUnits.contains (u, c)

/-- The units that a unit stands for when a start assays it: a stack stands for its whole stack group (Table 17.11). -/
def unitCovers (c u : UnitId) : Bool :=
  c == u || (match c with
    | .stack g => sgOf u == g
    | _ => unitShared c && unitShared u)

/-- S07 assays the unit: on the full path every one, on the fast path those that the cause of the reset names and those whose
step history is not zero (Table 17.7). -/
def Boot.assays (u : UnitId) (b : Boot) : Bool :=
  !b.fast || b.cause.any (fun c => unitCovers c u) || b.histUnits.any (fun p => unitCovers p.1 u)

/-! ## Units that fail during the start (R490) -/

/-- A stack group is marked failed, in the map as well. -/
def Dev.failSg (g : Nat) (d : Dev) : Dev :=
  (d.setFailed g).mapDefects (fun m => { m with sgFailed := bvSet g m.sgFailed })

/-- The tile number that a physical tile serves: its own, or for a spare the active tile it replaces; 0xFF for a free spare and
0xFE for a withdrawn one (R30). -/
def DefectMap.roleOf (t : Nat) (m : DefectMap) : Nat := if t < 96 then t else m.spares.getD (t - 96) 0xFE

/-- Tile `t`, by its physical number, fails with a code. A spare that no tile's role rests on is withdrawn; a tile that is
marked or withdrawn already only gives the code. -/
def Dev.bootTile (now : W64) (c : Nat) (d : Dev) (t : Nat) : Dev :=
  let m := d.boot.defects
  let role := m.roleOf t
  if t < 96 ∧ m.tileFailed.getLsbD t then d.giveCode now c 0 0 (some (.tile t))
  else if role < 96 then
    let r := m.failTile role
    let d := d.mapDefects (fun _ => r.1)
    if r.2 then d.giveCode now c 0 0x06 (some (.tile role)) else (d.failSg (role / 4)).giveCode now c 0 0x07 (some (.tile role))
  else if role = 0xFF then (d.mapDefects (fun m => m.withdraw (t - 96))).giveCode now c 0 0x0D (some (.tile t))
  else d.giveCode now c 0 0 (some (.tile t))

/-- Stack groups that are not marked failed. -/
def Dev.goodSgs (l : List Nat) (d : Dev) : List Nat := l.filter (fun g => decide (g < 24) && !d.integ.sgFailed.getLsbD g)

/-- Physical tiles that S07 assays: not those whose number lies in a stack group that is marked failed (R491). -/
def Dev.assayTiles (l : List Nat) (d : Dev) : List Nat :=
  l.filter (fun t => decide (t < 104) && d.boot.assays (.tile t) &&
    !(decide (d.boot.defects.roleOf t < 96) && d.integ.sgFailed.getLsbD (d.boot.defects.roleOf t / 4)))

/-! ## The steps -/

def Dev.s01 (e : StartEnv) (now : W64) (d : Dev) : Dev :=
  if !e.railsOk then d.stopStart now 0x0101 0 else if !e.refOk then d.stopStart now 0x0102 0 else d

def Dev.s02 (e : StartEnv) (now : W64) (d : Dev) : Dev :=
  if !e.fusesOk then d.stopStart now 0x0201 0
  else if !e.romOk then d.stopStart now 0x0202 0
  else if !d.boot.fuses.production then d.stopStart now 0x0203 0
  else d

/-- R483: what a first start takes for SERIAL_LIMIT: bits [63:24] are drawn, with bit 63 set. -/
def firstLimit (draw : W64) : Nat := (2 ^ 63 ||| draw.toNat) / 2 ^ 24 * 2 ^ 24

/-- SERIAL_LIMIT of the record in force; a first start draws one. -/
def Dev.takeLimit (d : Dev) : Nat × Dev :=
  match d.boot.record with
  | some r => (r.serialLimit, d)
  | none => (firstLimit (Config.random64 d.boot.draws), { d with boot := { d.boot with draws := d.boot.draws + 1 } })

/-- S03 of a full path: the map in force, the next serial, and a record with IN_PROGRESS 1. FLASH_FAILED, PORT_FAILED and
BRIDGE_FAILED begin afresh (R491). -/
def Dev.openRecord (d : Dev) : Dev :=
  let l := d.takeLimit
  let d := l.2
  let m := (d.boot.record.map (fun r => r.defects)).getD DefectMap.none
  let d : Dev := { d with
    comp := { d.comp with nextSerial := l.1, serialLimit := l.1 + 65536 }
    boot := { d.boot with defects := { m with flashFailed := 0, portFailed := 0, bridgeFailed := 0 } } }
  d.writeRecord (fun r => { r with inProgress := true, lastReady := false, serialLimit := l.1 + 65536 })

/-- S03: SFDP, the image, on the full path both record copies, and on the fast path the image's digest (R477, R492, R493). A
write that fails leaves the copy it was for invalid (R481). -/
def Dev.s03 (e : StartEnv) (now : W64) (d : Dev) : Dev :=
  if !e.sfdpOk || decide (e.norMbit < 512) then d.stopStart now 0x0301 0
  else if !configOk e.image then d.stopStart now 0x0302 0
  else
    let d : Dev := { d with boot := { d.boot with image := e.image } }
    if d.boot.fast then
      let same := (d.boot.record.map (fun r => r.imageDigest == sha384 e.image)).getD false
      if same then d
      else
        { d with boot := { d.boot with
          fast := false, licence := none, defects := { d.boot.defects with flashFailed := 0, portFailed := 0, bridgeFailed := 0 } } }
    else
      let d : Dev := { d with boot := d.boot.readRecords }
      if !e.recordWriteOk then ({ d with boot := d.boot.putCopy [] } : Dev).stopStart now 0x0303 0
      else d.openRecord

/-- S04 (R74, R75): the digest of the DIK public key, the licences, and the governing one. -/
def Dev.s04 (now : W64) (d : Dev) : Dev :=
  if d.boot.fast then d
  else
    let k := keyDigest (ecPublic d.boot.dikOf)
    let ls := (List.range (u32At 512 d.boot.image)).map (fun i => (i, licenceBytes d.boot.image i))
    let bad := ls.filter (fun p => !licenceOk d.boot.fuses k p.2)
    let d := bad.foldl (fun d p => d.giveCode now 0x0402 p.1 0 none) d
    match governing ((ls.filter (fun p => licenceOk d.boot.fuses k p.2)).map (fun p => readLicence p.2)) with
    | some l => { d with boot := { d.boot with licence := some l } }
    | none => d.stopStart now 0x0401 0

def Dev.s05 (e : StartEnv) (now : W64) (d : Dev) : Dev :=
  if !e.rbgOk then d.stopStart now 0x0501 0
  else { d with boot := { d.boot with dik := d.boot.dikOf, dxk := d.boot.dxkOf, ak := d.boot.akOf } }

/-- S06: the map is applied, every tile stands at 0.65 V, and regulators that fail it take their tiles out (R487, R490). -/
def Dev.s06 (e : StartEnv) (now : W64) (d : Dev) : Dev :=
  let d : Dev := { d with
    integ := { d.integ with sgFailed := d.boot.defects.sgFailed }
    energy := { d.energy with supply := List.replicate 104 650 }
    boot := { d.boot with nominal := if d.boot.fast then d.boot.nominal else e.roCounts } }
  (e.regulatorFail.filter (fun t => decide (t < 104))).foldl (fun d t => d.bootTile now 0x0601 t) d

/-- A bank engine, service-slice unit or segment fails its assay. -/
def Dev.bootUnit (now : W64) (d : Dev) (u : UnitId) : Dev := (d.failSg (sgOf u)).giveCode now 0x0702 0 0x07 (some u)

/-- S07: the assays of R491, on the fast path of the units that Table 17.7 names. -/
def Dev.s07 (e : StartEnv) (now : W64) (d : Dev) : Dev :=
  let d := (d.assayTiles e.tileFail).foldl (fun d t => d.bootTile now 0x0701 t) d
  let d := (e.unitFail.filter (fun u => unitGap u && d.boot.assays u)).foldl (fun d u => d.bootUnit now u) d
  let d := (e.bridgeFail.filter (fun b => decide (b < 4) && d.boot.assays (.bridge b))).foldl (fun d b =>
    (d.mapDefects (fun m => { m with bridgeFailed := bvSet b m.bridgeFailed })).giveCode now 0x0703 0 0x08 (some (.bridge b))) d
  if e.quad0Ok || !d.boot.assays .governor then d else d.stopStart now 0x0704 0

/-- The saved settings of the NOR may be used (R488, Table 17.8). -/
def Dev.savedUsable (d : Dev) : Bool :=
  match d.boot.record with
  | none => false
  | some r =>
    let set := if r.trainSet = 1 then d.boot.nor.trainA else if r.trainSet = 2 then d.boot.nor.trainB else none
    !configFullTrain d.boot.image && !d.boot.wasInProgress &&
      set.any (fun s => s.crc == r.trainCrc && s.serial == d.boot.fuses.devSerial && s.stepping == 0xB0)

/-- A stack whose full training fails: a second failure in a row marks its stack group in the map (Table 17.8). -/
def Dev.trainFails (now : W64) (again : Bool) (g : Nat) (d : Dev) : Dev :=
  if again then (d.failSg g).giveCode now 0x0802 0 0x07 (some (.stack g))
  else (d.setFailed g).giveCode now 0x0802 0 0x0E (some (.stack g))

/-- HIST_CODE_8 is 0x0802 for the stack with HIST_COUNT_8 of 1 (Table 17.8). -/
def Boot.trainAgain (g : Nat) (b : Boot) : Bool := b.histHas (.stack g) 0x0802 && (b.hist 8).2 == 1

/-- S08: on the fast path with the retained settings, else with saved ones where they may be used. Stacks of the step history
are trained in full without verification (Table 17.8). -/
def Dev.s08 (e : StartEnv) (now : W64) (d : Dev) : Dev :=
  let all := d.goodSgs (List.range 24)
  let saved := d.boot.fast || d.savedUsable
  let direct := all.filter (fun g => d.boot.histHas (.stack g) 0x0801 || d.boot.trainAgain g)
  let bad := if saved then all.filter (fun g => !direct.contains g && e.savedFail.contains g) else []
  let full := if saved then bad ++ direct else all
  let b := d.boot
  let d := bad.foldl (fun d g => d.giveCode now 0x0801 0 0 (some (.stack g))) d
  let d : Dev := { d with boot := { d.boot with
    trainedInFull := !full.isEmpty || !saved || e.otherTrained || (b.hist 10).1 != 0 } }
  (full.filter (fun g => e.trainFail.contains g)).foldl (fun d g => d.trainFails now (b.trainAgain g) g) d

/-- S09: DRAM is written zero and read back. -/
def Dev.s09 (e : StartEnv) (now : W64) (d : Dev) : Dev :=
  (d.goodSgs e.readBackFail).foldl (fun d g => (d.failSg g).giveCode now 0x0901 0 0x07 (some (.stack g))) d

/-- Bytes of a NAND block (R381). -/
def blockBytes : Nat := 4194304

/-- The capacity of the LUNs that are attached and can be used. -/
def attachedBytes (l : List LunDesc) : Nat := (l.map (fun u => u.blocks * blockBytes)).sum

/-- The LUNs, and of each the blocks, that lie within the flash limit, in ascending channel order (R76). -/
def lunsWithin (limit : Nat) : List LunDesc → List LunDesc
  | [] => []
  | u :: l =>
    let n := min u.blocks (limit / blockBytes)
    if n = 0 then [] else { u with blocks := n } :: lunsWithin (limit - n * blockBytes) l

def lunOf (u : LunDesc) : Lun :=
  { chan := u.chan, ce := u.ce, lun := u.lun, blocks := u.blocks, joined := u.sysOk, rebuilding := !u.sysOk }

/-- The factory's bad blocks of a LUN (R384). -/
def Flash.markBad (f : Flash) (u : LunDesc) : Flash :=
  u.badBlocks.foldl (fun f b => f.modBlock u.chan (4 * u.ce + u.lun) b (fun k => { k with bad := true })) f

/-- S10 identifies every part and trains every channel: on the full path, and where the step history names S10 (Table 17.8). -/
def Boot.identifies (b : Boot) : Bool := !b.fast || (b.hist 10).1 != 0

/-- Parts and channels that identification and training leave unused. -/
def Dev.identify (e : StartEnv) (now : W64) (d : Dev) : Dev :=
  let d := (e.luns.filter (fun u => !u.pageOk)).foldl (fun d u => d.giveCode now 0x0A01 0 0x0E (some (.flashChan u.chan))) d
  let d := d.mapDefects (fun m => { m with flashFailed := 0 })
  (e.flashChanFail.filter (· < 16)).foldl (fun d f =>
    (d.mapDefects (fun m => { m with flashFailed := bvSet f m.flashFailed })).giveCode now 0x0A02 0 0x0E (some (.flashChan f))) d

/-- S10: the flash tier (Table 17.6, R76); the fast path only reads each LUN's system area (Table 17.7). -/
def Dev.s10 (e : StartEnv) (now : W64) (d : Dev) : Dev :=
  let d := if d.boot.identifies then d.identify e now else d
  let good := (List.range 16).flatMap (fun f =>
    e.luns.filter (fun u => u.chan == f && u.pageOk && !d.boot.defects.flashFailed.getLsbD f))
  let d := (good.filter (fun u => !u.sysOk)).foldl (fun d u =>
    d.giveCode now 0x0A03 (4 * u.ce + u.lun) 0x0E (some (.flashChan u.chan))) d
  let limit := d.flashLimit (attachedBytes good)
  let l := lunsWithin limit good
  { d with flash := l.foldl Flash.markBad { d.flash with limit := limit, luns := l.map lunOf } }

/-- A rood of the layout that holds a failed stack group gives a code; it is fenced as it is formed (R470). -/
def Dev.fenceCode (now : W64) (r : Nat) (d : Dev) : Dev :=
  let d := d.log { LogEntry.plain now 0x02 0x0B02 0 with reaction := 0x03, rood := r }
  { d with boot := { d.boot with code := 0x0B02, codes := d.boot.codes ++ [0x0B02] } }

/-- A composition that a full-path start ends: its tallies are set aside until READY, and its roods are gone (R543). -/
def Dev.setTalliesAside (d : Dev) : Dev :=
  if d.comp.composed && !d.comp.ended then
    { d with comp := { d.comp with ended := true, closed := d.tallies d.boot.resetTime } }
  else d

/-- The roods of the layout in force stand: on the fast path those of a composition keep what the reset has kept of them (R494). -/
def Dev.formRoods (d : Dev) : Dev :=
  if d.boot.fast && d.comp.composed then
    { d with roods := d.roods.map (fun x => { x with fenced := d.anyFailed x.sgs }) }
  else d.setTalliesAside.formAll

/-- S11: the layout is checked on the full path, and the roods are formed (R49, R484, R493, R516). -/
def Dev.s11 (now : W64) (d : Dev) : Dev :=
  let c := configLayout d.boot.image
  let bad := layoutCheck d.licensedRoods d.flash.limit c.1 c.2
  if !d.boot.fast && bad != 0 then d.stopStart now 0x0B01 bad
  else
    let l := if d.boot.fast then d.boot.layout else c.2.map readLayoutEntry
    let d : Dev := ({ d with layout := l, boot := { d.boot with layout := l } } : Dev).formRoods
    l.zipIdx.foldl (fun (d : Dev) (p : LayoutEntry × Nat) => if d.anyFailed p.1.sgs then d.fenceCode now p.2 else d) d

/-- The ports that a route entry names. -/
def routePorts (img : List Byte) (n : Nat) : List Nat :=
  [u8At (5632 + n) img % 16, u8At (5632 + n) img / 16].filter (fun p => p != 15)

/-- Ports whose assay comes before their link-up: those of PORT_FAILED, where HIST_CODE_13 is 0x0D02 (Table 17.8). -/
def Boot.portsHeld (b : Boot) : BitVec 8 :=
  if (b.hist 13).1 = 0x0D02 then (b.record.map (fun r => r.defects.portFailed)).getD 0 else 0

/-- A port that may begin its link-up, or may not. -/
def Port.fresh (training : Bool) : Port := { Port.down with training := training }

/-- S12: the chain and route tables (R495), and link-up of each usable port (R385). On SLT-2400-S the tables are not judged. -/
def Dev.s12 (now : W64) (d : Dev) : Dev :=
  if (d.boot.licence.map (fun l => l.variant)) = some 1 then d
  else
    let d := if d.chainTableOk then d else d.giveCode now 0x0C01 0 0x0E none
    let bad := (List.range 32).filter (fun n => (routePorts d.boot.image n).any (fun p => !d.licensedPorts.getLsbD p))
    let d := bad.foldl (fun d _ => d.giveCode now 0x0C02 0 0x0E none) d
    { d with chain := { d.chain with
        ports := (List.range 8).map (fun p =>
          Port.fresh (d.licensedPorts.getLsbD p && d.chainTableOk && !d.boot.portsHeld.getLsbD p)) } }

/-- A chain port passes or fails its assay at S13. -/
def Dev.bootPort (now : W64) (e : StartEnv) (p : Nat) (d : Dev) : Dev :=
  let train := fun (b : Bool) (d : Dev) =>
    ({ d with chain := { d.chain with ports := modIdx p (fun q => { q with training := b }) d.chain.ports } } : Dev)
  if e.portFail.contains p then
    ((train false d).mapDefects (fun m => { m with portFailed := bvSet p m.portFailed })).giveCode now 0x0D02 0 0x0E
      (some (.chainPort p))
  else
    let d := d.mapDefects (fun m => { m with portFailed := bvClear p m.portFailed })
    if d.boot.portsHeld.getLsbD p && d.licensedPorts.getLsbD p && d.chainTableOk then train true d else d

/-- S13: the host interface and the chain ports are assayed; SPDM opens as it ends (R499). -/
def Dev.s13 (e : StartEnv) (now : W64) (d : Dev) : Dev :=
  if !e.hostIfOk then d.stopStart now 0x0D01 0 else (List.range 8).foldl (fun d p => d.bootPort now e p) d

/-! ## READY (S14, R434, R436, R494, R543) -/

/-- The retained composition after a fast path: its roods take work again. -/
def Dev.recompose (d : Dev) : Dev := d.roods.foldl (fun d x => d.resumeRood x) d

/-- A whole-device reset that took the full path ends the composition with a sealed tally; the storage keys are gone and every
extent of the former roods is freed (R543). -/
def Dev.endComposition (d : Dev) : Dev := (d.sealComposition d.boot.resetTime d.comp.closed).uncompose

/-- A rood of a composition that goes on: its event chain begins anew (R494). -/
def Rood.emptied (x : Rood) : Rood := { x with obj := Objects.reset }

/-- S14: READY. Stack groups of no rood are powered down (R45). -/
def Dev.s14 (d : Dev) : Dev :=
  let d : Dev := { d with
    energy := { d.energy with bank := List.replicate 24 0, share := 0, active := List.replicate 24 false }
    boot := { d.boot with phase := .ready, retained := true, noFast := d.boot.wasInProgress, cause := none } }
  let d := d.closeStart true
  let d :=
    if d.comp.ended then d.endComposition
    else if d.comp.composed then ({ d with roods := d.roods.map Rood.emptied } : Dev).recompose
    else d
  { d.powerDown with out := d.out ++ [.ready] }

/-- One step of a start, where it is reached: a start goes on while it has not stopped and nothing has cut it. -/
def Dev.bootStep (e : StartEnv) (now : W64) (n : Nat) (d : Dev) : Dev :=
  match d.boot.phase with
  | .starting _ =>
    if e.runTo < n then d
    else
      let d : Dev := { d with boot := { d.boot with phase := .starting n, step := n } }
      (match n with
       | 1 => d.s01 e now
       | 2 => d.s02 e now
       | 3 => d.s03 e now
       | 4 => d.s04 now
       | 5 => d.s05 e now
       | 6 => d.s06 e now
       | 7 => d.s07 e now
       | 8 => d.s08 e now
       | 9 => d.s09 e now
       | 10 => d.s10 e now
       | 11 => d.s11 now
       | 12 => d.s12 now
       | 13 => d.s13 e now
       | _ => d.s14)
  | _ => d

/-- A start on the fast or the full path (Tables 17.5, 17.7). -/
def Dev.start (fast : Bool) (e : StartEnv) (now : W64) (d : Dev) : Dev :=
  let d : Dev := { d with boot := { d.boot with
    phase := .starting 1, fast := fast, step := 1, code := 0, codes := [], unitCodes := [], retained := false
    wasInProgress := false, licence := if fast then d.boot.licence else none } }
  (List.range 14).foldl (fun d i => d.bootStep e now (i + 1)) d

end Sys2Proof.Machine
end

