-- ==== Sys2Proof/Machine/Reset.lean ====
section
/-! DEFINITION. The whole-device reset of Table 16.3 and what power leaves (R60, R127, R433, R492, R497, R500, R521). -/
namespace Sys2Proof.Machine
open Sys2Proof

/-- Shards of a rood's flash share: what a whole-device reset keeps there (R494). -/
def Rood.shardObjs (x : Rood) : List FlashObj :=
  x.flash.filter (fun o => match o.kind with
    | .shard _ _ _ _ => true
    | .bushel _ => false)

/-- What a whole-device reset keeps of a composed rood until READY: its key, its tallies and its shards (R492, R494). -/
def Rood.shell (now : W64) (x : Rood) : Rood :=
  { Rood.form x.num x.firstSg x.width x.flashShare with
    storageKey := x.storageKey, tally := x.takeTally now, carried := x.carried, host := x.host
    obj := { Objects.reset with eventChain := x.obj.eventChain }
    flash := x.shardObjs, nextObj := x.nextObj, nextChan := x.nextChan }

/-- Places of the extents that a shell gives up. -/
def Rood.lostPlaces (x : Rood) : List (Nat × Nat × Nat) :=
  let kept := (x.shardObjs.flatMap (fun o => o.exts)).map Extent.place
  x.places.filter (fun p => !kept.contains p)

/-- The governor after a reset: the sideband cap stays (R433, R435). -/
def Energy.afterReset (e : Energy) : Energy :=
  { e with
    hostCap := 1100, inForce := e.sidebandCap, share := 0, bank := List.replicate 24 0, shared := 0
    active := List.replicate 24 false, supply := List.replicate 104 650, busy := List.replicate 104 false
    ran := List.replicate 104 false, lowHalf := List.replicate 24 false }

/-- Everything that a whole-device reset clears at once. Both logs, every counter and the numbering of snapshots begin again
(R500, R505, R521); waiting sideband requests end with it (R84). -/
def Dev.clear (now : W64) (d : Dev) : Dev :=
  let d := if d.comp.releasing then d.uncompose else d
  { d with
    layout := [], pendingLayout := none, side := { d.side with running := none, queue := [] }, energy := d.energy.afterReset
    flash := { d.flash with limit := 0, luns := [], freed := d.flash.freed ++ d.roods.flatMap Rood.lostPlaces }
    chain := { Chain.reset with nextOp := d.chain.nextOp }
    integ := { Integrity.reset with sgFailed := d.boot.defects.sgFailed, clockLost := d.integ.clockLost }
    regs := DevRegs.reset, snap := DevSnap.reset, counters := []
    roods := d.roods.map (fun x => x.shell now)
    boot := { d.boot with
      resetTime := if d.boot.phase == .ready then now else d.boot.resetTime
      layout := if d.layout.isEmpty then d.boot.layout else d.layout } }

/-- A step that a reset cuts logs 0xnnFF (R497). -/
def Dev.cutCode (now : W64) (p : Phase) (d : Dev) : Dev :=
  match p with
  | .starting n => d.log (LogEntry.plain now 0x02 (256 * n + 0xFF) 0)
  | _ => d

/-- The reset of every unit, with the entry of the event that caused it as the first entry after it (R521); it is reported on
CXL.io (R476). `u` is the unit that its cause names. -/
def Dev.beginReset (now : W64) (entry : Option LogEntry) (u : Option UnitId) (d : Dev) : Dev :=
  let c := d.clear now
  let c := match entry with
    | some e => c.log e
    | none => c
  ({ c with out := c.out ++ [Output.aer], boot := { c.boot with cause := u } } : Dev).cutCode now d.boot.phase

/-- WARM_RST_N or a sideband RESET begins a whole-device reset: the device is powered, past its hold, and not tripped (R472, R486,
R530). -/
def Dev.resettable (d : Dev) : Bool :=
  match d.boot.phase with
  | .ready => true
  | .stopped => true
  | .starting _ => true
  | _ => false

/-- Every other cause begins a whole-device reset: a start that has stopped waits for those two or for PWRGD (R486). -/
def Dev.selfResets (d : Dev) : Bool := d.resettable && d.boot.phase != .stopped

/-- R492: the fast path is open, but for the image digest that S03 compares. -/
def Boot.mayFast (b : Boot) : Bool := b.retained && !b.noFast

/-- A whole-device reset that the device ends itself (R492). -/
def Dev.resetNow (now : W64) (entry : Option LogEntry) (u : Option UnitId) (full : Bool) (e : StartEnv) (d : Dev) : Dev :=
  (d.beginReset now entry u).start (d.boot.mayFast && !full) e now

/-- A whole-device reset of the device's own causes (Table 16.3). -/
def Dev.wholeReset (now : W64) (entry : Option LogEntry) (u : Option UnitId) (full : Bool) (e : StartEnv) (d : Dev) : Dev :=
  if d.selfResets then d.resetNow now entry u full e else d

/-- What stays when PWRGD is deasserted: the NOR, the fuses, the NAND, and what stands outside the device (R60, R511). -/
def Dev.powerOff (d : Dev) : Dev :=
  { Dev.reset with
    boot := { Boot.reset with
      fuses := d.boot.fuses, nor := d.boot.nor, histUnits := d.boot.histUnits, trainWrites := d.boot.trainWrites
      draws := d.boot.draws }
    side := { d.side with running := none, queue := [] }
    energy := { Energy.reset with thermTrip := d.energy.thermTrip }
    flash := { limit := 0, luns := [], blocks := d.flash.blocks, freed := d.flash.freed ++ d.roods.flatMap Rood.places }
    chain := { Chain.reset with nextOp := d.chain.nextOp }
    roods := d.roods.map (fun x => { Rood.form x.num x.firstSg x.width x.flashShare with host := x.host })
    out := d.out }

/-- THERMTRIP_N is asserted (R472, R533): while PWRGD is asserted, every regulator turns off and all work stops. -/
def Dev.trip (d : Dev) : Dev :=
  if d.energy.thermTrip then d
  else
    let d : Dev := { d with energy := { d.energy with thermTrip := true } }
    match d.boot.phase with
    | .off => d
    | p => { d with
        boot := { d.boot with phase := .tripped (p == .ready) }
        energy := { d.energy with supply := List.replicate 104 0 } }

end Sys2Proof.Machine
end

