-- ==== Sys2Proof/Machine/Pins.lean ====
section
/-! DEFINITION. Commands of the pins, the clock, the host link and the test access port (chapters 1, 17 and 20). -/
namespace Sys2Proof.Machine
open Sys2Proof

/-! ## PWRGD, WARM_RST_N, VAUX, THERMTRIP_N (R484, R530, R533) -/

/-- S01 waits: WARM_RST_N or THERMTRIP_N is asserted as PWRGD comes. -/
def Dev.hold (d : Dev) : Dev := { d with boot := { d.boot with phase := .held } }

/-- The integrator may have put a blank part in the place of the NOR (R478, R483). -/
def Dev.fitNor (e : StartEnv) (d : Dev) : Dev := if e.norBlank then { d with boot := { d.boot with nor := Nor.blank } } else d

/-- PWRGD_ASSERT (R484): the full path, or a hold before it. DEV_TIME counts from the next edge (R36). -/
def execPwrgdAssert (e : StartEnv) (s : State) : Result :=
  .next (if s.pins.pwrgd then s
    else
      let s := { s with pins := { s.pins with pwrgd := true }, clock := Clock.reset }
      onDev (fun t d => if s.pins.warmRst ∨ d.energy.thermTrip then (d.fitNor e).hold else (d.fitNor e).start false e t) s)

/-- PWRGD_DEASSERT (R60, R486, R497): the boot record stays as the NOR holds it. -/
def execPwrgdDeassert (s : State) : Result :=
  .next (if s.pins.pwrgd then
      onDev (fun _ d => d.powerOff) { s with
        pins := { s.pins with pwrgd := false }, clock := { s.clock with armed := true }, tap := { s.tap with driving := false } }
    else s)

/-- WARM_RST_ASSERT (R530): WARM_RST_N has been low for 1 µs. -/
def execWarmRstAssert (s : State) : Result :=
  .next (if s.pins.warmRst then s
    else
      onDev (fun t d => if d.resettable then
          let c := d.beginReset t none none
          { c with boot := { c.boot with phase := .inReset } }
        else d) { s with pins := { s.pins with warmRst := true } })

/-- WARM_RST_DEASSERT (R492, R530): the reset, or the hold before S01, ends. -/
def execWarmRstDeassert (e : StartEnv) (s : State) : Result :=
  .next (onDev (fun t d => match d.boot.phase with
    | .inReset => d.start d.boot.mayFast e t
    | .held => if d.energy.thermTrip then d else d.start false e t
    | _ => d) { s with pins := { s.pins with warmRst := false } })

/-- VAUX_VALID (R499, Table 17.10): the sideband answers. -/
def execVauxValid (s : State) : Result :=
  .next (onDev (fun _ d => { d with side := { d.side with usable := true } }) { s with pins := { s.pins with vaux := true } })

/-- THERMTRIP_RELEASE (R533): PWRGD has been deasserted since the trip and every trip sensor reads below 115 °C. -/
def execThermtripRelease (e : StartEnv) (s : State) : Result :=
  .next (onDev (fun t d =>
    let c : Dev := { d with energy := { d.energy with thermTrip := false } }
    match d.boot.phase with
    | .off => c
    | .held => if s.pins.warmRst ∨ !d.energy.thermTrip then c else c.start false e t
    | _ => d) s)

/-- THERMTRIP_SENSOR_TRIP (R472, R533): a trip sensor reads 125 °C or more while VAUX is valid. -/
def execThermtripSensorTrip (quad : Nat) (s : State) : Result :=
  .next (if s.pins.vaux ∧ quad < 4 then onDev (fun _ d => d.trip) s else s)

/-! ## Rails and the reference clock (R35, R471, R528) -/

/-- The entry of an event that ends in a whole-device reset. -/
def resetEntry (now : W64) (cls : Nat) (u : UnitId) : LogEntry :=
  ({ LogEntry.plain now 0x01 0 0 with cls := cls, reaction := 0x05 }).ofUnit u

/-- RAIL_FAULT (R528): class 0x0A, and a whole-device reset on the full path (R492). -/
def execRailFault (rail : Nat) (e : StartEnv) (s : State) : Result :=
  .next (onDev (fun t d => d.wholeReset t (some (resetEntry t 0x0A (.rail rail))) (some (.rail rail)) true e) s)

/-- The device-local time during which a rood has commands counts in its tally (Table 18.4). -/
def Rood.activeFor (n : Nat) (x : Rood) : Rood :=
  if x.cmds.isEmpty then x else x.mapTally (fun t => { t with activeNs := t.activeNs + n })

/-- REF_CLOCK_EDGE (R35, R36): DEV_TIME reads zero at the first edge after PWRGD, and each later edge adds 10. -/
def execRefClockEdge (s : State) : Result :=
  .next (if !s.pins.pwrgd then s
    else if s.clock.armed then { s with clock := Clock.mk 0 false }
    else { s with
      clock := { s.clock with time := s.clock.time + 10 }
      dev := if s.dev.roodsLive then { s.dev with roods := s.dev.roods.map (Rood.activeFor 10) } else s.dev })

/-- The loss of the reference clock: REF_LOSS, a class 0x0C entry, and no more writes to host memory (R471). -/
def Dev.loseClock (now : W64) (d : Dev) : Dev :=
  if d.boot.phase == .off || d.integ.clockLost then d
  else
    let d : Dev := { d with
      integ := { d.integ with refLoss := true, clockLost := true }, roods := d.roods.map (fun x => { x with quiet := true }) }
    (d.log (({ LogEntry.plain now 0x01 0 0 with cls := 0x0C }).ofUnit .refClock)).count .device 0 5 1

/-- REF_CLOCK_LOSS (R471). -/
def execRefClockLoss (s : State) : Result := .next (onDev (fun t d => d.loseClock t) s)

/-- REF_CLOCK_RETURN (R471): the reference has run without a gap for 1 ms; a whole-device reset on the full path (R492). -/
def execRefClockReturn (e : StartEnv) (s : State) : Result :=
  .next (onDev (fun t d =>
    if d.integ.clockLost then
      ({ d with integ := { d.integ with clockLost := false } } : Dev).wholeReset t
        (d.regs.log.entries.find? (fun k => k.kind == 1 && k.cls == 0x0C)) (some .refClock) true e
    else d) s)

/-! ## The host link (R163, R465, Table 19.7) -/

/-- CXL_LINK_DOWN (Table 16.3): a link that was trained goes down. -/
def execCxlLinkDown (e : StartEnv) (s : State) : Result :=
  .next (onDev (fun t d => if d.regs.linkRate = 0 then d else d.wholeReset t none none false e) s)

/-- CXL_LINK_TRAINED (R163): rate code and width of Table 19.7; a link that was trained already counts as retrained. Below
32 GT/s or ×4 the roods lose CXL.cache and CXL.mem; with them again, records held meanwhile are written (log entry 71). -/
def execCxlLinkTrained (rate width : Nat) (s : State) : Result :=
  .next (onDev (fun t d =>
    if s.pins.pwrgd ∧ 1 ≤ rate ∧ rate ≤ 7 ∧ [1, 2, 4, 8, 16].contains width then
      let c := if d.regs.linkRate = 0 then d else d.count .device 0 7 1
      let c := { c with regs := { c.regs with linkRate := rate, linkWidth := width } }
      if c.roodsLive then c.atEach (fun _ x => x.present t c.cxlReady) t else c
    else d) s)

/-! ## The test access port (R57, R499) -/

/-- The bits of IDCODE, least significant first. -/
def idcodeBits : List Bool := (List.range 32).map (fun i => Config.idcode.getLsbD i)

/-- One instruction: IDCODE 0, BYPASS 1, SAMPLE/PRELOAD 2, EXTEST 3. Every other code selects BYPASS (IEEE 1149.1; PRESUMED,
log entry 43). -/
def Tap.run (op : TapOp) (t : Tap) : Tap :=
  match op with
  | .idcode => { t with instr := 0, driving := false, shifted := idcodeBits }
  | .bypass b => { t with instr := 1, driving := false, shifted := [false, b] }
  | .samplePreload cells =>
    { t with instr := 2, driving := false, cells := cells, shifted := Config.boundarySample t.samples, samples := t.samples + 1 }
  | .extest => { t with instr := 3, driving := true, shifted := Config.boundarySample t.samples, samples := t.samples + 1 }
  | .other _ => { t with instr := 1, driving := false, shifted := [false] }

/-- TEST_ACCESS_INSTRUCTION (R57): answered from the assertion of PWRGD on (Table 17.10). -/
def execTestAccessInstruction (op : TapOp) (s : State) : Result :=
  .next (if s.pins.pwrgd then { s with tap := s.tap.run op } else s)

end Sys2Proof.Machine
end

