-- ==== Sys2Proof/Machine/Touch.lean ====
section
/-! DEFINITION. What an integrity event does inside a rood: the sessions it touches, the steps, moves and mutations it meets, the
objects of Table 16.2, and the fence (R126, R408, R455, R459 to R462, R468, R470). -/
namespace Sys2Proof.Machine
open Sys2Proof

/-! ## Sessions (R126, R459, R460) -/

/-- Sessions of the rood that are SUSPECT. -/
def Rood.suspects (x : Rood) : Nat := (x.slots.filter (fun p => p.2.entry.any (fun e => e.state == SesState.suspect))).length

/-- A touched sequence ends with its step; one at a boundary ends at once. -/
def Rood.touchSeq (now : W64) (q : Seq) (x : Rood) : Rood :=
  if x.inStep q || x.inHeld q then (x.flagCmd q.cmd).setSeq { q with touched := true } else x.endTouched now q

/-- The command of a session that is still being converted. -/
def Rood.convertingOf (slot : Nat) (x : Rood) : Option Cmd :=
  x.cmds.find? (fun c => c.stage == .converting && namesSession c.opcode && handleSlot c.handle == slot)

/-- One session is touched: SUSPECT, its command or move ends, and a running checkpoint records it as SUSPECT. A migration ends with
ST_PEER (R395, R468); `data` says that the event is against the session's own data, which leaves it SUSPECT all the same (R126,
Table 16.2; log entry 44). -/
def Rood.touchOne (now : W64) (data : Bool) (slot : Nat) (x : Rood) : Rood :=
  match x.entry? slot with
  | none => x
  | some e =>
    if e.state = SesState.suspect then x
    else
      match x.move? slot with
      | some m =>
        if 4 ≤ m.kind ∧ !data then x.stopMove now m stPeer m.back
        else ((x.ckpTouch slot).stopMove now m (if 4 ≤ m.kind then stPeer else stSuspect) .suspect).count 14 1
      | none =>
        let x := (x.ckpTouch slot).suspect now slot
        match x.seqOfSlot slot, x.convertingOf slot with
        | some q, _ => x.touchSeq now q
        | none, some c => x.endWaiting now c stSuspect 0
        | none, none => x

/-- Slots of the sequences that share a step with a slot (R459). -/
def Rood.stepMates (slot : Nat) (x : Rood) : List Nat :=
  x.crews.flatMap (fun k => match k.step with
    | some s => if s.parts.any (fun p => p.slot == slot) then s.parts.map (fun p => p.slot) else []
    | none => [])

/-- Touches sessions, and every sequence of a step that one of them is in. -/
def Rood.touch (now : W64) (data : Bool) (slots : List Nat) (x : Rood) : Rood :=
  ((slots ++ slots.flatMap (fun i => x.stepMates i)).eraseDups).foldl (fun x i => x.touchOne now data i) x

/-! ## Steps, moves and vector work that use a unit -/

/-- Slots of the steps that `uses` marks. -/
def Rood.stepSlots (uses : Crew → Step → Bool) (x : Rood) : List Nat :=
  x.crews.flatMap (fun k => match k.step with
    | some s => if uses k s then s.parts.map (fun p => p.slot) else []
    | none => [])

/-- Stack groups of a crew. -/
def Rood.groupsOf (k : Crew) (x : Rood) : List Nat :=
  match x.placed k.model with
  | some (_, _, pl) => x.crewSgs pl.width k.idx
  | none => []

/-- The step uses one of these stack groups: its crew holds it, or a stack of it holds data of one of its sequences. -/
def Rood.usesSgs (gs : List Nat) (k : Crew) (s : Step) (x : Rood) : Bool :=
  (x.groupsOf k).any (fun g => gs.contains g) ||
    s.parts.any (fun p => (x.stacksOf p.slot (p.first + p.count)).any (fun n => gs.contains (x.firstSg + n)))

def Rood.usesTile (t : Nat) (k : Crew) (x : Rood) : Bool := (sgTiles (x.groupsOf k)).contains t

/-- Positions whose movers copy frames of a move: those of its entry and of every frame it holds or will hold (R250, R375). -/
def Rood.movePositions (m : Move) (x : Rood) : List Nat :=
  match x.entry? m.slot with
  | none => []
  | some e =>
    x.stacksOf m.slot e.stored ++
      (if m.kind = 2 ∨ m.kind = 3 then
        ((e.geom.frameOrder e.stored).map (fun f => (7 * m.slot + 67 * f.layer + allocNum f.kind f.num) % x.width)).eraseDups
      else [])

/-- Slots of moves whose mover lies in one of these stack groups (R468). -/
def Rood.moveSlots (gs : List Nat) (x : Rood) : List Nat :=
  (x.moves.filter (fun m => (x.movePositions m).any (fun n => gs.contains (x.firstSg + n)))).map (fun m => m.slot)

/-- Flash channels that a move reads or writes: those of its bushel, or the next in rotation for one it writes. -/
def Rood.moveChannels (m : Move) (x : Rood) : List Nat :=
  match x.entry? m.slot with
  | none => []
  | some e =>
    match x.object? m.obj with
    | some o => o.exts.map (fun k => k.chan)
    | none => if m.kind = 1 then (List.range (extentsOf (bushelSize (e.geom.frames e.stored)))).map (fun i => (x.nextChan + i) % 16) else []

/-- Frame keys of a vector index. -/
def VecIndex.keys (v : VecIndex) : List Nat := v.rootFrame :: (v.nodeFrames ++ v.tableFrames)

/-- A mutation whose index has a frame in one of these stack groups is interrupted (R462). -/
def Rood.stopMutations (gs : List Nat) (x : Rood) : Rood :=
  { x with vecOps := x.vecOps.map (fun o =>
      if !o.sweep && (x.vecs.any (fun v => v.num == o.index && v.keys.any (fun k => gs.contains (x.firstSg + keyPos k)))) then
        { o with damaged := true }
      else o) }

/-- Positions whose movers write the frames of an arriving session (R250, R394). -/
def Rood.arrivalPositions (a : Arrival) (x : Rood) : List Nat :=
  let e := hdrEntry a.header
  (a.slot % x.width) :: (if a.toFlash then [] else
    (e.geom.frameOrder e.stored).map (fun f => (7 * a.slot + 67 * f.layer + allocNum f.kind f.num) % x.width))

/-- Arrivals that `p` marks end, and their senders hear it (R395). -/
def Rood.endArrivalsOf (now : W64) (p : Arrival → Bool) (x : Rood) : Rood :=
  (x.arrivals.filter p).foldl (fun x a => (x.loseArrival now a).rejectArrival a) x

/-- A checkpoint that is being copied ends with ST_SUSPECT: a checkpointer of the rood is reset (R468). -/
def Rood.ckpReset (x : Rood) : Rood :=
  { x with ckp := { x.ckp with run := x.ckp.run.map (fun r => { r with suspect := true }) } }

/-- The logic of these stack groups is reset: steps, moves, arrivals, mutations and a checkpoint being copied meet it, and caches are
dropped (Table 16.3, R408, R468). -/
def Rood.resetGroups (now : W64) (gs : List Nat) (extra : List Nat) (x : Rood) : Rood :=
  let slots := x.stepSlots (fun k s => x.usesSgs gs k s) ++ x.moveSlots gs ++ extra
  let x := ((x.touch now false slots).stopMutations gs).ckpReset
  let x := x.endArrivalsOf now (fun a => (x.arrivalPositions a).any (fun n => gs.contains (x.firstSg + n)))
  { x with kv := { x.kv with labs := x.kv.labs.zipIdx.map (fun p => if gs.contains (x.firstSg + p.2) then [] else p.1) } }

/-- Slots whose entries the session manager at a position holds, and that are in a step. -/
def Rood.managedInStep (pos : Nat) (x : Rood) : List Nat :=
  (x.stepSlots (fun _ _ => true)).filter (fun i => i % x.width == pos)

/-! ## Table 16.2 -/

/-- Sessions that reference a pool frame: one with a layer table in bonded DRAM, up to what a running prefill has allocated. -/
def Rood.referrers (key : Nat) (x : Rood) : List Nat :=
  (x.slots.filter (fun p => p.2.entry.any (fun e => e.dirRoot != 0 &&
    (x.kv.sessionFrames (p.1 % x.width) e.geom e.dirRoot.toNat (x.allocated p.1 e)).any (fun f => f.key == key)))).map (fun p => p.1)

/-- A vector index loses a frame: it is damaged, and a sweep or mutation of it that runs is flagged (R462). -/
def Rood.damageIndex (n frame : Nat) (x : Rood) : Rood :=
  ({ x with
    vecs := x.vecs.map (fun v => if v.num == n then { v with damaged := true, damagedFrames := v.damagedFrames ++ [frame] } else v)
    vecOps := x.vecOps.map (fun o => if o.index == n then { o with damaged := true } else o) } : Rood).ckpTouchVec

/-- Sessions that an extent table holds the bushel of: PARKED, or MOVING with MOVE_KIND 1, 2, 3 or 5. -/
def Rood.onFlash (x : Rood) : List Nat :=
  (x.slots.filter (fun p => p.2.entry.any (fun e => e.state == SesState.parked ||
    (e.state == SesState.moving && [1, 2, 3, 5].contains e.moveKind)))).map (fun p => p.1)

/-- The local checkpoint or restore that is running ends with ST_SUSPECT. -/
def Rood.loseLocalCkp (ctx : Ctx) (x : Rood) : Rood :=
  let x := match x.ckp.run with
    | some r => if r.next.target = 0 then x.endTake ctx.time r stSuspect else x
    | none => x
  match x.ckp.restore with
  | some r => if r.source = 0 then x.endRestore ctx r stSuspect else x
  | none => x

/-- Every flash object becomes unreadable. -/
def Rood.loseExtents (ctx : Ctx) (x : Rood) : Rood :=
  let x := (x.touch ctx.time true x.onFlash).loseLocalCkp ctx
  { x with freedExts := x.freedExts ++ x.flash.flatMap (fun o => o.exts), flash := [] }

/-- Sequences of the step that a crew of a model slot runs. -/
def Rood.crewSlots (m c : Nat) (x : Rood) : List Nat := x.stepSlots (fun k _ => k.model == m && k.idx == c)

/-- The crews of the image in a slot. -/
def Rood.crewsOf (m : Nat) (x : Rood) : Nat := (x.crews.filter (fun k => k.model == m)).length

/-- What an uncorrectable line does to the object that holds it, and its reaction code (Table 16.2, Table 19.19). -/
def Rood.loseLine (o : DramObj) (ctx : Ctx) (x : Rood) : Rood × Nat :=
  match o with
  | .frame _ ptr => ((x.touch ctx.time true (x.referrers (ptrKey ptr))).ckpTouchFrame (ptrKey ptr), 0)
  | .line _ slot => (x.touch ctx.time true [slot], 0)
  | .entry _ slot => (x.touch ctx.time true [slot], 0)
  | .weight _ slot crew =>
    let x := x.touch ctx.time false (x.crewSlots slot crew)
    if 1 < x.crewsOf slot then ({ x with rebuilding := x.rebuilding ++ [o] }, 0x0A)
    else (({ x with obj := { x.obj with emptying := x.obj.emptying ++ [slot] } } : Rood).emptyMarked ctx.time, 0x0B)
  | .adapter _ slot =>
    if 1 < x.width then ({ x with rebuilding := x.rebuilding ++ [o] }, 0x0A)
    else (({ x with obj := { x.obj with emptying := x.obj.emptying ++ [65536 + slot] } } : Rood).emptyMarked ctx.time, 0x0B)
  | .trie _ => ({ x with rebuilding := x.rebuilding ++ [o] }, 0x0A)
  | .automaton _ _ => ({ x with rebuilding := x.rebuilding ++ [o] }, 0x0A)
  | .vecFrame _ n f => (x.damageIndex n f, 0x0C)
  | .staging _ off => ({ x with stagingBad := (off / 64, true) :: x.stagingBad.filter (fun p => p.1 != off / 64) }, 0x09)
  | .extentTable _ => (x.loseExtents ctx, 0)

/-- The rood of an object. -/
def objRood : DramObj → Nat
  | .frame r _ => r
  | .line r _ => r
  | .entry r _ => r
  | .weight r _ _ => r
  | .adapter r _ => r
  | .trie r => r
  | .automaton r _ => r
  | .vecFrame r _ _ => r
  | .staging r _ => r
  | .extentTable r => r

/-! ## The fence (R470) -/

/-- Every command that is still open completes with ST_SUSPECT and FLAGGED 1. -/
def Rood.failAll (now : W64) (x : Rood) : Rood :=
  x.cmds.foldl (fun x c => x.fail now { c with flagged := true } stSuspect) x

/-- Every slot that a fork or an arrival had taken returns to its list (R120). -/
def Rood.untakeAll (x : Rood) : Rood :=
  (x.slots.filter (fun p => p.2.taken)).foldl (fun x p => x.untakeSlot p.1) x

/-- Every open session becomes SUSPECT. -/
def Rood.suspectAll (now : W64) (x : Rood) : Rood := x.slots.foldl (fun x p => x.suspect now p.1) x

/-- Everything in progress that is no command of its own: arrivals, steps, mutations, checkpoints and loads. -/
def Rood.dropWork (now : W64) (x : Rood) : Rood :=
  let x := x.endArrivalsOf now (fun _ => true)
  let x := x.abandonLoad.freeCopy
  { x with
    crews := x.crews.map (fun k => { k with step := none, held := none })
    vecs := x.vecs.map (fun v => if (x.mutation v.num).isSome then { v with damaged := true } else v)
    vecOps := [], vecQueue := [], vecReqs := [], holds := [], moves := []
    obj := { x.obj with queue := [] }
    ckp := { x.ckp with run := none, restore := none, queue := [], trigger := none, trailing := [], incoming := [] } }

/-- SES_CANCEL commands that wait for a sequence or a revival end like every other command. -/
def Rood.forgetCancels (x : Rood) : Rood :=
  { x with seqs := x.seqs.map (fun q => { q with cancel := none }), moves := x.moves.map (fun m => { m with cancel := none }) }

/-- The rood is fenced: every step and command ends at once, a token that has been chosen is kept (R460), and every session becomes
SUSPECT. -/
def Rood.fence (now : W64) (x : Rood) : Rood :=
  if x.fenced then x
  else
    let x := ({ x with fenced := true } : Rood).forgetCancels
    let x := x.moves.foldl (fun x m => (x.flagCmd m.cmd).stopMove now m stSuspect .suspect |>.count 14 1) x
    let x := x.crews.foldl (fun x c => x.finishTouched now c) x
    let x := x.seqs.foldl (fun x q => x.endTouched now q) x
    ((((x.dropWork now).untakeAll).failAll now).suspectAll now).pump now

end Sys2Proof.Machine
end

