-- ==== Sys2Proof/Machine/Integrity.lean ====
section
/-! DEFINITION. Integrity events of the device: what Table 16.1 does for a class and a unit, the resets of Table 16.3, spare
tiles and failed stack groups, in-service assays, and the commands that end them (R452 to R470, R474 to R476, R544, R545). -/
namespace Sys2Proof.Machine
open Sys2Proof

/-! ## Places -/

/-- The rood that holds a stack group. -/
def Dev.roodOf (g : Nat) (d : Dev) : Option Rood := d.roods.find? (fun x => x.sgs.contains g)

/-- Work of the rood that holds a stack group. -/
def Dev.atSg (now : W64) (g : Nat) (f : Ctx → Rood → Rood) (d : Dev) : Dev :=
  match d.roodOf g with
  | some x => d.atRood x.num f now
  | none => d

/-- Composes idle crews and takes up waiting slots in every rood that takes part in work. -/
def Dev.settleAll (now : W64) (d : Dev) : Dev :=
  if d.roodsLive then d.atEach (fun ctx x => x.settle ctx) now else d

def Dev.setResets (f : List ResetLevel → List ResetLevel) (d : Dev) : Dev :=
  { d with integ := { d.integ with resets := f d.integ.resets } }

/-- A narrower level lies within these stack groups. -/
def ResetLevel.inside (gs : List Nat) : ResetLevel → Bool
  | .tile t => gs.contains (t / 4)
  | .sg g _ => gs.contains g
  | .rood _ => false
  | .quad _ _ => false

/-- A wider reset begins: it takes in the narrower ones that run within its stack groups. -/
def Dev.beginLevel (l : ResetLevel) (gs : List Nat) (d : Dev) : Dev :=
  d.setResets (fun rs => if rs.contains l then rs else l :: rs.filter (fun k => !k.inside gs))

/-- Regulators of reset tiles restart at 0.65 V (Table 16.3); one without a sensor stays at 0.55 V. -/
def Energy.restartTiles (ts : List Nat) (e : Energy) : Energy :=
  { e with supply := ts.foldl (fun l t => l.set t (if e.blind.contains t then 550 else 650)) e.supply }

/-- The window stores of these tiles are empty: after a reset, and where another unit takes a tile's role (Table 16.3, R228, R463). -/
def Dev.clearWins (ts : List Nat) (d : Dev) : Dev := { d with roods := d.roods.map (fun x => x.clearWins ts) }

def Dev.restartTiles (ts : List Nat) (d : Dev) : Dev := ({ d with energy := d.energy.restartTiles ts } : Dev).clearWins ts

/-! ## Entries (R476, R522) -/

/-- The entry of an event. DETAIL is the layer for classes 0x01 and 0x06 (Table 19.18). -/
def eventEntry (now : W64) (cls reaction : Nat) (u : UnitId) (layer : Nat) : LogEntry :=
  ({ LogEntry.plain now 0x01 0 (if cls = 0x01 ∨ cls = 0x06 then layer else 0) with
    cls := cls, reaction := reaction } : LogEntry).ofUnit u

/-- Sessions of each rood that became SUSPECT since `old`. -/
def Dev.gained (d old : Dev) : List (Nat × Nat) :=
  d.roods.map (fun x => (x.num, x.suspects - ((old.rood? x.num).map Rood.suspects).getD 0))

/-- The event reaches a rood: its log, its counter and its tally (Tables 18.1, 18.4). -/
def Rood.hearEvent (e : LogEntry) (x : Rood) : Rood :=
  (((x.logOwn { e with rood := x.num }).count 13 1).mapTally (fun t => { t with events := t.events + 1 }))

/-- Logs and counts an event whose reaction has led from `old` to `d`; `own` are the roods of its unit. -/
def Dev.writeEvent (now : W64) (d old : Dev) (e : LogEntry) (own : List Nat) : Dev :=
  let g := d.gained old
  let hit := (g.filter (fun p => decide (0 < p.2) || own.contains p.1)).map (fun p => p.1)
  let e := { e with
    sessions := min ((g.map (fun p => p.2)).sum) 0xFFFF
    rood := match hit with
      | [r] => r
      | _ => 0xFF }
  hit.foldl (fun d r => d.atRood r (fun _ x => x.hearEvent e) now) ((d.log e).count .device 0 5 1)

/-- Roods that hold the stack group of a unit. -/
def Dev.ownRoods (u : UnitId) (d : Dev) : List Nat := (d.roods.filter (fun x => x.sgs.contains (sgOf u))).map (fun x => x.num)

/-! ## Fencing and failed marks (R78, R466, R470, Table 16.3) -/

/-- The rood reset of the rood that holds a stack group, which fences it. -/
def Dev.roodReset (now : W64) (g : Nat) (d : Dev) : Dev :=
  match d.roodOf g with
  | some x => ((d.beginLevel (.rood x.num) x.sgs).restartTiles (sgTiles x.sgs)).atRood x.num (fun ctx x => x.fence ctx.time) now
  | none => d

def quadSgs (q : Nat) : List Nat := (List.range 6).map (fun i => 6 * q + i)

/-- Moves that a quadrant's flash channels serve. -/
def Rood.quadMoves (q : Nat) (x : Rood) : List Nat :=
  (x.moves.filter (fun m => (x.moveChannels m).any (fun f => f / 4 == q))).map (fun m => m.slot)

/-- The quadrant reset (Table 16.3): its roods are fenced, its ports are down, moves over its flash channels end, and it is
reported on CXL.io. -/
def Dev.quadReset (now : W64) (q : Nat) (cause : UnitId) (d : Dev) : Dev :=
  let d := d.beginLevel (.quad q cause) (quadSgs q)
  let d := (quadSgs q).foldl (fun d g => d.roodReset now g) d
  let d := d.atEach (fun ctx x => x.touch ctx.time false (x.quadMoves q)) now
  let down := fun (p : Port) => { p with up := false, training := false, reach := [] }
  { d.restartTiles (sgTiles (quadSgs q)) with
    integ := { d.integ with quadReset := bvSet q d.integ.quadReset }
    chain := { d.chain with ports := modIdx (2 * q) down (modIdx (2 * q + 1) down d.chain.ports) }
    out := d.out ++ [Output.aer] }

/-- Another stack group of the quadrant was marked failed within the last second. -/
def Dev.markedNear (now : W64) (g : Nat) (d : Dev) : Bool :=
  d.integ.sgFailedAt.any (fun p => p.1 != g && p.1 / 6 == g / 6 && decide (now.toNat ≤ p.2.toNat + 1000000000))

/-- A stack group is marked failed, and the map is recorded for the next start (R490): its rood is fenced, and a second mark in
the quadrant within 1 s resets the quadrant. Answers the reaction code. -/
def Dev.markFailed (now : W64) (g : Nat) (u : UnitId) (d : Dev) : Dev × Nat :=
  if d.integ.sgFailed.getLsbD g then (d, 0)
  else
    let near := d.markedNear now g
    let d := (d.failSg g).recordDefects
    let d : Dev := { d with integ := { d.integ with sgFailedAt := (g, now) :: d.integ.sgFailedAt } }
    if near then (d.quadReset now (g / 6) u, 0x04) else (d.roodReset now g, 0x07)

/-! ## Tiles (R463, R464, R466) -/

/-- A spare takes the role of an active tile for good: the tile is marked, and a spare that had the role is withdrawn. -/
def DefectMap.substitute (s t : Nat) (m : DefectMap) : DefectMap :=
  let m := { m with tileFailed := bvSet t m.tileFailed }
  let m := match m.spareOf t with
    | some p => m.withdraw p
    | .none => m
  { m with spares := m.spares.set s t }

/-- A spare that has a role of its own stands in for nobody; the tile that now has the number starts without a past. -/
def Integrity.settleTile (t : Nat) (m : DefectMap) (i : Integrity) : Integrity :=
  { i with
    standIns := i.standIns.filter (fun p => m.spares.getD (p.1 - 96) 0xFE == 0xFF && p.2 != t)
    tileResetAt := i.tileResetAt.filter (fun p => p.1 != t)
    assaying := i.assaying.filter (fun u => u != .tile t) }

/-- The tile with number `t` is failed: a free spare of its quadrant takes its number, its present stand-in before another;
without one its stack group is marked failed. -/
def Dev.failTile (now : W64) (t : Nat) (d : Dev) : Dev × Nat :=
  let m := d.boot.defects
  let r := match d.integ.standIns.find? (fun p => p.2 == t) with
    | some p => (m.substitute (p.1 - 96) t, true)
    | none => m.failTile t
  let d := (d.mapDefects (fun _ => r.1)).recordDefects
  let d := ({ d with integ := d.integ.settleTile t r.1 } : Dev).clearWins [t]
  if r.2 then (d, 0x06) else d.markFailed now (t / 4) (.tile t)

/-- A free spare fails and is withdrawn. -/
def Dev.withdrawSpare (t : Nat) (d : Dev) : Dev × Nat :=
  if d.boot.defects.spares.getD (t - 96) 0xFE = 0xFF then
    let d := (d.mapDefects (fun m => m.withdraw (t - 96))).recordDefects
    ({ d with integ := { d.integ with standIns := d.integ.standIns.filter (fun p => p.1 != t) } }, 0x0D)
  else (d, 0)

/-- Steps of a rood that use a tile. -/
def Rood.tileSlots (t : Nat) (x : Rood) : List Nat := x.stepSlots (fun k _ => x.usesTile t k)

/-- The tile had a reset within the last second. -/
def Dev.tileAgain (now : W64) (t : Nat) (d : Dev) : Bool :=
  d.integ.tileResetAt.any (fun p => p.1 == t && decide (now.toNat ≤ p.2.toNat + 1000000000))

/-- A tile needs a reset (R466): a second one within 1 s fails the tile. -/
def Dev.tileReset (now : W64) (t : Nat) (d : Dev) : Dev × Nat :=
  let again := d.tileAgain now t
  let d := if t < 96 then (d.atSg now (t / 4) (fun ctx x => x.touch ctx.time false (x.tileSlots t))).count .sg (t / 4) 5 1 else d
  if again then (if t < 96 then d.failTile now t else d.withdrawSpare t)
  else
    let d := (d.beginLevel (.tile t) []).restartTiles [t]
    ({ d with integ := { d.integ with tileResetAt := (t, now) :: d.integ.tileResetAt.filter (fun p => p.1 != t) } }, 0x01)

/-! ## Stack groups, bridges, DRAM (Tables 16.1, 16.2, 16.3) -/

/-- Slots that a service-slice unit at a position touches beyond the steps of its stack group (R459, Table 19.20): every step for
the director, steps of the sessions it manages for the session manager and walker. -/
def Rood.unitSlots (u : UnitId) (pos : Nat) (x : Rood) : List Nat :=
  match u with
  | .slice _ 6 => if pos = 0 then x.stepSlots (fun _ _ => true) else []
  | .slice _ 3 => x.managedInStep pos
  | _ => []

/-- The stack-group reset. -/
def Dev.sgReset (now : W64) (g : Nat) (cause : UnitId) (d : Dev) : Dev × Nat :=
  let d := ((d.count .sg g 4 1).beginLevel (.sg g cause) [g]).restartTiles (sgTiles [g])
  (d.atSg now g (fun ctx x => x.resetGroups ctx.time [g] (x.unitSlots cause (g - x.firstSg))), 0x02)

/-- A quadrant whose two bridges are both disabled. -/
def Dev.cutQuad (b : Nat) (d : Dev) : Option Nat :=
  (bridgeEnds b).find? (fun q => (quadBridges q).all (fun k => d.boot.defects.bridgeFailed.getLsbD k))

/-- Quadrants whose units a step uses: its crew's stack groups, the stacks of its sequences, and the director at position 0. -/
def Rood.stepQuads (k : Crew) (s : Step) (x : Rood) : List Nat :=
  (x.firstSg :: (x.groupsOf k ++ s.parts.flatMap (fun p => (x.stacksOf p.slot (p.first + p.count)).map (fun n => x.firstSg + n)))).map
    (fun g => g / 6)

/-- The traffic of a step may cross a bridge: its units lie in both quadrants that the bridge joins, or in two that only lie across
the ring (log entry 68). -/
def Rood.crossesBridge (b : Nat) (k : Crew) (s : Step) (x : Rood) : Bool :=
  let qs := x.stepQuads k s
  (bridgeEnds b).all (fun q => qs.contains q) || (qs.contains 0 && qs.contains 3) || (qs.contains 1 && qs.contains 2)

/-- The steps that may use a bridge are touched (R459). -/
def Dev.touchBridge (now : W64) (b : Nat) (d : Dev) : Dev :=
  d.atEach (fun ctx x => x.touch ctx.time false (x.stepSlots (fun k s => x.crossesBridge b k s))) now

/-- A bridge is disabled; a quadrant that has lost both is reset. -/
def Dev.loseBridge (now : W64) (b : Nat) (d : Dev) : Dev × Nat :=
  let d := ((d.touchBridge now b).mapDefects (fun m => { m with bridgeFailed := bvSet b m.bridgeFailed })).recordDefects
  match d.cutQuad b with
  | some q => (d.quadReset now q (.bridge b), 0x04)
  | none => (d, 0x08)

/-- An uncorrectable DRAM line (R455). -/
def Dev.loseDram (now : W64) (g : Nat) (o : Option DramObj) (d : Dev) : Dev × Nat :=
  let d := d.count .sg g 2 1
  match o with
  | none => (d, 0)
  | some o =>
    match d.rood? (objRood o) with
    | none => (d, 0)
    | some x => let p := x.loseLine o ⟨now, d⟩; (d.flushRood p.1, p.2)

/-- A failed assay (R464). -/
def Dev.failAssay (now : W64) (u : UnitId) (d : Dev) : Dev × Nat :=
  match u with
  | .tile t => if t < 96 then d.failTile now t else d.withdrawSpare t
  | .bank g _ => d.sgReset now g u
  | .slice g _ => d.sgReset now g u
  | .segment g => d.sgReset now g u
  | .stack g => d.sgReset now g u
  | .bridge b => d.loseBridge now b
  | _ => (d, 0)

/-! ## An event (R453, R459, R469, R476, Table 16.1) -/

/-- Table 16.1 for an event that no running reset takes up. A rood boundary violation resets the stack group of its sender; a bridge
that is named for one, or that stalls, lies in no tile and no stack group, and only its entry and the touched steps are left
(log entry 68). -/
def Dev.react (now : W64) (h : Hit) (d : Dev) : Dev × Nat :=
  if h.cls = 0x0F then d.markFailed now (sgOf h.unit) h.unit
  else if h.cls = 0x0E then d.failAssay now h.unit
  else if h.cls = 0x0D then (d, 0x09)
  else if h.cls = 0x0B then (d, 0)
  else if h.cls = 0x04 then d.loseDram now (sgOf h.unit) h.obj
  else
    match h.unit with
    | .tile t => if h.cls = 0x07 ∧ t < 96 then d.sgReset now (t / 4) h.unit else d.tileReset now t
    | .bridge b => if h.cls = 0x07 ∨ h.cls = 0x08 then (d.touchBridge now b, 0) else d.loseBridge now b
    | .bank g _ => d.sgReset now g h.unit
    | .slice g _ => d.sgReset now g h.unit
    | .segment g => d.sgReset now g h.unit
    | .stack g => d.sgReset now g h.unit
    | .chainPort p => (d.quadReset now (p / 2) h.unit, 0x04)
    | .flashChan f => (d.quadReset now (f / 4) h.unit, 0x04)
    | .pll q => (d.quadReset now q h.unit, 0x04)
    | _ => (d, 0)

/-- What a running reset makes of an event (R469). -/
inductive Meets where
  /-- No running reset takes it up. -/
  | free
  /-- The unit is under reset already. -/
  | absorbed
  /-- A stack-group reset is raised to a rood reset. -/
  | roodUp
  /-- Raised to a whole-device reset (Table 16.3). -/
  | wholeUp
  deriving DecidableEq, Repr

/-- R469. A quadrant reset raises every event but one against the unit that began it; a rood reset absorbs events against its
stack groups; a stack-group reset absorbs events against the unit that began it and is raised by any other of its units. -/
def Dev.meets (u : UnitId) (d : Dev) : Meets :=
  let rs := d.integ.resets
  let quads := rs.filter (fun l => match l with
    | .quad _ _ => true
    | _ => false)
  if quads.any (fun l => match l with
    | .quad _ c => c == u
    | _ => false) then .absorbed
  else if !quads.isEmpty then .wholeUp
  else if rs.any (fun l => match l with
    | .rood r => (d.rood? r).any (fun x => x.sgs.contains (sgOf u))
    | _ => false) then .absorbed
  else if rs.any (fun l => match l with
    | .sg g c => g == sgOf u && c == u
    | _ => false) then .absorbed
  else if rs.any (fun l => match l with
    | .sg g _ => g == sgOf u
    | _ => false) then .roodUp
  else if rs.contains (ResetLevel.tile (match u with
    | .tile t => t
    | _ => 0xFFFF)) then .absorbed
  else .free

/-- A corrected failure is only counted (R453): by the unit it befell, unless that is under reset (R500), and by the device. -/
def Dev.countCorrected (h : Hit) (d : Dev) : Dev :=
  let e := d.count .device 0 6 1
  if d.sgDown (sgOf h.unit) then e
  else
    match h.unit with
    | .tile t => if d.tileDown t then e else e.count .tile t (if h.cls = 0x03 then 5 else 4) (if h.cls ≤ 0x03 then 1 else 0)
    | .bank g c => e.count .bank (64 * g + c) (if h.cls = 0x04 then 5 else 6) (if h.cls = 0x04 ∨ h.cls = 0x01 then 1 else 0)
    | .segment g => e.count .sg g 3 (if h.cls = 0x05 then 1 else 0)
    | _ => e

/-- The class calls for no reset and names no work (Table 16.1). -/
def hitSilent (h : Hit) : Bool := h.cls == 0x0B || h.cls == 0x0D

/-- The whole-device reset of an event (Table 16.3); only a rail fault forces the full path (R492). -/
def Dev.eventReset (now : W64) (h : Hit) (own : List Nat) (d : Dev) : Dev :=
  d.wholeReset now (some { eventEntry now h.cls 0x05 h.unit h.layer with
    rood := match own with
      | [r] => r
      | _ => 0xFF }) (some h.unit) (match h.unit with
    | .rail _ => true
    | _ => false) h.env

/-- Roods that an event names: the one that holds its unit, and the one whose object it hits. -/
def Dev.eventRoods (h : Hit) (d : Dev) : List Nat :=
  d.ownRoods h.unit ++ (match h.obj with
    | some o => if h.cls = 0x04 then [objRood o] else []
    | none => [])

/-- An event of a device that is READY. -/
def Dev.readyEvent (now : W64) (h : Hit) (d : Dev) : Dev :=
  let own := d.eventRoods h
  let write := fun (reaction : Nat) (c : Dev) => c.writeEvent now d (eventEntry now h.cls reaction h.unit h.layer) own
  if hitSilent h then write (d.react now h).2 (d.react now h).1
  else if unitShared h.unit then d.eventReset now h own
  else if h.cls = 0x0F then
    let p := d.markFailed now (sgOf h.unit) h.unit
    if d.meets h.unit = .wholeUp then p.1.eventReset now h own else write p.2 p.1
  else
    match d.meets h.unit with
    | .absorbed => write 0 d
    | .roodUp => if (d.roodOf (sgOf h.unit)).isSome then write 0x03 (d.roodReset now (sgOf h.unit)) else write 0 d
    | .wholeUp => d.eventReset now h own
    | .free => let p := d.react now h; write p.2 p.1

/-- The event ends in a whole-device reset by itself (Table 16.3). -/
def hitWhole (h : Hit) : Bool := !h.corrected && !hitSilent h && h.cls != 0x0C && unitShared h.unit

/-- One detected failure. Before READY the causes of a whole-device reset end the start (R497); what else fails then is a failure
code of the start (Table 17.6). A unit that is powered down takes part in nothing (R45). -/
def Dev.event (now : W64) (h : Hit) (d : Dev) : Dev :=
  match d.boot.phase with
  | .ready =>
    if d.unitOff h.unit then d
    else if h.corrected then d.countCorrected h
    else if h.cls = 0x0C then d.loseClock now
    else d.readyEvent now h
  | .starting _ => if hitWhole h then d.eventReset now h [] else d
  | _ => d

def Dev.events (now : W64) (l : List Hit) (d : Dev) : Dev := l.foldl (fun d h => d.event now h) d

/-! ## The drain before the recovery state (R469, R473, Table 16.4) -/

/-- Sequences end at their next boundary as if cancelled: generation yields, prefill is discarded (R103, R112). -/
def Rood.drainSeqs (now : W64) (x : Rood) : Rood :=
  x.seqs.foldl (fun x q => match x.seq? q.cmd with
    | some q =>
      let x := x.setSeq { q with dropped := true }
      if x.inStep q || x.inHeld q then x else x.boundary now q.cmd
    | none => x) x

/-- Commands whose text is being converted end as cancelled. -/
def Rood.drainText (now : W64) (x : Rood) : Rood :=
  (x.cmds.filter (fun c => c.stage == .converting && namesSession c.opcode)).foldl (fun x c =>
    x.endWaiting now c stCancelled yCancel) x

/-- Parking and revival end with ST_CANCELLED, migrations as on REFUSE. -/
def Rood.drainMoves (now : W64) (x : Rood) : Rood :=
  x.moves.foldl (fun x m => match x.move? m.slot with
    | some m => x.stopMove now m (if m.kind ≤ 3 then stCancelled else stPeer) m.back
    | none => x) x

/-- A checkpoint ends with ST_CANCELLED and keeps its shards; a restore ends in the same way. -/
def Rood.drainCkp (ctx : Ctx) (x : Rood) : Rood :=
  let x := match x.ckp.run with
    | some r =>
      ({ x with ckp := { x.ckp with trailing := x.ckp.trailing ++ r.shards.filter (fun (s : ShardRun) => !s.durable) } } : Rood).endTake ctx.time r
        stCancelled
    | none => x
  match x.ckp.restore with
  | some r => x.endRestore ctx r stCancelled
  | none => x

/-- Moves that arrive from peers end. -/
def Rood.drainArrivals (now : W64) (x : Rood) : Rood :=
  x.endArrivalsOf now (fun _ => true)

/-- Steps 2 and 3 of Table 16.4 in one rood. -/
def Rood.drain (ctx : Ctx) (x : Rood) : Rood :=
  let x : Rood := { x with intakeOn := false }
  ((((x.drainSeqs ctx.time).drainText ctx.time).drainMoves ctx.time).drainCkp ctx).drainArrivals ctx.time

/-- Every completion record of the rood is visible and nothing runs. -/
def Rood.drained (x : Rood) : Bool := x.cmds.isEmpty && x.moves.isEmpty && x.arrivals.isEmpty && x.crews.all Crew.idle

/-- An ENTER_RECOVERY runs. -/
def Dev.entering (d : Dev) : Bool := d.side.running.any (fun r => r.code == 3)

/-- The drain, once no reset runs (R469). -/
def Dev.drainRoods (now : W64) (d : Dev) : Dev :=
  if d.entering && d.integ.resets.isEmpty && !d.integ.recovery then d.atEach Rood.drain now else d

/-! ## Rows: watchdogs, regulators, DRAM patrol (R454, R455, R458) -/

/-- WATCHDOG_FIRE (R458): an event of class 0x08 against the unit named. -/
def execWatchdogFire (h : Hit) (s : State) : Result :=
  .next (onDev (fun t d => (d.event t { h with cls := 0x08, obj := none, corrected := false }).settleAll t) s)

/-- TILE_REGULATOR_FAULT (R454): an event of class 0x0A against a tile. -/
def execTileRegulatorFault (f : TileFault) (s : State) : Result :=
  .next (onDev (fun t d => if f.tile < 104 then
      (d.event t { cls := 0x0A, unit := .tile f.tile, layer := 0, obj := none, corrected := false, env := f.env }).settleAll t
    else d) s)

/-- Corrected lines that the patrol finds, by channel of the stack. -/
def Dev.patrolled (sg : Nat) (chans : List Nat) (d : Dev) : Dev :=
  (chans.filter (fun c => decide (c < 64))).foldl (fun d c =>
    d.countCorrected { cls := 0x04, unit := .bank sg c, layer := 0, obj := none, corrected := true }) d

/-- DRAM_PATROL_READ (R455): the memory controllers correct what the code allows; what they cannot correct is an event. -/
def execDramPatrolRead (sg : Nat) (corrected : List Nat) (hits : List Hit) (s : State) : Result :=
  .next (onDev (fun t d => if sg < 24 ∧ d.boot.phase = .ready ∧ !d.sgOff sg then
      ((d.patrolled sg corrected).events t hits).settleAll t
    else d) s)

/-! ## Rows: the ends of resets (R465, R466, R545) -/

/-- An event that is the failure of a unit's assays at the end of its reset (R466, class 0x0E). -/
def Dev.failAfterReset (now : W64) (u : UnitId) (f : Dev → Dev × Nat) (d : Dev) : Dev :=
  let p := f d
  p.1.writeEvent now d (eventEntry now 0x0E p.2 u 0) (d.ownRoods u)

/-- Waiting work goes on, or an ENTER_RECOVERY that has waited for the reset (R469). -/
def Dev.endReset (now : W64) (d : Dev) : Dev := (d.drainRoods now).settleAll now

/-- TILE_RESET_DONE (R465, R466). -/
def execTileResetDone (tile : Nat) (pass : Bool) (s : State) : Result :=
  .next (onDev (fun t d =>
    if d.integ.resets.contains (.tile tile) then
      let d := d.setResets (fun rs => rs.filter (fun l => l != .tile tile))
      (if pass then d
       else d.failAfterReset t (.tile tile) (fun d => if tile < 96 then d.failTile t tile else d.withdrawSpare tile)).endReset t
    else d) s)

/-- The unit whose event began the reset of a stack group. -/
def Dev.sgCause (g : Nat) (d : Dev) : Option UnitId :=
  d.integ.resets.findSome? (fun l => match l with
    | .sg h c => if h = g then some c else none
    | _ => none)

/-- SG_RESET_DONE (R465, R466, R545): waiting work resumes, or the stack group is marked failed. -/
def execSgResetDone (sg : Nat) (pass : Bool) (s : State) : Result :=
  .next (onDev (fun t d =>
    match d.sgCause sg with
    | none => d
    | some u =>
      let d := d.setResets (fun rs => rs.filter (fun l => l != .sg sg u))
      let d := if pass then d.atSg t sg (fun ctx x => if x.posDown ctx 0 then x else x.releaseHeldSteps ctx.time)
        else d.failAfterReset t u (fun d => d.markFailed t sg u)
      d.endReset t) s)

/-- ROOD_RESET_DONE (R465): the rood stays fenced (R470). -/
def execRoodResetDone (r : Nat) (s : State) : Result :=
  .next (onDev (fun t d =>
    if d.integ.resets.contains (.rood r) then (d.setResets (fun rs => rs.filter (fun l => l != .rood r))).endReset t else d) s)

def Dev.quadDown (q : Nat) (d : Dev) : Bool :=
  d.integ.resets.any (fun l => match l with
    | .quad p _ => p == q
    | _ => false)

/-- A chain port that may be used starts link-up again. -/
def Dev.retrain (p : Nat) (d : Dev) : Dev :=
  if d.licensedPorts.getLsbD p && !d.boot.defects.portFailed.getLsbD p && d.chainTableOk then
    { d with chain := { d.chain with ports := modIdx p (fun q => { q with training := true }) d.chain.ports } }
  else d

/-- QUADRANT_RESET_DONE (R465): the quadrant's chain ports start link-up. -/
def execQuadrantResetDone (quad : Nat) (s : State) : Result :=
  .next (onDev (fun t d =>
    if d.quadDown quad then
      let d := d.setResets (fun rs => rs.filter (fun l => match l with
        | .quad p _ => p != quad
        | _ => true))
      ((d.retrain (2 * quad)).retrain (2 * quad + 1)).endReset t
    else d) s)

/-- STRUCTURE_REBUILD_DONE (R544): commands and steps that waited for the object go on. -/
def execStructureRebuildDone (obj : DramObj) (s : State) : Result :=
  .next (onRood (objRood obj) (fun ctx x =>
    ({ x with rebuilding := x.rebuilding.filter (fun o => o != obj) } : Rood).settle ctx) s)

/-! ## In-service assays (R463, R464) -/

/-- A free spare of the quadrant that stands in for no tile. -/
def Dev.idleSpare (q : Nat) (d : Dev) : Option Nat :=
  [2 * q, 2 * q + 1].find? (fun i => d.boot.defects.spares.getD i 0xFE == 0xFF && d.integ.standIns.all (fun p => p.1 != 96 + i))

/-- The tile after `t` in its quadrant, cyclically. -/
def nextTile (t : Nat) : Nat := t / 24 * 24 + (t % 24 + 1) % 24

/-- The next tile of the rotation that lies in no stack group that is failed or powered down. -/
def Dev.rotationAux (d : Dev) : (fuel : Nat) → Nat → Nat
  | 0, t => t
  | f + 1, t => if d.integ.sgFailed.getLsbD (t / 4) || d.sgOff (t / 4) then rotationAux d f (nextTile t) else t

def Dev.rotation (q : Nat) (d : Dev) : Nat := d.rotationAux 24 (d.integ.nextAssay.getD q (24 * q))

/-- A step uses the tile. -/
def Dev.tileInStep (t : Nat) (d : Dev) : Bool :=
  (d.roodOf (t / 4)).any (fun x => x.crews.any (fun k => k.step.isSome && x.usesTile t k))

/-- A spare takes over the role of the next tile of the rotation, which stands between steps, and the tile's assay runs. -/
def Dev.takeRole (t : Nat) (d : Dev) : Dev :=
  if t < 96 ∧ !d.sgOff (t / 4) ∧ d.rotation (t / 24) = t ∧ !d.tileInStep t ∧ !d.tileDown t ∧ !d.sgDown (t / 4) then
    match d.idleSpare (t / 24) with
    | some i => ({ d with integ := { d.integ with
        standIns := (96 + i, t) :: d.integ.standIns, assaying := .tile t :: d.integ.assaying
        nextAssay := d.integ.nextAssay.set (t / 24) (nextTile t) } } : Dev).clearWins [t]
    | none => d
  else d

/-- Tiles whose assay has passed take back their roles where no step uses them. -/
def Dev.giveBack (d : Dev) : Dev :=
  let stays := fun (p : Nat × Nat) => d.integ.assaying.contains (.tile p.2) || d.tileInStep p.2
  let back := (d.integ.standIns.filter (fun p => !stays p)).map (fun p => p.2)
  ({ d with integ := { d.integ with standIns := d.integ.standIns.filter stays } } : Dev).clearWins back

/-- IDLE_GAP_ASSAY (R463): a unit starts its assay; an idle tile whose turn it is gives its role to a stand-in. -/
def execIdleGapAssay (unit : UnitId) (s : State) : Result :=
  .next (onDev (fun _ d =>
    if d.boot.phase ≠ .ready then d
    else match unit with
      | .tile t => d.takeRole t
      | u => if unitGap u && !d.unitOff u && !d.integ.assaying.contains u then { d with integ := { d.integ with assaying := u :: d.integ.assaying } } else d) s)

/-- The unit's assay runs, or it is a free spare, which the rotation assays as it stands in. -/
def Dev.assayRuns (u : UnitId) (d : Dev) : Bool :=
  d.integ.assaying.contains u || (match u with
    | .tile t => decide (96 ≤ t) && decide (t < 104) && d.boot.defects.spares.getD (t - 96) 0xFE == 0xFF
    | _ => false)

/-- ASSAY_DONE (R463, R464). -/
def execAssayDone (unit : UnitId) (v : Verdict) (s : State) : Result :=
  .next (onDev (fun t d =>
    if d.boot.phase = .ready ∧ d.assayRuns unit then
      let d : Dev := { d with integ := { d.integ with assaying := d.integ.assaying.filter (fun u => u != unit) } }
      (if v.pass then d.giveBack
       else d.event t { cls := 0x0E, unit := unit, layer := 0, obj := none, corrected := false, env := v.env }).settleAll t
    else d) s)

/-- R463: a unit that has not been assayed for 60 s is logged LATE, but for an active tile whose quadrant has no free spare, and
for a unit that is powered down. -/
def Dev.lateExempt (u : UnitId) (d : Dev) : Bool :=
  d.unitOff u || match u with
  | .tile t => decide (t < 96) && (d.boot.defects.freeSpare (t / 24)).isNone
  | _ => false

/-- ASSAY_LATE (R463, Table 19.18). -/
def execAssayLate (unit : UnitId) (s : State) : Result :=
  .next (onDev (fun t d =>
    if d.boot.phase = .ready ∧ !d.lateExempt unit then
      d.log (({ LogEntry.plain t 0x01 1 0 with cls := 0x0E } : LogEntry).ofUnit unit)
    else d) s)

/-! ## STEP_END (R290, R460, R468) -/

/-- What fails in a step: what the units detect, and the walker's checks of the frame pointers (R259, R453). -/
def Dev.stepHits (r model crew : Nat) (e : StepEnv) (d : Dev) : List Hit :=
  e.hits ++ ((d.rood? r).map (fun x => x.walkHits model crew)).getD []

/-- STEP_END (R290): what failed during the step, then its boundary; stand-ins change at the boundary. -/
def execStepEnd (r model crew : Nat) (e : StepEnv) (s : State) : Result :=
  .next (onDev (fun t d =>
    if d.roodsLive then
      let d := (d.atRood r (fun _ x => x.markEnding model crew e) t).events t (d.stepHits r model crew e)
      if d.roodsLive then
        let d := d.atRood r (fun ctx x => ((x.endStep ctx model crew e).stepTrigger ctx).emptyMarked ctx.time) t
        (e.assay.foldl (fun d t => d.takeRole t) d.giveBack).atRood r (fun ctx x => x.settle ctx) t
      else d
    else d) s)

end Sys2Proof.Machine
end

