-- ==== Sys2Proof/Machine/Energy.lean ====
section
/-! DEFINITION. The energy governor: budget intervals, banks, tile supplies, heat, sensors and telemetry (chapter 15,
Table 16.1 class 0x0B, Table 18.7). One BUDGET_INTERVAL is the end of one interval and the start of the next. -/
namespace Sys2Proof.Machine
open Sys2Proof

/-! ## The cap (R433 to R435) -/

def capLegal (w : Nat) : Bool := decide (300 ≤ w) && decide (w ≤ 1100)

/-- A limit out of range: it is ignored and logged with CODE 5 and the value written in W (Table 19.18). -/
def Dev.capRefused (now : W64) (w : Nat) (d : Dev) : Dev := d.log (LogEntry.plain now 0x04 5 w)

/-- HOST_CAP (R433). -/
def Dev.setHostCap (now : W64) (w : Nat) (d : Dev) : Dev :=
  if capLegal w then { d with energy := { d.energy with hostCap := w } } else d.capRefused now w

/-- CXL.io and the device window answer: from 100 ms after PWRGD, within S03, on (R486, Table 17.10). -/
def Dev.windowOpen (d : Dev) : Bool :=
  match d.boot.phase with
  | .off => false
  | .held => false
  | .inReset => false
  | _ => decide (3 ≤ d.boot.step)

/-- HOST_CAP_WRITE (R433). -/
def execHostCapWrite (value : Nat) (s : State) : Result :=
  .next (onDev (fun t d => if d.windowOpen then d.setHostCap t (value % 65536) else d) s)

/-- The cap of the interval that begins (R435). -/
def Dev.takeCap (d : Dev) : Dev :=
  let c := min d.energy.sidebandCap d.energy.hostCap
  if c = d.energy.inForce then d
  else ({ d with energy := { d.energy with inForce := c } } : Dev).count .device 0 3 1

/-! ## Grants (R436, R541, R542) -/

/-- The share of every active stack group. -/
def shareOf (cap sharedUsed n : Nat) : Nat := if n = 0 then 0 else (10 * cap - (sharedUsed + 100)) / n

/-- A bank at the start of an interval. -/
def bankNext (share used : Nat) (b : Int) : Int := max (min (b + share - used) (4 * share)) (-16 * share)

/-- The grants of the interval that begins. -/
def Energy.grant (act : List Nat) (m : Readings) (e : Energy) : Energy :=
  let sh := shareOf e.inForce m.sharedUsed act.length
  { e with
    share := sh, shared := m.sharedUsed
    bank := (List.range 24).map (fun g => if act.contains g then bankNext sh (m.used.getD g 0) (e.bank.getD g 0) else 0)
    active := (List.range 24).map (fun g => act.contains g) }

/-! ## Heat (R440, R441, Table 15.4) -/

/-- A tile's temperature: the higher of its readings; none when neither sensor reports. -/
def tileReading (r : Option Int × Option Int) : Option Int :=
  match r with
  | (some a, some b) => some (max a b)
  | (some a, none) => some a
  | (none, b) => b

/-- Both sensors report and agree within 6 degrees. -/
def tileSensorsOk (r : Option Int × Option Int) : Bool :=
  match r with
  | (some a, some b) => decide (a - b ≤ 48) && decide (b - a ≤ 48)
  | _ => false

def tileOf (t : Nat) (m : Readings) : Option Int × Option Int := m.tileTemp.getD t (none, none)
def stackOf (g : Nat) (m : Readings) : Option Int := m.stackTemp.getD g none

/-- The thermal ceiling of a tile in mV, from its temperature in 1/8 degree (Table 15.4). -/
def ceilingOf (temp : Int) : Nat :=
  if temp ≤ 760 then 920 else max 550 ((7360 - 20 * (temp - 760)) / 80 * 10).toNat

/-- The readings of an interval: a tile without a reading keeps its last one, and a stack without one stands at 95 degrees, but
for a stack that is powered down (`off`), which keeps its last one. -/
def Energy.read (off : Nat → Bool) (m : Readings) (e : Energy) : Energy :=
  let tt := (List.range 104).map (fun t => (tileReading (tileOf t m)).getD (e.tileTemp.getD t 0))
  let st := (List.range 24).map (fun g => (stackOf g m).getD (if off g then e.stackTemp.getD g 0 else 760))
  { e with
    tileTemp := tt, stackTemp := st, ceiling := tt.map ceilingOf, ro := m.roCounts
    doubleRefresh := st.map (fun v => decide (680 ≤ v)), hotHalf := st.map (fun v => decide (760 ≤ v)) }

/-- THERM_ALERT_N after the readings. -/
def Energy.alertNext (e : Energy) : Bool :=
  if e.tileTemp.any (fun v => decide (840 ≤ v)) || e.stackTemp.any (fun v => decide (760 ≤ v)) then true
  else if e.tileTemp.all (fun v => decide (v ≤ 800)) && e.stackTemp.all (fun v => decide (v ≤ 720)) then false
  else e.thermAlert

/-- A tile or a stack at or above 125 degrees. -/
def Energy.trips (e : Energy) : Bool :=
  e.tileTemp.any (fun v => decide (1000 ≤ v)) || e.stackTemp.any (fun v => decide (1000 ≤ v))

/-! ## Sensors (Table 16.1, class 0x0B) -/

/-- A free spare takes the place of a tile without a sensor; where there is none the tile runs at 0.55 V. -/
def Dev.loseSensors (now : W64) (t : Nat) (d : Dev) : Dev × Nat :=
  if t < 96 ∧ (d.boot.defects.freeSpare (t / 24)).isSome then d.failTile now t
  else ({ d with energy := { d.energy with blind := t :: d.energy.blind.filter (fun u => u != t) } }, 0)

/-- The steps that use a unit are touched (R459). -/
def Dev.touchUnit (now : W64) (u : UnitId) (d : Dev) : Dev :=
  match u with
  | .tile t => d.atSg now (t / 4) (fun ctx x => x.touch ctx.time false (x.tileSlots t))
  | _ => d.atSg now (sgOf u) (fun ctx x => x.touch ctx.time false (x.stepSlots (fun k s => x.usesSgs [sgOf u] k s)))

/-- The event of a lost sensor, once while it lasts; a unit under reset reports nothing. -/
def Dev.sensorEvent (now : W64) (u : UnitId) (all : Bool) (d : Dev) : Dev :=
  let under := d.sgDown (sgOf u) || (match u with
    | .tile t => d.tileDown t
    | _ => false) || d.unitOff u
  if d.energy.sensorLost.contains u || under then d
  else
    let c := d.touchUnit now u
    let p := match u with
      | .tile t => if all then c.loseSensors now t else (c, 0)
      | _ => (c, 0)
    ({ p.1 with energy := { p.1.energy with sensorLost := u :: p.1.energy.sensorLost } } : Dev).writeEvent now d
      (eventEntry now 0x0B p.2 u 0) (d.ownRoods u)

/-- Sensors that report again leave the list, and tiles that have one again leave 0.55 V. -/
def Energy.sensorsBack (m : Readings) (e : Energy) : Energy :=
  { e with
    blind := e.blind.filter (fun t => (tileReading (tileOf t m)).isNone)
    sensorLost := e.sensorLost.filter (fun u => match u with
      | .tile t => !tileSensorsOk (tileOf t m)
      | .stack g => (stackOf g m).isNone
      | _ => false) }

/-- Every sensor failure of the readings. -/
def Dev.sensors (now : W64) (m : Readings) (d : Dev) : Dev :=
  let d : Dev := { d with energy := d.energy.sensorsBack m }
  let d := ((List.range 104).filter (fun t => !tileSensorsOk (tileOf t m))).foldl (fun d t =>
    d.sensorEvent now (.tile t) (tileReading (tileOf t m)).isNone) d
  ((List.range 24).filter (fun g => (stackOf g m).isNone)).foldl (fun d g => d.sensorEvent now (.stack g) true) d

/-! ## Supplies (R439, Table 15.2) -/

/-- The target of a tile that has a step and ran one in the interval before. -/
def supplyNext (bank : Int) (share prev : Nat) : Nat :=
  if bank < -4 * share then 550
  else if bank < 0 then max 550 (prev - 20)
  else if bank < share then prev
  else min 920 (prev + 10)

/-- The target supply of an active tile at an interval start; the regulator of a tile that is powered down is off (R45). -/
def Dev.target (t : Nat) (d : Dev) : Nat :=
  let e := d.energy
  if d.sgOff (t / 4) then 0
  else if !d.tileInStep t ∨ e.blind.contains t then 550
  else min (e.ceiling.getD t 550) (supplyNext (e.bank.getD (t / 4) 0) e.share (e.supply.getD t 550))

/-- Supplies, what the tiles ran, and the halved reads of a stack group that has overdrawn its bank. A spare tile stands at
0.55 V. -/
def Dev.supplies (d : Dev) : Dev :=
  let e := d.energy
  { d with energy := { e with
      supply := (List.range 104).map (fun t => if t < 96 then d.target t else 550)
      busy := e.ran, ran := (List.range 104).map (fun t => decide (t < 96) && d.tileInStep t)
      lowHalf := (List.range 24).map (fun g =>
        let b := e.bank.getD g 0
        decide (b < -4 * e.share) || (e.lowHalf.getD g false && decide (b < 0))) } }

/-! ## Counters and tallies (Tables 18.1, 18.4) -/

/-- A signed value as a counter holds it. -/
def signed64 (v : Int) : Nat := (v % 2 ^ 64).toNat

/-- The highest reading since reset: a counter that nothing has written takes the first reading. -/
def Dev.countMax (set : CtrSet) (unit idx : Nat) (v : Int) (d : Dev) : Dev :=
  let k : CtrKey := ⟨set, unit, idx⟩
  let old := d.counters.find? (fun p => p.1 == k)
  let keep := match old with
    | some p => decide (v ≤ (BitVec.ofNat 64 p.2).toInt)
    | none => false
  if keep then d else { d with counters := counterSet k (signed64 v) d.counters }

/-- What one tile counts in an interval. -/
def Dev.countTile (m : Readings) (d : Dev) (t : Nat) : Dev :=
  if d.tileDown t ∨ d.sgDown (t / 4) ∨ d.sgOff (t / 4) then d
  else
    let d := d.count .tile t 3 (m.tileEnergy.getD t 0)
    let d : Dev := { d with counters := counterSet ⟨.tile, t, 6⟩ (m.roCounts.getD t 0) d.counters }
    match tileReading (tileOf t m) with
    | some v => d.countMax .tile t 7 v
    | none => d

/-- What one stack group counts in an interval. -/
def Dev.countSg (m : Readings) (d : Dev) (g : Nat) : Dev :=
  if d.sgDown g ∨ d.sgOff g then d
  else
    let d := d.count .sg g 0 (m.used.getD g 0)
    let d := d.count .sg g 1 (bit (d.energy.bank.getD g 0 < -4 * d.energy.share))
    let d := d.count .sg g 6 (bit (d.energy.doubleRefresh.getD g false))
    match stackOf g m with
    | some v => d.countMax .sg g 7 v
    | none => d

/-- Package energy of an interval. -/
def packageOf (m : Readings) : Nat := (m.used.take 24).sum + m.sharedUsed

def Dev.countInterval (m : Readings) (d : Dev) : Dev :=
  let d := (List.range 104).foldl (fun d t => d.countTile m t) d
  let d := (List.range 24).foldl (fun d g => d.countSg m g) d
  ((d.count .device 0 0 (packageOf m)).count .device 0 1 m.sharedUsed).count .device 0 2 1

/-- What an interval adds to a rood's tally. -/
def Rood.meterInterval (m : Readings) (n : Nat) (x : Rood) : Rood :=
  x.mapTally (fun t => { t with
    grains := t.grains + (x.sgs.map (fun g => m.used.getD g 0)).sum
    sharedGrains := t.sharedGrains + (if n = 0 then 0 else m.sharedUsed * x.width / n)
    frameIntervals := t.frameIntervals + x.kv.frames.length
    extentIntervals := t.extentIntervals + x.extentsHeld })

/-- Metering of a composition (R508, Table 18.5). -/
def Dev.meter (m : Readings) (d : Dev) : Dev :=
  if d.roodsLive then
    { d with
      comp := { d.comp with packageGrains := d.comp.packageGrains + packageOf m }
      roods := d.roods.map (fun x => x.meterInterval m d.layoutSgs.length) }
  else d

/-! ## Telemetry (Table 18.7) -/

/-- The hottest of some readings. -/
def hottest (l : List Int) : Int := match l with
  | [] => 0
  | a :: r => r.foldl max a

/-- Mean package power in W over the intervals recorded, 100 at most: 10 grains in an interval are 1 W. -/
def meanPower (l : List Nat) : Nat := if l.isEmpty then 0 else l.sum / (10 * l.length)

def Dev.takeTelemetry (now : W64) (m : Readings) (d : Dev) : Dev :=
  let h := (packageOf m :: d.energy.powerHist).take 100
  { d with energy := { d.energy with
      powerHist := h
      telemetry := { time := now, cap := d.energy.inForce, sidebandCap := d.energy.sidebandCap, power := meanPower h
                     tileTemp := hottest d.energy.tileTemp, stackTemp := hottest d.energy.stackTemp, fault := d.faultReg
                     boot := d.bootReg, sgFailed := d.integ.sgFailed.toNat, composed := d.comp.composed
                     thermAlert := d.energy.thermAlert } } }

/-! ## BUDGET_INTERVAL -/

/-- THERM_ALERT_N and THERMTRIP_N after the readings (R441, R472). -/
def Dev.alarms (d : Dev) : Dev :=
  let a := d.energy.alertNext
  let d := if a && !d.energy.thermAlert then d.count .device 0 4 1 else d
  let d : Dev := { d with energy := { d.energy with thermAlert := a } }
  if d.energy.trips then d.trip else d

/-- Every rood of the layout has had its first interval (R542). -/
def Dev.powerRoods (d : Dev) : Dev := { d with roods := d.roods.map (fun x => { x with powered := true }) }

/-- The stack groups that receive a share: those of the layout in force, from READY on (R542). -/
def Dev.activeSgs (d : Dev) : List Nat := if d.boot.phase == .ready then d.layoutSgs else []

/-- The governor acts: PWRGD is asserted and no reset, hold or trip stands (R435, R440, R486). -/
def Dev.governs (d : Dev) : Bool :=
  match d.boot.phase with
  | .ready => true
  | .starting _ => true
  | .stopped => true
  | _ => false

/-- The governor at the start of an interval: the cap, the draw, the readings with their responses, and from READY on grants and
supplies. A start that has stopped takes no reaction to a sensor that fails (R486). -/
def Dev.interval (now : W64) (m : Readings) (d : Dev) : Dev :=
  let d := (d.meter m).takeCap
  let d : Dev := { d with energy := { (d.energy.read (fun g => d.sgOff g) m).grant d.activeSgs m with interval := now.toNat / 10000 } }
  let d := (((if d.boot.phase == .stopped then d else d.sensors now m).alarms).countInterval m)
  if d.boot.phase = .ready then ((d.supplies).powerRoods.takeTelemetry now m).settleAll now else d.takeTelemetry now m

/-- BUDGET_INTERVAL (R435 to R442, R541): before READY the governor grants nothing (R487). -/
def execBudgetInterval (m : Readings) (s : State) : Result :=
  .next (onDev (fun t d => if d.governs then d.interval t m else d) s)

end Sys2Proof.Machine
end

