-- ==== Sys2Proof/Machine/Counters.lean ====
section
/-! DEFINITION. Counter sets and the snapshots of a rood and of the device (R500 to R507). A snapshot's marker reaches every unit
within the command that emits it, so its cut is the state at that command. -/
namespace Sys2Proof.Machine
open Sys2Proof

/-! ## Sets (Table 18.1) -/

/-- The first `n` counters of a unit's set. -/
def Dev.setBytes (set : CtrSet) (unit n : Nat) (d : Dev) : List Byte :=
  (List.range n).flatMap (fun i => leBytes 8 (counterGet ⟨set, unit, i⟩ d.counters))

/-- A stack-group area of 4,608 bytes (R506). -/
def Dev.sgArea (g : Nat) (d : Dev) : List Byte :=
  d.setBytes .sg g 8 ++ d.setBytes .slice g 24 ++ (List.range 4).flatMap (fun i => d.setBytes .tile (4 * g + i) 8) ++
    (List.range 64).flatMap (fun c => d.setBytes .bank (64 * g + c) 8)

/-- Counters of a stack group that the manual names but whose events it leaves inside the unit (log entry 18): LANE_STEPS of its
tiles, and LINES_READ and LINES_WRITTEN of its bank engines. -/
def internalKeys (g : Nat) : List CtrKey :=
  ((List.range 4).map (fun i => ⟨.tile, 4 * g + i, 1⟩) ++
    (List.range 64).flatMap (fun c => [⟨.bank, 64 * g + c, 3⟩, ⟨.bank, 64 * g + c, 4⟩]))

/-- What these counters have counted since the last latch: free values. -/
def Dev.latchInternal (gs : List Nat) (d : Dev) : Dev :=
  { d with
    counters := (gs.flatMap internalKeys).foldl (fun l k =>
      counterAdd k (Config.internalCount (k.code + 2 ^ 20 * d.boot.draws)) l) d.counters
    boot := { d.boot with draws := d.boot.draws + 1 } }

/-! ## The rood snapshot (R502 to R506) -/

/-- Bytes of the snapshot of a rood of `w` stack groups. -/
def snapSize (w : Nat) : Nat := 1216 + 4608 * w

/-- The number after `n`: modulo 2^32, skipping 0 (R505). -/
def snapNext (n : Nat) : Nat := if (n + 1) % 2 ^ 32 = 0 then 1 else (n + 1) % 2 ^ 32

/-- UNDER_RESET: bit n for the stack group at position n (R504). -/
def Rood.underReset (ctx : Ctx) (x : Rood) : Nat :=
  ((List.range x.width).map (fun n => if x.posDown ctx n then 2 ^ n else 0)).sum

/-- Table 18.2. -/
def Rood.snapBytes (ctx : Ctx) (number : Nat) (x : Rood) : List Byte :=
  padTo 64 (leBytes 4 0x50414E53 ++ leBytes 2 1 ++ leBytes 1 x.num ++ leBytes 1 x.width ++ leBytes 4 number ++
    leBytes 4 x.firstSg ++ leBytes 8 ctx.time.toNat ++ leBytes 8 ctx.time.toNat ++ leBytes 4 (x.underReset ctx)) ++
    ctx.dev.setBytes .rood x.num 16 ++ (x.takeTally ctx.time).bytes ++
    (match x.carried with
     | some t => t.bytes
     | none => zeros 512) ++ x.sgs.flatMap (fun g => ctx.dev.sgArea g)

/-- Checks 2 and 3 of CNT_SNAPSHOT (R144, R145, R147). -/
def Rood.snapCheck (c : Cmd) (out : OutBuf) (x : Rood) : Nat :=
  let len := c.f 20 0 32
  let addr := c.f 24 0 64
  if !c.wellFormed || addr % 8 != 0 || (out == .fault && hostSpan addr len) then stFormat
  else if len = 0xFFFFFFFF ∨ len < snapSize x.width ∨ !hostSpan addr len then stLength
  else 0

/-- The snapshot is taken and written; a use of the buffer that fails ends it with the bytes written so far, and its number is used
(R148). -/
def Rood.takeSnap (ctx : Ctx) (c : Cmd) (out : OutBuf) (x : Rood) : Rood :=
  let n := snapNext x.snapNumber
  let bytes := x.snapBytes ctx n
  let y : Rood := { x with snapNumber := n }
  match out with
  | .lost k => ((y.hostWrite (c.f 24 0 64) (bytes.take k)).addrFault ctx.time c).fail ctx.time c stCancelled
  | _ => (y.hostWrite (c.f 24 0 64) bytes).complete ctx.time c { c.record stOk with result := [n, snapSize x.width, 0, 0] }

def Rood.runSnapshot (ctx : Ctx) (out : OutBuf) (c : Cmd) (x : Rood) : Rood :=
  let st := x.snapCheck c out
  (if st ≠ 0 then x.fail ctx.time c st else x.takeSnap ctx c out).pump ctx.time

/-- The internal counts of a rood, latched as its snapshot begins. -/
def Dev.latchFor (r c : Nat) (out : OutBuf) (d : Dev) : Dev :=
  match d.rood? r with
  | some x =>
    (match x.cmd? c with
     | some k => if k.opcode = 0x38 ∧ k.stage = .accepted ∧ !x.unjudgedBefore [0x38] k ∧ x.snapCheck k out = 0 then d.latchInternal x.sgs else d
     | none => d)
  | none => d

/-- CNT_SNAPSHOT (R502, R505, R506): the snapshots of one rood are taken in their order of acceptance. -/
def execCntSnapshot (r c : Nat) (out : OutBuf) (s : State) : Result :=
  .next (onDev (fun t d =>
    if d.roodsLive then
      (d.latchFor r c out).atRood r (fun ctx x => x.onNext c [0x38] [0x38] (fun k x => x.runSnapshot ctx out k)) t
    else d) s)

/-! ## The device snapshot (R505, R507) -/

/-- Starts a device snapshot, or joins the one that runs: the device set is latched at emission. -/
def Dev.startSnap (d : Dev) : Dev :=
  if d.snap.busy then d
  else { d with snap := { d.snap with
      busy := true, latched := (List.range 32).map (fun i => counterGet ⟨.device, 0, i⟩ d.counters) } }

/-- DEV_SNAP_START (Table 18.3): a write of DEV_SNAP_CTL with START. -/
def execDevSnapStart (value : W64) (s : State) : Result :=
  .next (onDev (fun _ d => if d.windowOpen && d.boot.phase == .ready && bitAt value.toNat 31 then d.startSnap else d) s)

end Sys2Proof.Machine
end

