-- ==== Sys2Proof/Machine/FlashCare.lean ====
section
/-! DEFINITION. What the translation layer does on its own (R384, R499): relocation, erasure, and the end of a LUN's rebuild. -/
namespace Sys2Proof.Machine
open Sys2Proof

/-- The rood whose extent lies at a place. -/
def Dev.extentOwner (p : Nat × Nat × Nat) (d : Dev) : Option Rood :=
  d.roods.find? (fun x => x.flash.any (fun o => o.exts.any (fun e => e.place == p)))

/-- Erase counts of the blocks of a channel that the layer uses. -/
def Flash.channelErases (c : Nat) (f : Flash) : List Nat :=
  (f.luns.filter (fun u => u.chan == c && u.joined)).flatMap (fun u => (f.usable u).map (fun b => (f.block c u.id b).erases))

/-- The LUN of a place has joined the flash tier. -/
def Flash.joinedAt (p : Nat × Nat × Nat) (f : Flash) : Bool := f.luns.any (fun u => u.chan == p.1 && u.id == p.2.1 && u.joined)

/-- The layer relocates the extent at a place (R384): 50,000 page reads, a read that needed more than three quarters of the code's
correction (`weak`), or an erase spread above 256 on the channel, for the extent whose block has the lowest count. -/
def Dev.relocationDue (p : Nat × Nat × Nat) (weak : Bool) (d : Dev) : Bool :=
  let b := d.flash.block p.1 p.2.1 p.2.2
  let others := (d.roods.flatMap (fun x => x.flash.flatMap (fun o => o.exts))).filter (fun e => e.chan == p.1)
  d.ready && d.flash.joinedAt p &&
    (weak || decide (50000 ≤ b.reads) ||
      ((d.flash.channelErases p.1).any (fun k => decide (b.erases + 256 < k)) &&
        others.all (fun e => decide (b.erases ≤ (d.flash.block e.chan e.lun e.block).erases))))

/-- An extent decrypted and encrypted again under the nonce of its new page; none on a media error. -/
def Rood.moveExtent (f : Flash) (b : Block) (e : Extent) (x : Rood) : Option Extent :=
  (f.readExtent x.storageKey e).map (fun bs => sealExtent x.storageKey x.num e.number b bs)

/-- Moves the extent at a place to another block of its channel; the old one waits for its erasure. -/
def Rood.relocate (p : Nat × Nat × Nat) (new : Extent) (x : Rood) : Rood :=
  let old := (x.flash.flatMap (fun o => o.exts)).filter (fun e => e.place == p)
  { x with
    flash := x.flash.map (fun o => { o with exts := o.exts.map (fun e => if e.place == p then new else e) })
    freedExts := x.freedExts ++ old }

/-- The extent of a rood at a place. -/
def Rood.extentAt (p : Nat × Nat × Nat) (x : Rood) : Option Extent :=
  (x.flash.flatMap (fun o => o.exts)).find? (fun e => e.place == p)

/-- Retires blocks (R384). -/
def Flash.retire (l : List Block) (f : Flash) : Flash :=
  l.foldl (fun f b => f.modBlock b.chan b.lun b.block (fun k => { k with bad := true })) f

/-- FLASH_RELOCATE (R384): the extent at a place moves to the free block of its channel with the lowest erase count; blocks that
fail the program are retired, and so is a block whose extent gives a media error. -/
def Dev.relocate (p : Nat × Nat × Nat) (weak : Bool) (d : Dev) : Dev :=
  if !d.relocationDue p weak then d
  else
    match d.extentOwner p with
    | none => d
    | some x =>
      match x.extentAt p, programBlock (fun u => d.flash.freeBlock u p.1) d.flash.tries (x.usedPlaces ⟨0, d⟩) with
      | some e, some (b, failed) =>
        match x.moveExtent d.flash b e with
        | none => { d with flash := d.flash.retire [d.flash.block p.1 p.2.1 p.2.2] }
        | some new =>
          let f := (d.flash.retire failed).modBlock b.chan b.lun b.block (fun k => { k with reads := 0, lost := false })
          ({ d.setRood (x.relocate p new) with flash := f } : Dev).count .device 0 (8 + p.1) 1
      | _, _ => d

def execFlashRelocate (chan lun : Nat) (b : BlockWear) (s : State) : Result :=
  .next (onDev (fun _ d => ({ d with flash := d.flash.wear b.wear } : Dev).relocate (chan, lun, b.block)
    (b.wear.weak.contains (chan, lun, b.block))) s)

/-- A rood gives up a freed extent that no running checkpoint still has to copy (R407). -/
def Rood.erased (p : Nat × Nat × Nat) (x : Rood) : Rood :=
  if x.ckp.run.isSome then x else { x with freedExts := x.freedExts.filter (fun e => e.place != p) }

/-- A freed place that may be erased now: nothing is, in a device that is not READY or has tripped (R472, R486). -/
def Dev.erasable (p : Nat × Nat × Nat) (d : Dev) : Bool :=
  d.ready && d.flash.joinedAt p && (d.flash.freed.contains p || d.roods.any (fun x => x.ckp.run.isNone && x.freedExts.any (fun e => e.place == p)))

/-- EXTENT_ERASE (R109, R384): the block of a freed extent is erased and free again; one that fails the erase is retired. -/
def Dev.eraseExtent (p : Nat × Nat × Nat) (d : Dev) : Dev :=
  if !d.erasable p then d
  else
    let f := d.flash.modBlock p.1 p.2.1 p.2.2 (fun k =>
      if k.worn then { k with bad := true } else { k with erases := k.erases + 1, reads := 0, lost := false })
    { d with roods := d.roods.map (fun x => x.erased p), flash := { f with freed := f.freed.filter (fun q => q != p) } }

def execExtentErase (chan lun : Nat) (b : BlockWear) (s : State) : Result :=
  .next (onDev (fun _ d => ({ d with flash := d.flash.wear b.wear } : Dev).eraseExtent (chan, lun, b.block)) s)

/-- LUN_REBUILD_DONE (R499): the LUN joins the flash tier; a device that has stopped or tripped takes no action (R472, R486). -/
def execLunRebuildDone (chan ce lun : Nat) (s : State) : Result :=
  .next (onDev (fun _ d => if !d.ready then d else { d with flash := { d.flash with
    luns := d.flash.luns.map (fun u =>
      if u.chan == chan && u.ce == ce && u.lun == lun && u.rebuilding then { u with rebuilding := false, joined := true } else u) } }) s)

end Sys2Proof.Machine
end

