-- ==== Sys2Proof/Machine/Sideband.lean ====
section
/-! DEFINITION. Sideband messages: their form and order (R81 to R84), composition and release (R79, R80, Table 2.11), the recovery
state and layouts (R50, R473), the cap, resets and assays (Table 2.13), and the requests of Table 18.6 (R512). -/
namespace Sys2Proof.Machine
open Sys2Proof

/-! ## Results (Table 2.14) -/

abbrev sbSuccess : Nat := 0
abbrev sbBusy : Nat := 1
abbrev sbUnsupported : Nat := 2
abbrev sbFormat : Nat := 3
abbrev sbState : Nat := 4
abbrev sbRefused : Nat := 5

/-! ## Messages (Table 2.12, R81) -/

/-- The request that a message carries; none for a message that is discarded without answer. -/
def sbRequest (msg : List Byte) : Option SbReq :=
  if msg.length < 8 ∨ u8At 0 msg ≠ 0x7E ∨ u8At 1 msg ≠ 0x1D ∨ u8At 2 msg ≠ 0x7A ∨ bitAt (u8At 4 msg) 0 then none
  else some { code := u8At 3 msg, inst := u8At 5 msg, msg := msg }

/-- The request's payload. -/
def SbReq.payload (q : SbReq) : List Byte := q.msg.drop 8

/-- Reserved bits of byte 4 and RESULT are zero (R82). -/
def SbReq.headOk (q : SbReq) : Bool := u8At 4 q.msg / 2 == 0 && u16At 6 q.msg == 0

/-- A response. -/
def sbResponse (code inst result : Nat) (payload : List Byte) : List Byte :=
  [0x7E, 0x1D, 0x7A, byteOf code, 1, byteOf inst] ++ leBytes 2 result ++ payload

/-- Answers a request. -/
def Dev.sbAnswer (q : SbReq) (result : Nat) (payload : List Byte) (d : Dev) : Dev :=
  { d with out := d.out ++ [.sideband (sbResponse q.code q.inst result payload)] }

/-- The payload fits Table 2.13 or Table 18.6 (R82, R512, Table 2.14). -/
def SbReq.formatOk (q : SbReq) : Bool :=
  let p := q.payload
  q.headOk && (match q.code with
    | 0x01 => p.length == 32
    | 0x02 => p.isEmpty
    | 0x03 => p.isEmpty
    | 0x04 => p.isEmpty
    | 0x05 => decide (8 ≤ p.length) && p.length == 8 + 16 * u8At 0 p && allZero (cut 1 7 p)
    | 0x06 => p.length == 4 && u16At 2 p == 0 && capLegal (u16At 0 p)
    | 0x07 => p.length == 4 && allZero p
    | 0x08 => p.length == 4 && allZero (p.drop 1) && decide (u8At 0 p ≤ 23)
    | 0x10 => p.isEmpty
    | 0x11 => p.isEmpty
    | _ => p.length == 8 && u32At 4 p == 0)

/-- A SET_CAP whose only fault is its cap (R83). -/
def SbReq.capOutside (q : SbReq) : Bool :=
  q.code == 0x06 && q.headOk && q.payload.length == 4 && u16At 2 q.payload == 0 && !capLegal (u16At 0 q.payload)

/-! ## Composition (R79, R482) -/

/-- COMPOSE: BUSY and STATE have been judged. -/
def Dev.sbCompose (now : W64) (q : SbReq) (d : Dev) : Dev :=
  let d := d.compose now q.payload
  d.sbAnswer q sbSuccess (leBytes 8 d.comp.serial)

/-! ## Release (Table 2.11, R80, R127) -/

/-- A rood that a release or a layout change scrubs: formed anew, with every stack group's read-back to come (R77). -/
def Dev.scrubRood (i : Nat) (e : LayoutEntry) (d : Dev) : Rood := { d.formRood i e with scrubbing := e.sgs }

/-- Steps 5 to 8: the roods stop, the tally is sealed, and every rood begins its scrub. HOST_CAP returns to 1,100 W (R433). -/
def Dev.release (now : W64) (d : Dev) : Dev :=
  let d := d.sealComposition now (d.tallies now)
  let d := d.roods.foldl (fun d x => d.freePlaces x) d
  { d with
    comp := { d.comp with releasing := true }, energy := { d.energy with hostCap := 1100 }
    roods := d.layout.zipIdx.map (fun p => d.scrubRood p.2 p.1) }

/-- The running request is answered. -/
def Dev.finishRunning (result : Nat) (payload : List Byte) (d : Dev) : Dev :=
  match d.side.running with
  | some q => ({ d with side := { d.side with running := none } } : Dev).sbAnswer q result payload
  | none => d

/-- Step 9, when every scrub has ended. -/
def Dev.releaseDone (d : Dev) : Dev :=
  if d.comp.releasing && d.roods.all (fun x => x.scrubbing.isEmpty) then d.uncompose.finishRunning sbSuccess [] else d

/-! ## The recovery state (R50, R473, Table 16.4) -/

/-- An object of a rood under another number. -/
def inRood (n : Nat) : DramObj → DramObj
  | .frame _ p => .frame n p
  | .line _ s => .line n s
  | .entry _ s => .entry n s
  | .weight _ s c => .weight n s c
  | .adapter _ s => .adapter n s
  | .trie _ => .trie n
  | .automaton _ s => .automaton n s
  | .vecFrame _ i f => .vecFrame n i f
  | .staging _ o => .staging n o
  | .extentTable _ => .extentTable n

/-- A kept rood under a new number: every ROOD_ register but LINEAGE, its MSI-X table, its HDM decoder, its rings and its log are at
reset (R50); objects that are being rebuilt go on being rebuilt (R544). -/
def Rood.renumber (n : Nat) (host : List Host.Cell) (x : Rood) : Rood :=
  { x with
    num := n, regs := { RoodRegs.reset with lineage := x.regs.lineage }, irings := List.replicate 8 IRing.reset
    crings := List.replicate 8 CRing.reset, hdm := Hdm.reset, tally := { x.tally with rood := n }
    rebuilding := x.rebuilding.map (inRood n), host := host }

/-- The rood that a layout entry keeps (R50). -/
def Dev.keptRood (e : LayoutEntry) (d : Dev) : Option Rood := d.roods.find? (fun x => x.firstSg == e.firstSg && x.width == e.width)

/-- Rood `i` of a new layout: kept with its share changed, or formed and scrubbed. No step runs before its first interval (R542). -/
def Dev.layoutRood (i : Nat) (e : LayoutEntry) (d : Dev) : Rood :=
  match d.keptRood e with
  | some x =>
    let y := if x.num = i then x else x.renumber i (((d.rood? i).map (fun z => z.host)).getD [])
    { y with flashShare := e.flashShare, powered := false }
  | none => d.scrubRood i e

/-- Roods of the layout in force that the new one reshapes or removes. -/
def Dev.droppedRoods (l : List LayoutEntry) (d : Dev) : List Rood :=
  d.roods.filter (fun x => !l.any (fun e => x.firstSg == e.firstSg && x.width == e.width))

/-- Tiles of the stack groups that a new layout takes up start at 0.65 V, those that it leaves out are off (R45). -/
def Dev.repower (was : List Nat) (d : Dev) : Dev :=
  ({ d with energy := d.energy.restartTiles (sgTiles (d.layoutSgs.filter (fun g => !was.contains g))) } : Dev).powerDown

/-- A new layout takes effect (R45, R50, R436, R509). -/
def Dev.applyLayout (now : W64) (l : List LayoutEntry) (d : Dev) : Dev :=
  let was := d.layoutSgs
  let gone := d.droppedRoods l
  let fresh := l.filter (fun e => (d.keptRood e).isNone)
  let roods := l.zipIdx.map (fun p => d.layoutRood p.2 p.1)
  let d := gone.foldl (fun d x => d.freePlaces x) d
  let d : Dev := { d with
    layout := l, pendingLayout := none, roods := roods
    comp := { d.comp with closed := if d.comp.composed then closeTallies d.comp.closed (gone.map (fun x => x.takeTally now)) else d.comp.closed }
    energy := { d.energy with bank := List.replicate 24 0, active := List.replicate 24 false } }
  let d := d.repower was
  if d.comp.composed then
    (roods.filter (fun x => fresh.any (fun e => e.firstSg == x.firstSg))).foldl (fun d x => d.openRood now x) d
  else d

/-- Roods that are not fenced read their intake rings again, once they are scrubbed (R473). -/
def Dev.resumeIntake (d : Dev) : Dev :=
  { d with roods := d.roods.map (fun x => { x with intakeOn := d.roodsLive && x.scrubbing.isEmpty && !x.fenced }) }

/-- EXIT_RECOVERY. -/
def Dev.sbExit (now : W64) (q : SbReq) (d : Dev) : Dev :=
  let d := match d.pendingLayout with
    | some l => d.applyLayout now l
    | none => d
  let d := ({ d with integ := { d.integ with recovery := false } } : Dev).resumeIntake
  (d.sbAnswer q sbSuccess (leBytes 1 d.layout.length ++ zeros 7)).settleAll now

/-- The entries of a SET_LAYOUT. -/
def layoutEntries (p : List Byte) : List (List Byte) := (List.range (u8At 0 p)).map (fun i => cut (8 + 16 * i) 16 p)

/-- The number of the first check of R49 that a request's layout fails. -/
def Dev.sbLayoutCheck (q : SbReq) (d : Dev) : Nat :=
  layoutCheck d.licensedRoods d.flash.limit (u8At 0 q.payload) (layoutEntries q.payload)

/-- SET_LAYOUT: REFUSED with the failed check, which is logged, or pending (R50, R84, Table 19.18). -/
def Dev.sbLayout (now : W64) (q : SbReq) (d : Dev) : Dev :=
  let c := d.sbLayoutCheck q
  if c ≠ 0 then (d.log (LogEntry.plain now 0x04 6 c)).sbAnswer q sbRefused (leBytes 1 c ++ zeros 3)
  else ({ d with pendingLayout := some ((layoutEntries q.payload).map readLayoutEntry) } : Dev).sbAnswer q sbSuccess []

/-- SET_CAP (R433, R435). -/
def Dev.sbCap (q : SbReq) (d : Dev) : Dev :=
  ({ d with energy := { d.energy with sidebandCap := u16At 0 q.payload } } : Dev).sbAnswer q sbSuccess
    (leBytes 2 d.energy.inForce ++ zeros 2)

/-- A stack group's failed mark is cleared; its rood is no longer fenced when no failed mark is left in it (R470, R473). -/
def Dev.clearFailed (g : Nat) (d : Dev) : Dev :=
  let d : Dev := { d with integ := { d.integ with sgFailed := bvClear g d.integ.sgFailed } }
  let d := (d.mapDefects (fun m => { m with sgFailed := bvClear g m.sgFailed })).recordDefects
  { d with roods := d.roods.map (fun x =>
      if x.sgs.contains g then { x with fenced := x.fenced && d.anyFailed x.sgs } else x) }

/-- ASSAY_SG. -/
def Dev.sbAssay (pass : Bool) (q : SbReq) (d : Dev) : Dev :=
  (if pass then d.clearFailed (u8At 0 q.payload) else d).sbAnswer q sbSuccess (leBytes 1 (bit (!pass)) ++ zeros 3)

/-! ## Control requests (R83, R84) -/

/-- The device cannot act on the request now (Table 2.14, Table 17.10, R482). -/
def Dev.sbIsBusy (q : SbReq) (d : Dev) : Bool :=
  match q.code with
  | 0x01 => !d.ready || d.integ.recovery || decide (d.comp.serialLimit ≤ d.comp.nextSerial)
  | 0x02 => !d.ready
  | 0x03 => !d.ready
  | _ => false

/-- The request does not fit the state of the device (Table 2.14). -/
def Dev.sbWrongState (q : SbReq) (d : Dev) : Bool :=
  match q.code with
  | 0x01 => d.comp.composed
  | 0x03 => d.integ.recovery
  | 0x04 => !d.integ.recovery
  | 0x05 => !d.integ.recovery
  | 0x08 => !d.integ.recovery || !d.integ.sgFailed.getLsbD (u8At 0 q.payload)
  | _ => false

/-- The request that stays in progress. -/
def Dev.sbRunning (q : SbReq) (d : Dev) : Dev := { d with side := { d.side with running := some q } }

/-- Runs a control request whose turn has come; `pass` is the outcome of the assays of an ASSAY_SG. -/
def Dev.sbRun (now : W64) (pass : Bool) (q : SbReq) (d : Dev) : Dev :=
  if !q.formatOk then (if q.capOutside then d.capRefused now (u16At 0 q.payload) else d).sbAnswer q sbFormat []
  else if d.sbIsBusy q then d.sbAnswer q sbBusy []
  else if d.sbWrongState q then d.sbAnswer q sbState []
  else
    match q.code with
    | 0x01 => d.sbCompose now q
    | 0x02 => if d.comp.composed then (d.sbRunning q).release now else d.sbAnswer q sbSuccess []
    | 0x03 => (d.sbRunning q).drainRoods now
    | 0x04 => d.sbExit now q
    | 0x05 => d.sbLayout now q
    | 0x06 => d.sbCap q
    | _ => d.sbAssay pass q

/-- A control request arrives: it runs, or waits behind others and is judged at its turn (R84). A COMPOSE that arrives while a RELEASE
runs is refused with BUSY as it arrives, as R80 has it; R84 would let it wait and then compose (DESIGN CHOICE, log entry 82). -/
def Dev.sbArrive (now : W64) (code : Nat) (pass : Bool) (msg : List Byte) (d : Dev) : Dev :=
  if !d.side.usable then d
  else
    match sbRequest msg with
    | none => d
    | some q =>
      if q.code ≠ code then d
      else if q.code = 0x01 ∧ q.formatOk ∧ d.comp.releasing then d.sbAnswer q sbBusy []
      else if d.side.running.isSome || !d.side.queue.isEmpty then { d with side := { d.side with queue := d.side.queue ++ [q] } }
      else d.sbRun now pass q

/-- COMPOSE (R79, Table 2.11). -/
def execCompose (msg : List Byte) (s : State) : Result := .next (onDev (fun t d => d.sbArrive t 0x01 false msg) s)
/-- RELEASE (R79, R80, Table 2.11). -/
def execRelease (msg : List Byte) (s : State) : Result := .next (onDev (fun t d => d.sbArrive t 0x02 false msg) s)
/-- ENTER_RECOVERY (R473, Table 16.4). -/
def execEnterRecovery (msg : List Byte) (s : State) : Result := .next (onDev (fun t d => d.sbArrive t 0x03 false msg) s)
/-- EXIT_RECOVERY (R473, R50). -/
def execExitRecovery (msg : List Byte) (s : State) : Result := .next (onDev (fun t d => d.sbArrive t 0x04 false msg) s)
/-- SET_LAYOUT (R49, R50). -/
def execSetLayout (msg : List Byte) (s : State) : Result := .next (onDev (fun t d => d.sbArrive t 0x05 false msg) s)
/-- SET_CAP (R433). -/
def execSetCap (msg : List Byte) (s : State) : Result := .next (onDev (fun t d => d.sbArrive t 0x06 false msg) s)
/-- ASSAY_SG (R473, Table 2.13). -/
def execAssaySg (msg : List Byte) (pass : Bool) (s : State) : Result := .next (onDev (fun t d => d.sbArrive t 0x08 pass msg) s)

/-- SIDEBAND_QUEUE_ADVANCE (R84): the next waiting request runs once the one before it has been answered. -/
def execSidebandQueueAdvance (assayPass : Bool) (s : State) : Result :=
  .next (onDev (fun t d =>
    match d.side.running, d.side.queue with
    | none, q :: rest => ({ d with side := { d.side with queue := rest } } : Dev).sbRun t assayPass q
    | _, _ => d) s)

/-- RECOVERY_DRAIN_DONE (Table 16.4 step 5): every completion record is visible; DEV_FAULT.RECOVERY is set and the request is
answered. While work is left, or a reset runs, the drain goes on. -/
def execRecoveryDrainDone (s : State) : Result :=
  .next (onDev (fun t d =>
    if !d.entering then d
    else
      let d := d.drainRoods t
      if d.integ.resets.isEmpty && d.roods.all Rood.drained then
        ({ d with integ := { d.integ with recovery := true } } : Dev).finishRunning sbSuccess []
      else d) s)

/-- A sideband RESET answers every request that is still open with BUSY: the one that runs, those that wait, and those of
Table 18.6 (R84). -/
def Dev.sbCutShort (d : Dev) : Dev :=
  (d.side.running.toList ++ d.side.queue ++ d.snap.waiting).foldl (fun d q => d.sbAnswer q sbBusy [])
    { d with side := { d.side with running := none, queue := [] }, snap := { d.snap with waiting := [] } }

/-- RESET (Table 2.13): answered, and then the whole-device reset begins. -/
def Dev.sbReset (now : W64) (msg : List Byte) (e : StartEnv) (d : Dev) : Dev :=
  if !d.side.usable then d
  else
    match sbRequest msg with
    | none => d
    | some q =>
      if q.code ≠ 0x07 then d
      else if !q.formatOk then d.sbAnswer q sbFormat []
      else if !d.resettable then d.sbAnswer q sbBusy []
      else (d.sbCutShort.sbAnswer q sbSuccess []).resetNow now none none false e

def execReset (msg : List Byte) (env : StartEnv) (s : State) : Result := .next (onDev (fun t d => d.sbReset t msg env) s)

/-! ## Scrubs (R77, R78) -/

/-- A stack group's read-back ends in its rood. -/
def Rood.scrubbed (g : Nat) (x : Rood) : Rood := { x with scrubbing := x.scrubbing.filter (fun h => h != g) }

/-- A rood that has been scrubbed begins to read its intake slots, when the device takes work and is not in recovery. -/
def Rood.openIntake (live : Bool) (g : Nat) (x : Rood) : Rood :=
  if live && x.sgs.contains g && x.scrubbing.isEmpty then { x with intakeOn := true } else x

/-- Where no recovery state stands or is being entered, a rood that has been scrubbed reads its rings (R473). -/
def Dev.intakeAllowed (d : Dev) : Bool := d.roodsLive && !d.integ.recovery && !d.entering

/-- SCRUB_DONE (R77, R78): a stack group that does not read back zero is marked failed and reported over the sideband; a release
is complete when every scrub has ended. -/
def Dev.scrubEnd (now : W64) (g : Nat) (clean : Bool) (env : StartEnv) (d : Dev) : Dev :=
  if !d.roods.any (fun x => x.scrubbing.contains g) then d
  else
    let d : Dev := { d with roods := d.roods.map (fun x => x.scrubbed g) }
    let d := if clean then d
      else
        let d := d.event now { cls := 0x0F, unit := .stack g, layer := 0, obj := none, corrected := false, env := env }
        { d with out := d.out ++ [.sgFailed g] }
    let d : Dev := { d with roods := d.roods.map (fun x => x.openIntake d.intakeAllowed g) }
    d.releaseDone.settleAll now

def execScrubDone (sg : Nat) (v : Verdict) (s : State) : Result :=
  .next (onDev (fun t d => d.scrubEnd t sg v.pass v.env) s)

/-! ## Counters, telemetry and tallies (R512, Tables 18.6, 18.7) -/

/-- The telemetry block. -/
def Telemetry.bytes (t : Telemetry) : List Byte :=
  padTo 64 (leBytes 8 t.time.toNat ++ leBytes 2 t.cap ++ leBytes 2 t.sidebandCap ++ leBytes 2 t.power ++ zeros 2 ++
    leBytes 2 (fieldOf 16 t.tileTemp) ++ leBytes 2 (fieldOf 16 t.stackTemp) ++ leBytes 4 t.fault ++ leBytes 4 t.boot ++
    leBytes 4 t.sgFailed ++ leBytes 4 (bit t.composed ||| bit t.thermAlert <<< 1))

/-- One piece of an object: TOTAL, zero, and at most 4,096 bytes from OFFSET (R512). -/
def sbPiece (obj : List Byte) (off : Nat) : List Byte := leBytes 4 obj.length ++ zeros 4 ++ cut off 4096 obj

/-- The tallies of the composition, unsigned; none while the device is not composed or a release has sealed them. -/
def Dev.tallyBytes (now : W64) (d : Dev) : List Byte :=
  if d.comp.composed && !d.comp.releasing then (d.tallies now).flatMap Tally.bytes else []

/-- A request of Table 18.6 arrives: answered beside a running control request. -/
def Dev.sbRead (code : Nat) (msg : List Byte) (f : SbReq → Dev → Dev) (d : Dev) : Dev :=
  if !d.side.usable then d
  else
    match sbRequest msg with
    | none => d
    | some q => if q.code ≠ code then d else if !q.formatOk then d.sbAnswer q sbFormat [] else f q d

/-- GET_TELEMETRY. -/
def execGetTelemetry (msg : List Byte) (s : State) : Result :=
  .next (onDev (fun _ d => d.sbRead 0x10 msg (fun q d => d.sbAnswer q sbSuccess d.energy.telemetry.bytes)) s)

/-- DEV_SNAPSHOT: it starts a device snapshot or joins the one that runs, and is answered at its end (R505). -/
def execDevSnapshot (msg : List Byte) (s : State) : Result :=
  .next (onDev (fun _ d => d.sbRead 0x11 msg (fun q d =>
    if !d.ready then d.sbAnswer q sbBusy []
    else let d := d.startSnap; { d with snap := { d.snap with waiting := d.snap.waiting ++ [q] } })) s)

/-- GET_TALLIES. -/
def execGetTallies (msg : List Byte) (s : State) : Result :=
  .next (onDev (fun t d => d.sbRead 0x12 msg (fun q d =>
    d.sbAnswer q sbSuccess (sbPiece (d.tallyBytes t) (u32At 0 q.payload)))) s)

/-- GET_SEALED (R511). -/
def execGetSealed (msg : List Byte) (s : State) : Result :=
  .next (onDev (fun _ d => d.sbRead 0x13 msg (fun q d =>
    d.sbAnswer q sbSuccess (sbPiece d.comp.sealedTally (u32At 0 q.payload)))) s)

/-- The marker has reached every unit: NUMBER advances, the shadows are replaced, and waiting requests are answered (R505, R507). -/
def Dev.endSnap (d : Dev) : Dev :=
  if !d.snap.busy then d
  else
    let n := snapNext d.snap.number
    d.snap.waiting.foldl (fun d q => d.sbAnswer q sbSuccess (leBytes 4 n ++ zeros 4 ++ d.snap.shadows.flatMap (leBytes 8)))
      { d with snap := { number := n, busy := false, latched := d.snap.latched, shadows := d.snap.latched, waiting := [] } }

/-- DEV_SNAPSHOT_DONE. -/
def execDevSnapshotDone (s : State) : Result := .next (onDev (fun _ d => d.endSnap) s)

/-- SIDEBAND_UNSUPPORTED (R83, R512): a CODE of neither table. -/
def execSidebandUnsupported (msg : List Byte) (s : State) : Result :=
  .next (onDev (fun _ d =>
    if !d.side.usable then d
    else
      match sbRequest msg with
      | none => d
      | some q =>
        if (1 ≤ q.code ∧ q.code ≤ 8) ∨ (0x10 ≤ q.code ∧ q.code ≤ 0x13) then d else d.sbAnswer q sbUnsupported []) s)

end Sys2Proof.Machine
end

