-- ==== Sys2Proof/Machine/Registers.lean ====
section
/-! DEFINITION. The register windows (chapter 19, R15 to R20): where each register lies, what a read returns, what a write does,
and the accesses that are logged. -/
namespace Sys2Proof.Machine
open Sys2Proof

/-! ## Address maps (Tables 19.1, 19.2) -/

/-- Base and bytes of the device register at an offset; none where the offset is unassigned. -/
def devRegAt (off : Nat) : Option (Nat × Nat) :=
  if off < 0x20 then some (off / 8 * 8, 8)
  else if off < 0x34 then some (off / 4 * 4, 4)
  else if 0x38 ≤ off ∧ off < 0x48 then some (off / 8 * 8, 8)
  else if 0x1000 ≤ off ∧ off < 0x1080 then some (off / 8 * 8, 8)
  else if 0x1080 ≤ off ∧ off < 0x1084 then some (0x1080, 4)
  else if 0x2000 ≤ off ∧ off < 0x2008 then some (0x2000, 8)
  else if 0x2100 ≤ off ∧ off < 0x2200 then some (off / 8 * 8, 8)
  else if 0x10000 ≤ off ∧ off < 0x12000 then some (off / 8 * 8, 8)
  else none

/-- Base and bytes of the register of a rood window at an offset. -/
def roodRegAt (off : Nat) : Option (Nat × Nat) :=
  if off < 4 then some (0, 4)
  else if 8 ≤ off ∧ off < 0x18 then some (off / 8 * 8, 8)
  else if 0x18 ≤ off ∧ off < 0x1C then some (0x18, 4)
  else if 0x100 ≤ off ∧ off < 0x108 then some (0x100, 8)
  else if 0x200 ≤ off ∧ off < 0x300 then
    (if off % 32 < 16 then some (off / 8 * 8, 8) else if off % 32 < 28 then some (off / 4 * 4, 4) else none)
  else if 0x400 ≤ off ∧ off < 0x40C then some (off / 4 * 4, 4)
  else if 0x410 ≤ off ∧ off < 0x414 then some (0x410, 4)
  else if 0x500 ≤ off ∧ off < 0x518 then some (off / 8 * 8, 8)
  else if 0x600 ≤ off ∧ off < 0x608 then some (0x600, 8)
  else if 0x608 ≤ off ∧ off < 0x60C then some (0x608, 4)
  else if 0x700 ≤ off ∧ off < 0x720 then some (off / 8 * 8, 8)
  else if 0x2000 ≤ off ∧ off < 0x2800 then some (off / 8 * 8, 8)
  else none

/-- The MSI-X table of `n` entries and its pending bit array, to which R18 does not apply (R514). -/
def inMsix (n off : Nat) : Bool :=
  (decide (0xF000 ≤ off) && decide (off < 0xF000 + 16 * n)) || (decide (0xF800 ≤ off) && decide (off < 0xF808))

/-- What an access meets: 0 a register, 1 a wrong width or alignment, 2 an unassigned offset (R18, R513). -/
def accessCause (at' : Nat → Option (Nat × Nat)) (off width : Nat) : Nat :=
  if (width = 4 ∨ width = 8) ∧ off % width = 0 then
    match at' off with
    | some (b, w) => if b = off ∧ w = width then 0 else 1
    | none => 2
  else 1

/-! ## Access entries (Table 19.18, kind 0x03) -/

def accessEntry (now : W64) (off width cause : Nat) (isWrite : Bool) : LogEntry :=
  LogEntry.plain now 0x03 (width % 256 * 256 ||| bit isWrite <<< 7 ||| cause) off

def Dev.logAccess (now : W64) (off width cause : Nat) (isWrite : Bool) (d : Dev) : Dev :=
  let d := d.log (accessEntry now off width cause isWrite)
  { d with regs := { d.regs with misaccess := true } }

def Rood.logAccess (now : W64) (off width cause : Nat) (isWrite : Bool) (x : Rood) : Rood :=
  ({ x with regs := { x.regs with misaccess := true } } : Rood).logOwn { accessEntry now off width cause isWrite with rood := x.num }

/-! ## Reads -/

/-- A 64-bit word of a log: entry `p / 32`, word `p / 8 % 4` (Table 19.16). -/
def Log.word (size p : Nat) (l : Log) : Nat :=
  match l.at size (p / 32) with
  | none => 0
  | some e => match p / 8 % 4 with
    | 0 => e.seq
    | 1 => e.time.toNat
    | 2 => e.word2
    | _ => e.word3

/-- A 32-bit word of an MSI-X table or of its pending bit array. -/
def msixWord (off : Nat) (l : List MsixEntry) : Nat :=
  if 0xF800 ≤ off then (l.zipIdx.map (fun p => bit p.1.pend * 2 ^ p.2)).sum / 2 ^ (8 * (off - 0xF800)) % 2 ^ 32
  else
    match l[(off - 0xF000) / 16]? with
    | none => 0
    | some e => match (off - 0xF000) / 4 % 4 with
      | 0 => e.addr.toNat % 2 ^ 32
      | 1 => e.addr.toNat / 2 ^ 32
      | 2 => e.data.toNat
      | _ => bit e.masked

def Dev.variant (d : Dev) : Nat := (d.boot.licence.map (fun l => l.variant)).getD 0

/-- DEV_FEATURES (Table 19.5). -/
def Dev.featuresReg (d : Dev) : Nat :=
  (d.flash.limit / 10 ^ 12) <<< 48 ||| (match d.boot.licence with
    | some l => l.indexes <<< 32 ||| bit l.retrieval <<< 25 ||| bit l.vector <<< 24 ||| l.chainPorts.toNat <<< 16 ||| l.roods <<< 8
    | none => 0)

/-- DEV_STATUS (Table 19.7). -/
def Dev.statusReg (d : Dev) : Nat :=
  bit d.cxlReady <<< 31 ||| bit d.roodsLive <<< 30 ||| bit d.energy.thermAlert <<< 29 ||| bit d.regs.misaccess <<< 28 |||
    d.regs.linkRate <<< 24 ||| d.regs.linkWidth <<< 16

/-- DEV_CHAIN_STATUS (Table 19.8): zero on SLT-2400-S, and before S04 has told the variant (R4). -/
def Dev.chainReg (d : Dev) : Nat :=
  if d.variant ≠ 2 then 0
  else d.number <<< 24 ||| d.boot.defects.portFailed.toNat <<< 16 |||
    (d.chain.ports.zipIdx.map (fun p => bit p.1.up * 2 ^ p.2)).sum <<< 8 ||| d.licensedPorts.toNat

/-- DEV_LAYOUT_r (Table 19.9). -/
def Dev.layoutReg (r : Nat) (d : Dev) : Nat :=
  match d.layout[r]? with
  | some e => 1 <<< 63 ||| e.width <<< 40 ||| e.firstSg <<< 32 ||| e.flashShare
  | none => 0

/-- What a read of the device register based at an offset returns. -/
def Dev.readReg (time : W64) (off : Nat) (d : Dev) : Nat :=
  if off = 0x00 then 0x2400 <<< 48 ||| d.variant <<< 40 ||| 0xB0
  else if off = 0x08 then d.boot.fuses.devSerial.toNat
  else if off = 0x10 then d.featuresReg
  else if off = 0x18 then time.toNat
  else if off = 0x20 then d.statusReg
  else if off = 0x24 then d.bootReg
  else if off = 0x28 then d.faultReg
  else if off = 0x2C then d.integ.sgFailed.toNat
  else if off = 0x30 then d.energy.inForce <<< 16 ||| d.energy.hostCap
  else if off = 0x38 then d.chainReg
  else if off = 0x40 then d.regs.log.head
  else if 0x1000 ≤ off ∧ off < 0x1080 then d.layoutReg ((off - 0x1000) / 8)
  else if off = 0x1080 then bit d.pendingLayout.isSome <<< 31 ||| d.layout.length
  else if off = 0x2000 then d.snap.number <<< 32 ||| bit d.snap.busy <<< 30
  else if 0x2100 ≤ off ∧ off < 0x2200 then d.snap.shadows.getD ((off - 0x2100) / 8) 0
  else if 0x10000 ≤ off ∧ off < 0x12000 then d.regs.log.word 256 (off - 0x10000)
  else 0

/-- ROOD_STATUS (Table 19.11). -/
def Rood.statusReg (x : Rood) : Nat :=
  bit x.fenced <<< 31 ||| bit x.obj.openLoad.isSome <<< 30 ||| bit x.ckpBusy <<< 29 ||| bit x.regs.logEvent <<< 3 |||
    bit x.regs.addrFault <<< 2 ||| bit x.regs.misaccess <<< 1 ||| bit x.regs.configErr

/-- ROOD_INFO (Table 19.12). -/
def Rood.infoReg (x : Rood) : Nat := x.slotCap <<< 32 ||| x.firstSg <<< 16 ||| x.width <<< 8 ||| x.num

def IRing.ctl (i : IRing) : Nat := bit i.enable <<< 31 ||| bit i.active <<< 30 ||| i.sizeLog2 <<< 16 ||| i.cring <<< 8

def CRing.ctl (c : CRing) : Nat := bit c.enable <<< 31 ||| bit c.active <<< 30 ||| c.sizeLog2 <<< 16 ||| c.vector <<< 8

/-- A register of ring pair `n`, by its place `o` in the 32 bytes (Table 19.2). -/
def Rood.ringReg (n o : Nat) (x : Rood) : Nat :=
  match x.irings[n]?, x.crings[n]? with
  | some i, some c =>
    if o = 0x00 then i.base.toNat
    else if o = 0x08 then c.base.toNat
    else if o = 0x10 then i.ctl
    else if o = 0x14 then c.ctl
    else if o = 0x18 then c.timeUs <<< 16 ||| c.count
    else 0
  | _, _ => 0

/-- What a read of the rood register based at an offset returns. -/
def Rood.readReg (off : Nat) (x : Rood) : Nat :=
  if off = 0x00 then x.statusReg
  else if off = 0x08 then x.infoReg
  else if off = 0x10 then x.regs.log.head
  else if off = 0x18 then bit x.regs.evtEnable <<< 31 ||| x.regs.evtVector
  else if off = 0x100 then x.regs.idxBase.toNat
  else if 0x200 ≤ off ∧ off < 0x300 then x.ringReg ((off - 0x200) / 32) (off % 32)
  else if 0x400 ≤ off ∧ off < 0x40C then x.regs.latLimit.getD ((off - 0x400) / 4) 0
  else if off = 0x410 then x.regs.frameFloor
  else if off = 0x500 then x.regs.ckpCtl.toNat
  else if off = 0x508 then x.regs.ckpPeers.toNat
  else if off = 0x510 then x.regs.lineage.toNat
  else if off = 0x600 then x.regs.chainAccept.toNat
  else if off = 0x608 then x.regs.mirror.toNat
  else if 0x700 ≤ off ∧ off < 0x720 then (x.regs.vecShard.getD ((off - 0x700) / 8) 0).toNat
  else if 0x2000 ≤ off ∧ off < 0x2800 then x.regs.log.word 64 (off - 0x2000)
  else 0

/-- What a read of a window of function `fn` returns: zero for a rood window while the device is not composed (R79, R515), and
for an access of wrong width or alignment or to an unassigned offset (R18, R513). -/
def State.readReg (fn off width : Nat) (s : State) : Nat :=
  if fn = 0 then
    (if !s.dev.windowOpen then 0
     else if inMsix 8 off then msixWord off s.dev.regs.msix
     else if accessCause devRegAt off width = 0 then s.dev.readReg s.clock.time off else 0)
  else
    match s.dev.rood? (fn - 1) with
    | some x =>
      if !s.dev.roodsLive then 0
      else if inMsix 32 off then msixWord off x.regs.msix
      else if accessCause roodRegAt off width = 0 then x.readReg off else 0
    | none => 0

/-! ## Writes of MSI-X tables (R514) -/

/-- One 32-bit word of a table; the Mask bit is judged apart, and the pending bit array takes no write. -/
def msixPut (off v : Nat) (l : List MsixEntry) : List MsixEntry :=
  if 0xF800 ≤ off then l
  else modIdx ((off - 0xF000) / 16) (fun e => match (off - 0xF000) / 4 % 4 with
    | 0 => { e with addr := BitVec.ofNat 64 (e.addr.toNat / 2 ^ 32 * 2 ^ 32 + v % 2 ^ 32) }
    | 1 => { e with addr := BitVec.ofNat 64 (v % 2 ^ 32 * 2 ^ 32 + e.addr.toNat % 2 ^ 32) }
    | 2 => { e with data := BitVec.ofNat 32 v }
    | _ => if bitAt v 0 then { e with masked := true } else e) l

/-- The word clears the Mask bit of its entry. -/
def msixUnmasks (off v : Nat) : Bool := decide (off < 0xF800) && (off - 0xF000) / 4 % 4 == 3 && !bitAt v 0

def Dev.msixWrite (off v : Nat) (d : Dev) : Dev :=
  let d : Dev := { d with regs := { d.regs with msix := msixPut off v d.regs.msix } }
  if msixUnmasks off v then d.pfUnmask ((off - 0xF000) / 16) else d

def Rood.msixWrite (off v : Nat) (x : Rood) : Rood :=
  let x : Rood := { x with regs := { x.regs with msix := msixPut off v x.regs.msix } }
  if msixUnmasks off v then x.unmask ((off - 0xF000) / 16) else x

/-! ## Writes of registers (R15, R16) -/

/-- DEV_FAULT: REF_LOSS and QUAD_RESET are RW1C. -/
def Dev.writeFault (v : Nat) (d : Dev) : Dev :=
  { d with integ := { d.integ with
      refLoss := d.integ.refLoss && !bitAt v 28, quadReset := d.integ.quadReset &&& ~~~(BitVec.ofNat 4 (bitsOf v 24 4)) } }

/-- A write of a device register; a write of an RO register does nothing. -/
def Dev.writeReg (now : W64) (off v : Nat) (d : Dev) : Dev :=
  if off = 0x20 then { d with regs := { d.regs with misaccess := d.regs.misaccess && !bitAt v 28 } }
  else if off = 0x28 then d.writeFault v
  else if off = 0x30 then d.setHostCap now (v % 65536)
  else if off = 0x2000 then (if bitAt v 31 && d.ready then d.startSnap else d)
  else d

/-- ROOD_STATUS: bits [3:0] are RW1C. -/
def Rood.writeStatus (v : Nat) (x : Rood) : Rood :=
  { x with regs := { x.regs with
      logEvent := x.regs.logEvent && !bitAt v 3, addrFault := x.regs.addrFault && !bitAt v 2
      misaccess := x.regs.misaccess && !bitAt v 1, configErr := x.regs.configErr && !bitAt v 0 } }

/-- ROOD_IRING_BASE_n: ignored while ENABLE or ACTIVE is 1 (R131, R519). -/
def Rood.writeIringBase (now : W64) (n v : Nat) (x : Rood) : Rood :=
  if (x.irings[n]?).any IRing.active then x.configEntry now 2 (0x200 + 32 * n)
  else { x with irings := modIdx n (fun i => { i with base := BitVec.ofNat 64 (v / 4096 * 4096) }) x.irings }

/-- ROOD_CRING_BASE_n. -/
def Rood.writeCringBase (now : W64) (n v : Nat) (x : Rood) : Rood :=
  if (x.crings[n]?).any CRing.active then x.configEntry now 2 (0x208 + 32 * n)
  else x.modCring n (fun c => { c with base := BitVec.ofNat 64 (v / 4096 * 4096) })

/-- A register of ring pair `n`. -/
def Rood.writeRing (now : W64) (n o v : Nat) (x : Rood) : Rood :=
  if o = 0x00 then x.writeIringBase now n v
  else if o = 0x08 then x.writeCringBase now n v
  else if o = 0x10 then x.writeIringCtl now n v true
  else if o = 0x14 then x.writeCringCtl now n v true
  else if o = 0x18 then (x.modCring n (fun c => { c with timeUs := bitsOf v 16 16, count := v % 65536 })).moderate now n false
  else x

/-- A register whose fields are the bits of a mask. -/
def maskedReg (mask v : Nat) : W64 := BitVec.ofNat 64 (v &&& mask)

/-- Fields of Tables 13.12, 13.13, 14.6 and 12.9. -/
def chainAcceptMask : Nat := 0xFFFFFFFF80000700
def mirrorMask : Nat := 0x80000F1F
def ckpPeersMask : Nat := 0x00001F0FFFFFFFFF
def vecShardMask : Nat := 0x0000000FFFFFFFFF

/-- A write of a rood register; on SLT-2400-S the chain registers ignore it (R4, R397, R398, R420). -/
def Rood.writeReg (ctx : Ctx) (off v : Nat) (x : Rood) : Rood :=
  let s := ctx.dev.variant == 1
  if off = 0x00 then x.writeStatus v
  else if off = 0x18 then { x with regs := { x.regs with evtEnable := bitAt v 31, evtVector := v % 32 } }
  else if off = 0x100 then x.writeIdxBase ctx.time v
  else if 0x200 ≤ off ∧ off < 0x300 then x.writeRing ctx.time ((off - 0x200) / 32) (off % 32) v
  else if 0x400 ≤ off ∧ off < 0x40C then { x with regs := { x.regs with latLimit := x.regs.latLimit.set ((off - 0x400) / 4) (v % 2 ^ 32) } }
  else if off = 0x410 then { x with regs := { x.regs with frameFloor := v % 2 ^ 26 } }
  else if off = 0x500 then x.writeCkpCtl ctx.time (BitVec.ofNat 64 v)
  else if off = 0x508 then (if s then x else { x with regs := { x.regs with ckpPeers := maskedReg ckpPeersMask v } })
  else if off = 0x510 then x.writeLineage (BitVec.ofNat 64 v)
  else if off = 0x600 then (if s then x else { x with regs := { x.regs with chainAccept := maskedReg chainAcceptMask v } })
  else if off = 0x608 then (if s then x else { x with regs := { x.regs with mirror := BitVec.ofNat 32 (v &&& mirrorMask) } })
  else if 0x700 ≤ off ∧ off < 0x720 then
    { x with regs := { x.regs with vecShard := x.regs.vecShard.set ((off - 0x700) / 8) (maskedReg vecShardMask v) } }
  else x

/-! ## The rows -/

/-- Bytes of the windows (R51, Table 19.1). -/
def devWindow : Nat := 2 ^ 26
def roodWindow : Nat := 2 ^ 20

/-- 32-bit words of a table access, each with its offset. -/
def words (off width v : Nat) : List (Nat × Nat) := if width = 8 then [(off, v % 2 ^ 32), (off + 4, v / 2 ^ 32)] else [(off, v % 2 ^ 32)]

/-- A 32- or 64-bit aligned access that R514 permits to a table. -/
def msixAccess (n off width : Nat) : Bool := inMsix n off && (width == 4 || width == 8) && off % width == 0

/-- A write of the device window. -/
def Dev.writeWindow (now : W64) (off width v : Nat) (d : Dev) : Dev :=
  if !d.windowOpen || decide (devWindow ≤ off) then d
  else if inMsix 8 off then (if msixAccess 8 off width then (words off width v).foldl (fun d p => d.msixWrite p.1 p.2) d else d)
  else
    match accessCause devRegAt off width with
    | 0 => d.writeReg now off v
    | c => d.logAccess now off width c true

/-- A write of a rood window. -/
def Rood.writeWindow (ctx : Ctx) (off width v : Nat) (x : Rood) : Rood :=
  if roodWindow ≤ off then x
  else if inMsix 32 off then (if msixAccess 32 off width then (words off width v).foldl (fun x p => x.msixWrite p.1 p.2) x else x)
  else
    match accessCause roodRegAt off width with
    | 0 => x.writeReg ctx off v
    | c => x.logAccess ctx.time off width c true

/-- REGISTER_WRITE (R15, R513): function 0 is the physical function, r + 1 that of rood r. While the device is not composed the
rood windows ignore it without an entry (R515). -/
def execRegisterWrite (fn off width : Nat) (value : W64) (s : State) : Result :=
  let v := value.toNat % 2 ^ (8 * width)
  .next (onDev (fun t d =>
    if fn = 0 then d.writeWindow t off width v
    else if d.roodsLive then d.atRood (fn - 1) (fun ctx x => x.writeWindow ctx off width v) t else d) s)

/-- REGISTER_MISACCESS (R18): no effect but its entry. -/
def execRegisterMisaccess (fn off width : Nat) (isWrite : Bool) (s : State) : Result :=
  .next (onDev (fun t d =>
    if fn = 0 then
      (if d.windowOpen && decide (off < devWindow) && !inMsix 8 off && accessCause devRegAt off width == 1 then
        d.logAccess t off width 1 isWrite
       else d)
    else if d.roodsLive && decide (off < roodWindow) && !inMsix 32 off && accessCause roodRegAt off width == 1 then
      d.atRood (fn - 1) (fun _ x => x.logAccess t off width 1 isWrite) t
    else d) s)

end Sys2Proof.Machine
end

