-- ==== Sys2Proof/Machine/Spdm.lean ====
section
/-! DEFINITION. Attestation over SPDM: measurements, certificates, rood reports, and the challenge of a chain neighbour (R58, R59,
R66 to R72, R385); the training set that follows a start (R488, R489). A response stands without its version byte: response
code, two parameters, payload. What the manual leaves to the DMTF specification is named in log entry 45. -/
namespace Sys2Proof.Machine
open Sys2Proof

/-! ## Rood attestation reports (R69, R71, R72) -/

/-- The newest version of each list set; for one number the newest stands first. -/
def newestLists (l : List ListSet) : List ListSet :=
  l.foldl (fun acc s => if acc.any (fun t => t.num == s.num) then acc else acc ++ [s]) []

/-- One loaded object: KIND, SLOT, LOAD_SEQ, LOAD_TIME and DIGEST (Table 2.9). -/
structure ReportItem where
  kind : Nat
  slot : Nat
  seq : Nat
  time : W64
  digest : List Byte
  deriving DecidableEq, Repr

def ReportItem.bytes (i : ReportItem) : List Byte := objectEntry i.kind i.slot i.seq i.time i.digest

def imageItem (kind : Nat) (p : Nat × Image) : ReportItem := ⟨kind, p.1, p.2.loadSeq, p.2.loadTime, p.2.digest⟩

/-- Every object loaded (R69). -/
def Objects.items (o : Objects) : List ReportItem :=
  o.models.map (imageItem 1) ++ o.adapters.map (imageItem 2) ++
    (o.tables.take 1).map (fun t => ⟨3, 0, t.loadSeq, t.loadTime, t.digest⟩) ++
    (newestLists o.lists).map (fun s => ⟨4, s.num, s.loadSeq, s.loadTime, s.digest⟩)

/-- In ascending LOAD_SEQ. -/
def sortItems (l : List ReportItem) : List ReportItem := l.mergeSort (fun a b => decide (a.seq ≤ b.seq))

/-- Table 2.8 and the entries that follow it. COMPOSITION is the serial of the composition, and outside one that of the last, 0 before
any: R69 gives a report no other (DESIGN CHOICE, log entry 83). -/
def Rood.report (ctx : Ctx) (x : Rood) : List Byte :=
  let items := sortItems x.obj.items
  leBytes 4 0x54524152 ++ leBytes 2 1 ++ leBytes 2 items.length ++ [byteOf x.num, byteOf x.width, byteOf x.firstSg, 0] ++
    leBytes 4 x.obj.loadSeq ++ leBytes 8 ctx.dev.comp.serial ++ leBytes 8 ctx.time.toNat ++ zeros 8 ++ x.shape ctx ++
    padTo 48 x.obj.eventChain ++ zeros 8 ++ items.flatMap ReportItem.bytes

/-! ## Measurements (R67, Table 2.7) -/

/-- Value of an index from 1 to 8. -/
def Dev.measured (now : W64) (i : Nat) (d : Dev) : List Byte :=
  match i with
  | 5 => [byteOf d.layout.length] ++ d.layout.flatMap LayoutEntry.bytes
  | 6 => sha384 d.boot.defects.bytes
  | 7 => if d.comp.composed then leBytes 8 d.comp.serial ++ padTo 32 d.comp.tenant else zeros 40
  | 8 => leBytes 8 now.toNat
  | _ => d.boot.measurement i

/-- The endpoint gives the report of rood `r` (Table 2.6). -/
def endpointSees (r : Nat) (ep : Endpoint) : Bool :=
  match ep with
  | .vf q => q == r
  | _ => true

/-- The neighbour on a port asks for certificates and sends CHALLENGE; everything else lies outside its set (Table 13.7). -/
def onPort : Endpoint → Bool
  | .port _ => true
  | _ => false

/-- The index lies in the endpoint's set: a virtual function may not ask for the report of another rood (R66, Table 2.6). -/
def endpointAsks (ep : Endpoint) (i : Nat) : Bool :=
  !onPort ep && (!(decide (0x10 ≤ i) && decide (i ≤ 0x1F)) || endpointSees (i - 0x10) ep)

/-- Value of an index; none where the endpoint has no such measurement, and for a rood that does not exist. -/
def Dev.measurementAt (now : W64) (ep : Endpoint) (i : Nat) (d : Dev) : Option (List Byte) :=
  if 1 ≤ i ∧ i ≤ 8 then some (d.measured now i)
  else if 0x10 ≤ i ∧ i ≤ 0x1F ∧ endpointSees (i - 0x10) ep then
    (d.rood? (i - 0x10)).map (fun x => x.report ⟨now, d⟩)
  else none

/-- A measurement block of the DMTF measurement specification. -/
def measurementBlock (i : Nat) (v : List Byte) : List Byte :=
  [byteOf i, 1] ++ leBytes 2 (v.length + 3) ++ [byteOf (Config.measurementType i)] ++ leBytes 2 v.length ++ v

/-- Blocks of the indexes given, those without a value left out. -/
def Dev.blocks (now : W64) (ep : Endpoint) (l : List Nat) (d : Dev) : List (List Byte) :=
  l.filterMap (fun i => (d.measurementAt now ep i).map (measurementBlock i))

/-- Every index of Table 2.7. -/
def allIndexes : List Nat := (List.range 8).map (· + 1) ++ (List.range 16).map (· + 0x10)

/-- MEASUREMENTS: index 0 asks for the number of indexes, 0xFF for all of them. -/
def Dev.measurementsBody (now : W64) (ep : Endpoint) (i : Nat) (d : Dev) : List Byte :=
  let every := d.blocks now ep allIndexes
  let bs := if i = 0 then [] else if i = 0xFF then every else d.blocks now ep [i]
  [0x60, byteOf (if i = 0 then every.length else 0), 0, byteOf bs.length] ++ leBytes 3 bs.flatten.length ++ bs.flatten

/-! ## Endpoints (R66, R499) -/

/-- A port's link is in training in a device that starts or is READY. -/
def Dev.inLinkUp (p : Nat) (d : Dev) : Bool :=
  (d.chain.ports[p]?).any (fun q => q.training) && (match d.boot.phase with
    | .ready => true
    | .starting _ => true
    | _ => false)

/-- The endpoint can be reached at all (Table 17.10): a virtual function only while its rood exists, a port during its link-up. -/
def Dev.spdmReaches (ep : Endpoint) (d : Dev) : Bool :=
  match ep with
  | .port p => d.inLinkUp p
  | .pf => d.windowOpen
  | .vf r => d.windowOpen && d.roodsLive && (d.rood? r).isSome
  | .side => d.side.usable

def Dev.answerSpdm (ep : Endpoint) (body signature : List Byte) (d : Dev) : Dev :=
  { d with out := d.out ++ [.spdm ep body signature] }

/-- ERROR with a code: UnsupportedRequest 0x07, Busy 0x03, InvalidRequest 0x01. -/
def Dev.spdmError (ep : Endpoint) (code : Nat) (d : Dev) : Dev := d.answerSpdm ep [0x7F, byteOf code, 0] []

/-- SPDM is open: from the end of S13 on, to a neighbour from the start of link-up at S12 (R484, R499, Table 13.7). -/
def Dev.spdmOpen (ep : Endpoint) (d : Dev) : Bool :=
  match ep, d.boot.phase with
  | .port _, _ => true
  | _, .ready => true
  | _, .starting n => decide (13 ≤ n)
  | _, _ => false

/-- Answers where SPDM is usable, Busy before (R499). -/
def Dev.spdm (ep : Endpoint) (f : Dev → Dev) (d : Dev) : Dev :=
  if !d.spdmReaches ep then d else if !d.spdmOpen ep then d.spdmError ep 0x03 else f d

/-- SPDM 1.2 or 1.3. -/
def spdmVersionOk (v : Nat) : Bool := v == 0x12 || v == 0x13

/-- MEASUREMENTS with its signature by the AK over the transcript (R67). -/
def Dev.measurements (now : W64) (ep : Endpoint) (version i : Nat) (signed : Bool) (nonce : List Byte) (d : Dev) : Dev :=
  let body := d.measurementsBody now ep i
  let req := [byteOf version, 0xE0, byteOf (bit signed), byteOf i] ++ nonce
  let s := d.akSign (sha384 (Config.spdmTranscript req body))
  s.2.answerSpdm ep body s.1

/-- GET_MEASUREMENTS (R67). -/
def execGetMeasurements (ep : Endpoint) (version index : Nat) (signed : Bool) (nonce : List Byte) (s : State) : Result :=
  .next (onDev (fun t d => d.spdm ep (fun d =>
    if spdmVersionOk version && endpointAsks ep index then d.measurements t ep version index signed nonce else d.spdmError ep 0x07)) s)

/-- The certificate that the DIK signs for a public key (R59). -/
def Dev.certificate (scalar : Nat) (d : Dev) : List Byte :=
  Config.certificate (sec1 (ecPublic d.boot.dik)) (sec1 (ecPublic scalar))

/-- The chain of slot 0: root, device authority, DIK, AK (R59), behind the length, the reserved field and the root hash with which
SPDM begins a chain (log entry 45). -/
def Dev.certChain (d : Dev) : List Byte :=
  let body := Config.rootHash d.boot.fuses.certs ++ d.boot.fuses.certs ++ d.certificate d.boot.ak
  leBytes 2 (4 + body.length) ++ zeros 2 ++ body

/-- A portion of the chain of slot 0: its length and how much remains; a slot the endpoint does not have is unsupported (Table 2.6). -/
def Dev.certPortion (ep : Endpoint) (slot off len : Nat) (d : Dev) : Dev :=
  let chain := d.certChain
  let part := (chain.drop off).take len
  if slot ≠ 0 then d.spdmError ep 0x07
  else if chain.length ≤ off then d.spdmError ep 0x01
  else d.answerSpdm ep ([0x02, 0, 0] ++ leBytes 2 part.length ++ leBytes 2 (chain.length - off - part.length) ++ part) []

/-- GET_CERTIFICATE (R59, R66). -/
def execGetCertificate (ep : Endpoint) (slot offset len : Nat) (s : State) : Result :=
  .next (onDev (fun _ d => d.spdm ep (fun d => d.certPortion ep slot offset len)) s)

/-- R68: the request that the DXK certificate answers. -/
def vendorAsksDxk (standard : Nat) (vendorId payload : List Byte) : Bool :=
  standard == 3 && vendorId == leBytes 2 0x1D7A && payload == [1]

/-- VENDOR_DEFINED_RESPONSE with the DXK certificate, unsigned (R68). -/
def Dev.dxkAnswer (ep : Endpoint) (d : Dev) : Dev :=
  let c := d.certificate d.boot.dxk
  d.answerSpdm ep ([0x7E, 0, 0] ++ leBytes 2 3 ++ [2] ++ leBytes 2 0x1D7A ++ leBytes 2 c.length ++ c) []

/-- VENDOR_DEFINED_REQUEST (R68). -/
def execVendorDefinedRequest (ep : Endpoint) (standard : Nat) (vendorId payload : List Byte) (s : State) : Result :=
  .next (onDev (fun _ d => d.spdm ep (fun d =>
    if !onPort ep && vendorAsksDxk standard vendorId payload then d.dxkAnswer ep else d.spdmError ep 0x07)) s)

/-- Request codes that an endpoint answers by rows of their own or as SPDM's own set-up: GET_DIGESTS, GET_CERTIFICATE,
GET_MEASUREMENTS, GET_CAPABILITIES, NEGOTIATE_ALGORITHMS, GET_VERSION, VENDOR_DEFINED_REQUEST. -/
def spdmKnown (code : Nat) : Bool := [0x81, 0x82, 0xE0, 0xE1, 0xE3, 0x84, 0xFE].contains code

/-- SPDM_UNSUPPORTED_REQUEST (R66). -/
def execSpdmUnsupportedRequest (ep : Endpoint) (code : Nat) (s : State) : Result :=
  .next (onDev (fun _ d => if spdmKnown code then d else d.spdm ep (fun d => d.spdmError ep 0x07)) s)

/-! ## The challenge of a neighbour (R385, Table 13.7 step 3) -/

/-- The summary of measurements 1 to 4. -/
def Dev.measurementSummary (d : Dev) : List Byte :=
  sha384 ((List.range 4).flatMap (fun i => let v := d.boot.measurement (i + 1); measurementBlock (i + 1) v))

/-- CHALLENGE: answered with the AK while the port is in its link-up. -/
def Dev.answerChallenge (p : Nat) (nonce : List Byte) (d : Dev) : Dev :=
  if !d.inLinkUp p then d
  else
    let s := d.akSign (sha384 (Config.spdmTranscript nonce d.measurementSummary))
    { s.2 with out := s.2.out ++ [.proof p s.1] }

def execChallenge (port : Nat) (nonce : List Byte) (s : State) : Result := .next (onDev (fun _ d => d.answerChallenge port nonce) s)

/-! ## Training sets (R488, R489) -/

/-- The set that TRAIN_SET does not name is written; once it is durable, a boot record names it. A set that a cut left half
written is none. -/
def Boot.writeTraining (durable : Bool) (b : Boot) : Boot :=
  let crc := Config.trainCrc b.trainWrites
  let set := if durable then some { serial := b.fuses.devSerial, stepping := 0xB0, crc := crc : TrainSet } else none
  let toB := (b.record.map (fun r => r.trainSet)).getD 0 == 1
  let b : Boot := { b with nor := if toB then { b.nor with trainB := set } else { b.nor with trainA := set } }
  let b := { b with trainWrites := b.trainWrites + 1 }
  if durable then
    { b.writeRecord (fun r => { r with trainSet := if toB then 2 else 1, trainCrc := crc }) with trainedInFull := false }
  else b

/-- TRAINING_SET_WRITE: after READY, only when an interface was trained in full or a setting moved (R489). -/
def Dev.trainingWrite (moved durable : Bool) (d : Dev) : Dev :=
  if d.ready && (d.boot.trainedInFull || moved) then { d with boot := d.boot.writeTraining durable } else d

def execTrainingSetWrite (moved durable : Bool) (s : State) : Result := .next (onDev (fun _ d => d.trainingWrite moved durable) s)

end Sys2Proof.Machine
end

