-- ==== Sys2Proof/Machine/Dispatch.lean ====
section
/-! DEFINITION. One arm for each command of the table, each a direct call of its meaning. -/
namespace Sys2Proof.Machine
open Sys2Proof

/-- The effect of a command on everything but the queue. -/
def exec (i : Instr) (s : State) : Host.Outcome State Fault Refusal :=
  match i with
  | .pwrgdAssert env => Sys2Proof.Machine.execPwrgdAssert env s
  | .pwrgdDeassert => Sys2Proof.Machine.execPwrgdDeassert s
  | .warmRstAssert => Sys2Proof.Machine.execWarmRstAssert s
  | .warmRstDeassert env => Sys2Proof.Machine.execWarmRstDeassert env s
  | .railFault rail env => Sys2Proof.Machine.execRailFault rail env s
  | .refClockEdge => Sys2Proof.Machine.execRefClockEdge s
  | .refClockLoss => Sys2Proof.Machine.execRefClockLoss s
  | .refClockReturn env => Sys2Proof.Machine.execRefClockReturn env s
  | .thermtripSensorTrip quad => Sys2Proof.Machine.execThermtripSensorTrip quad s
  | .cxlLinkDown env => Sys2Proof.Machine.execCxlLinkDown env s
  | .cxlLinkTrained rate width => Sys2Proof.Machine.execCxlLinkTrained rate width s
  | .budgetInterval m => Sys2Proof.Machine.execBudgetInterval m s
  | .intakeLineSnoop r n slot line => Sys2Proof.Machine.execIntakeLineSnoop r n slot line s
  | .hostIndexLineSnoop r n cons => Sys2Proof.Machine.execHostIndexLineSnoop r n cons s
  | .iringConsWrite r n => Sys2Proof.Machine.execIringConsWrite r n s
  | .cringModTimeout r n => Sys2Proof.Machine.execCringModTimeout r n s
  | .msixUnmask fn vec => Sys2Proof.Machine.execMsixUnmask fn vec s
  | .atsInvalidation r c ok => Sys2Proof.Machine.execAtsInvalidation r c ok s
  | .bulkWindowWrite r a bytes poison => Sys2Proof.Machine.execBulkWindowWrite r a bytes poison s
  | .sesOpen r c => Sys2Proof.Machine.execSesOpen r c s
  | .sesAppend r c b => Sys2Proof.Machine.execSesAppend r c b s
  | .sesGenerate r c b => Sys2Proof.Machine.execSesGenerate r c b s
  | .sesResume r c b => Sys2Proof.Machine.execSesResume r c b s
  | .sesFork r c => Sys2Proof.Machine.execSesFork r c s
  | .sesPark r c => Sys2Proof.Machine.execSesPark r c s
  | .sesRevive r c => Sys2Proof.Machine.execSesRevive r c s
  | .sesClose r c => Sys2Proof.Machine.execSesClose r c s
  | .sesQuery r c b => Sys2Proof.Machine.execSesQuery r c b s
  | .sesMigrate r c => Sys2Proof.Machine.execSesMigrate r c s
  | .sesCancel r c => Sys2Proof.Machine.execSesCancel r c s
  | .mdlLoad r c => Sys2Proof.Machine.execMdlLoad r c s
  | .mdlLoadTakeEffect r => Sys2Proof.Machine.execMdlLoadTakeEffect r s
  | .mdlUnload r c => Sys2Proof.Machine.execMdlUnload r c s
  | .mdlUnloadTakeEffect r => Sys2Proof.Machine.execMdlUnloadTakeEffect r s
  | .tokLoad r c => Sys2Proof.Machine.execTokLoad r c s
  | .lstSet r c => Sys2Proof.Machine.execLstSet r c s
  | .tokenizerTableRelease r => Sys2Proof.Machine.execTokenizerTableRelease r s
  | .listSetVersionRelease r set => Sys2Proof.Machine.execListSetVersionRelease r set s
  | .loadQueueAdvance r => Sys2Proof.Machine.execLoadQueueAdvance r s
  | .sessionCommandDequeue r c b => Sys2Proof.Machine.execSessionCommandDequeue r c b s
  | .vecCreate r c => Sys2Proof.Machine.execVecCreate r c s
  | .vecInsert r c => Sys2Proof.Machine.execVecInsert r c s
  | .vecDelete r c => Sys2Proof.Machine.execVecDelete r c s
  | .vecQuery r c outOk => Sys2Proof.Machine.execVecQuery r c outOk s
  | .vecSweepDone r c => Sys2Proof.Machine.execVecSweepDone r c s
  | .vecCompact r c => Sys2Proof.Machine.execVecCompact r c s
  | .vecDrop r c => Sys2Proof.Machine.execVecDrop r c s
  | .vecSerialAdvance r index => Sys2Proof.Machine.execVecSerialAdvance r index s
  | .ckpTake r c => Sys2Proof.Machine.execCkpTake r c s
  | .ckpTakeDone r media => Sys2Proof.Machine.execCkpTakeDone r media s
  | .ckpRestore r c => Sys2Proof.Machine.execCkpRestore r c s
  | .ckpRestoreApply r => Sys2Proof.Machine.execCkpRestoreApply r s
  | .ckpIntervalTimer r => Sys2Proof.Machine.execCkpIntervalTimer r s
  | .ckpQueueAdvance r => Sys2Proof.Machine.execCkpQueueAdvance r s
  | .cntSnapshot r c out => Sys2Proof.Machine.execCntSnapshot r c out s
  | .nop r c => Sys2Proof.Machine.execNop r c s
  | .textConversionDone r c input => Sys2Proof.Machine.execTextConversionDone r c input s
  | .revivalDone r slot w => Sys2Proof.Machine.execRevivalDone r slot w s
  | .bushelDurable r slot media => Sys2Proof.Machine.execBushelDurable r slot media s
  | .stepEnd r model crew e => Sys2Proof.Machine.execStepEnd r model crew e s
  | .watchdogFire h => Sys2Proof.Machine.execWatchdogFire h s
  | .tileResetDone tile pass => Sys2Proof.Machine.execTileResetDone tile pass s
  | .sgResetDone sg pass => Sys2Proof.Machine.execSgResetDone sg pass s
  | .roodResetDone r => Sys2Proof.Machine.execRoodResetDone r s
  | .quadrantResetDone quad => Sys2Proof.Machine.execQuadrantResetDone quad s
  | .structureRebuildDone obj => Sys2Proof.Machine.execStructureRebuildDone obj s
  | .assayDone unit v => Sys2Proof.Machine.execAssayDone unit v s
  | .idleGapAssay unit => Sys2Proof.Machine.execIdleGapAssay unit s
  | .assayLate unit => Sys2Proof.Machine.execAssayLate unit s
  | .dramPatrolRead sg corrected hits => Sys2Proof.Machine.execDramPatrolRead sg corrected hits s
  | .flashRelocate chan lun b => Sys2Proof.Machine.execFlashRelocate chan lun b s
  | .extentErase chan lun b => Sys2Proof.Machine.execExtentErase chan lun b s
  | .lunRebuildDone chan ce lun => Sys2Proof.Machine.execLunRebuildDone chan ce lun s
  | .trainingSetWrite moved durable => Sys2Proof.Machine.execTrainingSetWrite moved durable s
  | .compose msg => Sys2Proof.Machine.execCompose msg s
  | .release msg => Sys2Proof.Machine.execRelease msg s
  | .enterRecovery msg => Sys2Proof.Machine.execEnterRecovery msg s
  | .recoveryDrainDone => Sys2Proof.Machine.execRecoveryDrainDone s
  | .exitRecovery msg => Sys2Proof.Machine.execExitRecovery msg s
  | .setLayout msg => Sys2Proof.Machine.execSetLayout msg s
  | .setCap msg => Sys2Proof.Machine.execSetCap msg s
  | .reset msg env => Sys2Proof.Machine.execReset msg env s
  | .assaySg msg pass => Sys2Proof.Machine.execAssaySg msg pass s
  | .sidebandQueueAdvance assayPass => Sys2Proof.Machine.execSidebandQueueAdvance assayPass s
  | .sidebandUnsupported msg => Sys2Proof.Machine.execSidebandUnsupported msg s
  | .getTelemetry msg => Sys2Proof.Machine.execGetTelemetry msg s
  | .devSnapshot msg => Sys2Proof.Machine.execDevSnapshot msg s
  | .getTallies msg => Sys2Proof.Machine.execGetTallies msg s
  | .getSealed msg => Sys2Proof.Machine.execGetSealed msg s
  | .devSnapshotDone => Sys2Proof.Machine.execDevSnapshotDone s
  | .getMeasurements ep version index signed nonce => Sys2Proof.Machine.execGetMeasurements ep version index signed nonce s
  | .getCertificate ep slot offset len => Sys2Proof.Machine.execGetCertificate ep slot offset len s
  | .vendorDefinedRequest ep standard vendorId payload => Sys2Proof.Machine.execVendorDefinedRequest ep standard vendorId payload s
  | .spdmUnsupportedRequest ep code => Sys2Proof.Machine.execSpdmUnsupportedRequest ep code s
  | .hostCapWrite value => Sys2Proof.Machine.execHostCapWrite value s
  | .devSnapStart value => Sys2Proof.Machine.execDevSnapStart value s
  | .iringCtlWrite r n value xlatOk => Sys2Proof.Machine.execIringCtlWrite r n value xlatOk s
  | .cringCtlWrite r n value xlatOk => Sys2Proof.Machine.execCringCtlWrite r n value xlatOk s
  | .idxBaseWrite r value => Sys2Proof.Machine.execIdxBaseWrite r value s
  | .ckpCtlWrite r value => Sys2Proof.Machine.execCkpCtlWrite r value s
  | .lineageWrite r value => Sys2Proof.Machine.execLineageWrite r value s
  | .registerWrite fn off width value => Sys2Proof.Machine.execRegisterWrite fn off width value s
  | .registerMisaccess fn off width isWrite => Sys2Proof.Machine.execRegisterMisaccess fn off width isWrite s
  | .chainLinkRetry port => Sys2Proof.Machine.execChainLinkRetry port s
  | .chainLinkLoss port => Sys2Proof.Machine.execChainLinkLoss port s
  | .chainForward m => Sys2Proof.Machine.execChainForward m s
  | .chainUnknownType m => Sys2Proof.Machine.execChainUnknownType m s
  | .hello m => Sys2Proof.Machine.execHello m s
  | .ack m => Sys2Proof.Machine.execAck m s
  | .ackSendTimer peer => Sys2Proof.Machine.execAckSendTimer peer s
  | .chainResendTimer peer => Sys2Proof.Machine.execChainResendTimer peer s
  | .chainEpochTimeout peer => Sys2Proof.Machine.execChainEpochTimeout peer s
  | .offer o => Sys2Proof.Machine.execOffer o s
  | .accept m => Sys2Proof.Machine.execAccept m s
  | .refuse m => Sys2Proof.Machine.execRefuse m s
  | .list m => Sys2Proof.Machine.execList m s
  | .frame m => Sys2Proof.Machine.execFrame m s
  | .done m => Sys2Proof.Machine.execDone m s
  | .abort m => Sys2Proof.Machine.execAbort m s
  | .vecReq m => Sys2Proof.Machine.execVecReq m s
  | .vecList m => Sys2Proof.Machine.execVecList m s
  | .vecRefuse m => Sys2Proof.Machine.execVecRefuse m s
  | .vecPeerTimeout r c => Sys2Proof.Machine.execVecPeerTimeout r c s
  | .shardOffer m => Sys2Proof.Machine.execShardOffer m s
  | .shardAccept m => Sys2Proof.Machine.execShardAccept m s
  | .shardRefuse m => Sys2Proof.Machine.execShardRefuse m s
  | .shardData m => Sys2Proof.Machine.execShardData m s
  | .shardDone m => Sys2Proof.Machine.execShardDone m s
  | .invReq m => Sys2Proof.Machine.execInvReq m s
  | .invList m => Sys2Proof.Machine.execInvList m s
  | .shardGet g => Sys2Proof.Machine.execShardGet g s
  | .shardHdr m => Sys2Proof.Machine.execShardHdr m s
  | .shardNone m => Sys2Proof.Machine.execShardNone m s
  | .ckpPeerTimeout r => Sys2Proof.Machine.execCkpPeerTimeout r s
  | .vauxValid => Sys2Proof.Machine.execVauxValid s
  | .thermtripRelease env => Sys2Proof.Machine.execThermtripRelease env s
  | .chainLinkUp port nb => Sys2Proof.Machine.execChainLinkUp port nb s
  | .challenge port nonce => Sys2Proof.Machine.execChallenge port nonce s
  | .scrubDone sg v => Sys2Proof.Machine.execScrubDone sg v s
  | .frameZeroed r => Sys2Proof.Machine.execFrameZeroed r s
  | .vecMutationDone r index damaged => Sys2Proof.Machine.execVecMutationDone r index damaged s
  | .tileRegulatorFault f => Sys2Proof.Machine.execTileRegulatorFault f s
  | .testAccessInstruction op => Sys2Proof.Machine.execTestAccessInstruction op s

end Sys2Proof.Machine
end

