-- ==== Sys2Proof/Machine/Terms.lean ====
section
/-! DEFINITION. The terms in which claims about commands are stated: where a rood stands before and after a command, an accepted
command, a record in host memory, a message in its turn. No command's meaning uses them. -/
namespace Sys2Proof.Machine
open Sys2Proof

/-- Rood `r` takes part in work, and stands as `x`. -/
def Works (s : State) (r : Nat) (x : Rood) : Prop := s.dev.roodsLive = true ∧ s.dev.rood? r = some x

/-- Rood `r` stands as `y` after a command, but for the requests that have left it and its highest count of frames. -/
def Becomes (t : State) (r : Nat) (x y : Rood) : Prop :=
  t.dev.rood? r = some { y with
    num := x.num, firstSg := x.firstSg, width := x.width, fx := []
    tally := { y.tally with peakFrames := max y.tally.peakFrames y.kv.frames.length } }

/-- What the work of a rood may read in a state. -/
def ctxOf (s : State) : Ctx := ⟨s.clock.time, s.dev⟩

/-- The same where the NAND has worn as `w` says (R383, R384). -/
def ctxWorn (w : Wear) (s : State) : Ctx := ⟨s.clock.time, { s.dev with flash := s.dev.flash.wear w }⟩

/-- Command `c` of the rood is accepted, not judged yet, and has an opcode. -/
def Accepted (x : Rood) (c op : Nat) (d : Cmd) : Prop := x.cmd? c = some d ∧ d.opcode = op ∧ d.stage = .accepted

/-- The next expected slot of the ring holds no posted descriptor and no poison (R136, R540). -/
def IRing.idle (i : IRing) : Bool :=
  match lookKey (i.next % 2 ^ i.sizeLog2) i.lines with
  | none => true
  | some .poison => false
  | some (.clean raw) => dField raw 0 8 1 != 1 - (i.next >>> i.sizeLog2) % 2

/-- No enabled intake ring of the rood has a slot posted that is not accepted yet. -/
def NonePosted (x : Rood) : Prop := ∀ i ∈ x.irings, i.enable = true → i.idle = true

/-- Address of the next record of a completion ring (R133). -/
def CRing.place (q : CRing) : Nat := q.base.toNat + 32 * (q.prod % 2 ^ q.sizeLog2)

/-- A record of the command can be written at once: its ring is enabled, and no other slot can be accepted meanwhile. -/
def CanReport (x : Rood) (d : Cmd) (q : CRing) : Prop :=
  x.quiet = false ∧ x.cacheOff = false ∧ NonePosted x ∧ x.crings[d.cring]? = some q ∧ q.enable = true

/-- The command is gone, its 32-byte record stands at the ring's next place, and every other byte of host memory is as before
(R133, R150). -/
def Reported (x y : Rood) (d : Cmd) (q : CRing) (r : CRec) : Prop :=
  y.cmds = x.cmds.filter (fun c => c.id != d.id) ∧
    (∀ i, i < 32 → memRead y.host (q.place + i) = (r.bytes q.prod q.sizeLog2).getD i 0) ∧
    ∀ a, a < q.place ∨ q.place + 32 ≤ a → memRead y.host a = memRead x.host a

/-- Only the host interface's part of the rood differs: its commands, rings, messages, logs, host memory and requests. -/
def HostSide (x y : Rood) : Prop :=
  y = { x with
    cmds := y.cmds, nextCmd := y.nextCmd, irings := y.irings, crings := y.crings, host := y.host, fx := y.fx
    regs := { x.regs with msix := y.regs.msix, log := y.regs.log, logEvent := y.regs.logEvent }
    tally := { x.tally with events := y.tally.events } }

/-- A write of a register of the rood is refused: CONFIG_ERR is set, a configuration entry of this code and offset is logged,
and only the host interface's part of the rood can differ (R519, Table 19.18). -/
def RefusedWrite (x y : Rood) (code off : Nat) : Prop :=
  y.regs.configErr = true ∧ y.regs.logEvent = true ∧ y.host = x.host ∧ y.cmds = x.cmds ∧
    (∃ k, y.regs.log = x.regs.log.write 64 k ∧ k.kind = 0x04 ∧ k.code = code ∧ k.detail = off ∧ k.rood = x.num) ∧
    HostSide { x with regs := { x.regs with configErr := true } } y

/-- A command ends: the rood stands as `z`, but for the host interface's part, and the command's record then stands in host
memory. -/
def Ends (t : State) (r : Nat) (x z : Rood) (d : Cmd) (q : CRing) (k : CRec) : Prop :=
  ∃ y, Becomes t r x y ∧ HostSide z y ∧ Reported z y d q k

/-- The row of a session command. -/
def sessionRow (op r c : Nat) (b : HostBufs) (w : Wear) : Instr :=
  match op with
  | 0x02 => .sesAppend r c b
  | 0x03 => .sesGenerate r c b
  | 0x04 => .sesResume r c b
  | 0x05 => .sesFork r c
  | 0x06 => .sesPark r c
  | 0x07 => .sesRevive r c
  | 0x08 => .sesClose r c
  | 0x09 => .sesQuery r c b
  | 0x0A => .sesMigrate r ⟨c, w⟩
  | 0x0B => .sesCancel r c
  | _ => .sesOpen r c

/-- The row of a command of the load queue (R241). -/
def loadRow (op r c : Nat) : Instr :=
  match op with
  | 0x10 => .mdlLoad r c
  | 0x11 => .mdlUnload r c
  | 0x12 => .tokLoad r c
  | _ => .lstSet r c

/-- The row of a vector command; `ok` says whether a result buffer translates. -/
def vecRow (op r c : Nat) (ok : Bool) : Instr :=
  match op with
  | 0x20 => .vecCreate r c
  | 0x21 => .vecInsert r c
  | 0x22 => .vecDelete r c
  | 0x23 => .vecQuery r c ok
  | 0x24 => .vecCompact r c
  | _ => .vecDrop r c

/-- Only VEC_QUERY names a result buffer. -/
def vecBuf (op : Nat) (ok : Bool) : Bool := op != 0x23 || ok

/-- The vector command neither waits nor runs any more. -/
def Rood.vecGone (d : Cmd) (x : Rood) : Rood :=
  { x with vecQueue := x.vecQueue.filter (fun i => i != d.id), vecOps := x.vecOps.filter (fun o => o.cmd != d.id) }

/-- A vector command that passes its first checks and whose turn it is. -/
def VecTurn (s : State) (x : Rood) (op c : Nat) (ok : Bool) (d : Cmd) : Prop :=
  Accepted x c op d ∧ x.vecCheck (ctxOf s) d (vecBuf op ok) = 0 ∧ x.vecWaits d = false

/-- The command's range of the bulk window reads clean, as these bytes. -/
def CleanBulk (x : Rood) (d : Cmd) (bytes : List Byte) : Prop :=
  d.bulkLen ≠ 0 ∧ bytes = memReadN x.staging d.bulkOff d.bulkLen ∧
    ∀ k ∈ touchedLines d.bulkOff d.bulkLen, lookKey k x.stagingBad = none

/-- What the host interface reads for a session command: nothing for one that names no buffer. -/
def bufsFor (op : Nat) (b : HostBufs) : HostBufs := if op ∈ [2, 3, 4, 9] then b else noBufs

/-- A session command is judged now, and passes checks 2 to 4 of Table 3.3. -/
def Passes (s : State) (x : Rood) (d : Cmd) (b : HostBufs) : Prop :=
  x.mustWait (ctxOf s) d = false ∧ x.preCheck (ctxOf s) d b (x.vocabOf d) = 0

/-- The command is judged in the session that its valid handle names. -/
def InSession (s : State) (x : Rood) (d : Cmd) (b : HostBufs) (slot : Nat) (e : Entry) : Prop :=
  Passes s x d b ∧ x.subject d = some (slot, e)

/-- The rood has had no budget interval yet, so that no step of it is composed (R542). -/
def StepsHeld (x : Rood) : Prop := x.powered = false

/-- No step of the rood is composed now: it has had no budget interval yet (R542), or a load, an unload or a restore, which no
sequence of it is, waits for its crews to stand between steps (R239, R240, R430). -/
def StepsWait (x : Rood) : Prop :=
  StepsHeld x ∨ ∃ c ∈ x.cmds, c.stage = .ready ∧ ∀ q ∈ x.seqs, q.cmd ≠ c.id ∧ q.cancel ≠ some c.id

/-- The device at large: time, pins, test port, queue, composition, layout, sideband, snapshot, marks and phase are as before. -/
def DeviceStays (s t : State) : Prop :=
  t.pending = s.pending ∧ t.clock = s.clock ∧ t.pins = s.pins ∧ t.tap = s.tap ∧ t.dev.comp = s.dev.comp ∧
    t.dev.layout = s.dev.layout ∧ t.dev.pendingLayout = s.dev.pendingLayout ∧ t.dev.side = s.dev.side ∧
    t.dev.integ = s.dev.integ ∧ t.dev.snap = s.dev.snap ∧ t.dev.boot.phase = s.dev.boot.phase

/-- A message of the chain that is the next of its pair, acknowledges nothing that is waiting, and has none held behind it. -/
def NextInTurn (s : State) (typ : Nat) (m : ChainMsg) : Prop :=
  m.typ = typ ∧ s.dev.hears m = true ∧ msgCrcOk m = true ∧ m.seq ≠ 0 ∧ (s.dev.pair m.src).rxOpen = true ∧
    (s.dev.pair m.src).rxEpoch = m.epoch ∧ seqAhead (s.dev.pair m.src).rxSeq m.seq = 1 ∧
    (s.dev.pair m.src).unacked.all (fun u => u.seq != m.ack) = true ∧ (s.dev.pair m.src).held = []

/-! ## Roods at rest, events and resets -/

/-- A rood that does no work: no command, sequence, step, move, query, checkpoint or arrival. -/
def Rood.Rests (x : Rood) : Prop :=
  StepsHeld x ∧ NonePosted x ∧ x.fx = [] ∧ x.cmds = [] ∧ x.seqs = [] ∧ x.moves = [] ∧ x.vecOps = [] ∧ x.vecQueue = [] ∧
    x.arrivals = [] ∧ x.ckp.run = none ∧ x.ckp.restore = none ∧ x.ckp.queue = [] ∧ ∀ k ∈ x.crews, k.step = none ∧ k.held = none

/-- The device is READY, every rood has a number of its own and rests, and no ENTER_RECOVERY runs. -/
def AtRest (s : State) : Prop :=
  s.dev.boot.phase = .ready ∧ s.dev.entering = false ∧ (s.dev.roods.map (fun x => x.num)).Nodup ∧ ∀ x ∈ s.dev.roods, x.Rests

/-- One entry for an event of this class and unit, with its reaction, is the newest of DEV_ERR_LOG (R476, Table 19.16). -/
def EventLogged (s t : State) (cls reaction : Nat) (u : UnitId) : Prop :=
  t.dev.regs.log.head = s.dev.regs.log.head + 1 ∧
    ∃ k, t.dev.regs.log.entries.head? = some k ∧ k.time = s.clock.time ∧ k.kind = 0x01 ∧ k.cls = cls ∧ k.code = 0 ∧
      k.reaction = reaction ∧ (k.unitKind, k.unit) = unitCode u

/-! ## The sideband -/

/-- The row of a control request that waits its turn; `pass` is the outcome of an ASSAY_SG. -/
def sideRow (code : Nat) (msg : List Byte) (pass : Bool) : Instr :=
  match code with
  | 0x01 => .compose msg
  | 0x02 => .release msg
  | 0x03 => .enterRecovery msg
  | 0x04 => .exitRecovery msg
  | 0x05 => .setLayout msg
  | 0x06 => .setCap msg
  | _ => .assaySg msg pass

/-- A message that the sideband takes as a request of this code. -/
def Asks (s : State) (msg : List Byte) (code : Nat) (q : SbReq) : Prop :=
  s.dev.side.usable = true ∧ sbRequest msg = some q ∧ q.code = code

/-- No control request runs or waits. -/
def SideFree (s : State) : Prop := s.dev.side.running = none ∧ s.dev.side.queue = []

/-- A control request in its turn and in its form. -/
def HasTurn (s : State) (msg : List Byte) (code : Nat) (q : SbReq) : Prop :=
  Asks s msg code q ∧ SideFree s ∧ q.formatOk = true

/-- The device answers the request, and nothing else happens. -/
def OnlyAnswers (s t : State) (q : SbReq) (result : Nat) (payload : List Byte) : Prop :=
  t = { s with dev := { s.dev with out := s.dev.out ++ [.sideband (sbResponse q.code q.inst result payload)] } }

/-- The request is answered, whatever else the device has sent. -/
def Answered (t : State) (q : SbReq) (result : Nat) (payload : List Byte) : Prop :=
  .sideband (sbResponse q.code q.inst result payload) ∈ t.dev.out

/-- A control request whose payload length differs from Table 2.13, or in which a byte or field that is reserved is not zero (R82). -/
def Misformed (q : SbReq) : Prop :=
  u8At 4 q.msg / 2 ≠ 0 ∨ u16At 6 q.msg ≠ 0 ∨
    match q.code with
    | 0x01 => q.payload.length ≠ 32
    | 0x05 => q.payload.length ≠ 8 + 16 * u8At 0 q.payload ∨ q.payload.length < 8 ∨ ∃ i, 1 ≤ i ∧ i < 8 ∧ q.payload.getD i 0 ≠ 0
    | 0x06 => q.payload.length ≠ 4 ∨ u16At 2 q.payload ≠ 0
    | 0x07 => q.payload.length ≠ 4 ∨ ∃ i, i < 4 ∧ q.payload.getD i 0 ≠ 0
    | 0x08 => q.payload.length ≠ 4 ∨ ∃ i, 1 ≤ i ∧ i < 4 ∧ q.payload.getD i 0 ≠ 0
    | _ => q.payload ≠ []

/-! ## SPDM and the chain -/

/-- The endpoint can be reached and SPDM is in use. -/
def SpdmOpen (s : State) (ep : Endpoint) : Prop := s.dev.spdmReaches ep = true ∧ s.dev.spdmOpen ep = true

/-- One SPDM response leaves, and nothing else happens. -/
def OnlyResponds (s t : State) (ep : Endpoint) (body signature : List Byte) : Prop :=
  t = { s with dev := { s.dev with out := s.dev.out ++ [.spdm ep body signature] } }

/-- A message for rood `x` of this device that is the next of its pair. -/
def Heard (s : State) (typ : Nat) (m : ChainMsg) (x : Rood) : Prop := NextInTurn s typ m ∧ Works s m.dstRood x

/-- The rood with the payload bytes of the message counted (Table 18.4). -/
def Rood.heard (m : ChainMsg) (x : Rood) : Rood :=
  { x with tally := { x.tally with chainBytesIn := x.tally.chainBytesIn + m.payload.length } }

/-- The rood with the payload bytes that it sends counted. -/
def Rood.sent (n : Nat) (x : Rood) : Rood := { x with tally := { x.tally with chainBytesOut := x.tally.chainBytesOut + n } }

/-- The message is applied: it is the last of its pair that has been. -/
def Applied (s t : State) (m : ChainMsg) : Prop :=
  (t.dev.pair m.src).rxSeq = m.seq ∧ (t.dev.pair m.src).rxEpoch = (s.dev.pair m.src).rxEpoch ∧ t.clock = s.clock ∧ t.pins = s.pins

/-- A message of this type, operation and payload for the peer's rood waits for its acknowledgement, if a route to the peer exists. -/
def Replied (s t : State) (m : ChainMsg) (typ : Nat) (payload : List Byte) : Prop :=
  s.dev.reaches m.src = true →
    ∃ k ∈ (t.dev.pair m.src).unacked, k.typ = typ ∧ k.srcRood = m.dstRood ∧ k.dstRood = m.srcRood ∧ k.op = m.op ∧
      k.payload = payload

/-! ## Power and resets -/

/-- What a device without power holds (R60, R499): no keys, no licence, no work, nothing from a peer, nothing of a reset. -/
def Unpowered (s : State) : Prop :=
  s.pins.pwrgd = false →
    s.dev.boot.phase = .off ∧ s.dev.boot.dik = 0 ∧ s.dev.boot.dxk = 0 ∧ s.dev.boot.ak = 0 ∧ s.dev.boot.licence = none ∧
    s.dev.integ.resets = [] ∧ s.dev.integ.recovery = false ∧ s.dev.side.running = none ∧ s.dev.side.queue = [] ∧
    s.dev.chain.pairs = [] ∧ (∀ x ∈ s.dev.roods, x.storageKey = 0 ∧ x.scrubbing = []) ∧ s.tap.driving = false

/-- Both limits of the package's power lie from 300 W to 1,100 W (R433). -/
def CapsLegal (s : State) : Prop :=
  300 ≤ s.dev.energy.sidebandCap ∧ s.dev.energy.sidebandCap ≤ 1100 ∧ 300 ≤ s.dev.energy.hostCap ∧ s.dev.energy.hostCap ≤ 1100

/-- What a whole-device reset leaves, whatever start follows it: every counter at zero (R500), snapshots numbered afresh (R505),
HOST_CAP at 1,100 W beside a kept sideband cap that is in force (R433, R435), no request of the sideband open (R84), no pending
layout, no link trained and no reset or recovery state; time and the test port go on (R36, R57). -/
def WasReset (s t : State) : Prop :=
  t.dev.counters = [] ∧ t.dev.snap = DevSnap.reset ∧ t.dev.energy.hostCap = 1100 ∧
    t.dev.energy.sidebandCap = s.dev.energy.sidebandCap ∧ t.dev.energy.inForce = s.dev.energy.sidebandCap ∧
    t.dev.side = { s.dev.side with running := none, queue := [] } ∧ t.dev.pendingLayout = none ∧ t.dev.regs.linkRate = 0 ∧
    t.dev.regs.linkWidth = 0 ∧ t.dev.chain.pairs = [] ∧ t.dev.integ.resets = [] ∧ t.dev.integ.recovery = false ∧
    t.dev.integ.refLoss = false ∧ t.dev.integ.quadReset = 0 ∧ t.clock = s.clock ∧ t.tap = s.tap ∧ t.pending = s.pending

/-! ## Commands of one rood -/

/-- The rood that a command acts in alone. -/
def roodOf : Instr → Option Nat
  | .intakeLineSnoop r _ _ _ | .hostIndexLineSnoop r _ _ | .iringConsWrite r _ | .cringModTimeout r _ | .atsInvalidation r _ _ => some r
  | .sesOpen r _ | .sesAppend r _ _ | .sesGenerate r _ _ | .sesResume r _ _ | .sesFork r _ | .sesPark r _ | .sesRevive r _ => some r
  | .sesClose r _ | .sesQuery r _ _ | .sesMigrate r _ | .sesCancel r _ | .sessionCommandDequeue r _ _ => some r
  | .textConversionDone r _ _ | .revivalDone r _ _ | .bushelDurable r _ _ => some r
  | .mdlLoad r _ | .mdlLoadTakeEffect r | .mdlUnload r _ | .mdlUnloadTakeEffect r | .tokLoad r _ | .lstSet r _ => some r
  | .tokenizerTableRelease r | .listSetVersionRelease r _ | .loadQueueAdvance r | .frameZeroed r | .nop r _ => some r
  | .vecCreate r _ | .vecInsert r _ | .vecDelete r _ | .vecQuery r _ _ | .vecSweepDone r _ | .vecCompact r _ | .vecDrop r _ => some r
  | .vecSerialAdvance r _ | .vecMutationDone r _ _ | .vecPeerTimeout r _ => some r
  | .ckpTake r _ | .ckpTakeDone r _ | .ckpRestore r _ | .ckpRestoreApply r | .ckpIntervalTimer r | .ckpQueueAdvance r => some r
  | .ckpPeerTimeout r | .iringCtlWrite r _ _ _ | .cringCtlWrite r _ _ _ | .idxBaseWrite r _ | .ckpCtlWrite r _ => some r
  | .lineageWrite r _ => some r
  | .structureRebuildDone o => some (objRood o)
  | _ => none

end Sys2Proof.Machine
end

