-- ==== Sys2Proof/WellFormed.lean ====
section
/-! DEFINITION. Well-formed commands: every unit number lies in the range that the manual gives its unit (Table 1.3, R46,
R129, Table 20.3). A command outside these ranges names a unit that does not exist. -/
namespace Sys2Proof

/-- The unit is one that Table 1.3 or Table 19.20 numbers. -/
def UnitId.wf : UnitId → Bool
  | .tile t => decide (t < 104)
  | .bank sg c => decide (sg < 24) && decide (c < 64)
  | .slice sg u => decide (sg < 24) && decide (u < 7)
  | .segment sg => decide (sg < 24)
  | .bridge b => decide (b < 4)
  | .stack sg => decide (sg < 24)
  | .chainPort p => decide (p < 8)
  | .flashChan f => decide (f < 16)
  | .rail k => decide (k < 5)
  | .hostIf => true
  | .governor => true
  | .secUnit => true
  | .cfgLoader => true
  | .sideband => true
  | .refClock => true
  | .pll q => decide (q < 4)

/-- A detected failure names a class of Table 16.1 and a unit that exists. -/
def Hit.wf (h : Hit) : Bool := decide (1 ≤ h.cls) && decide (h.cls ≤ 15) && h.unit.wf

/-- The fields of a message lie in the widths of Table 13.8. -/
def ChainMsg.wf (m : ChainMsg) : Bool :=
  decide (m.typ < 256) && decide (m.src < 32) && decide (m.dst < 32) && decide (m.srcRood < 16) &&
    decide (m.dstRood < 16) && decide (m.seq < 2 ^ 32) && decide (m.ack < 2 ^ 32) && decide (m.hops < 32) &&
    decide (m.payload.length ≤ 65544) && decide (m.op < 2 ^ 32)

/-- Rood numbers run from 0 to 15 (R46). -/
def roodOk (r : Nat) : Bool := decide (r < 16)

/-- The command names only units that exist. -/
def Instr.wf : Instr → Bool
  | .railFault rail _ => decide (rail < 5)
  | .thermtripSensorTrip quad => decide (quad < 4)
  | .quadrantResetDone quad => decide (quad < 4)
  | .intakeLineSnoop r n _ _ => roodOk r && decide (n < 8)
  | .hostIndexLineSnoop r n _ => roodOk r && decide (n < 8)
  | .iringConsWrite r n => roodOk r && decide (n < 8)
  | .cringModTimeout r n => roodOk r && decide (n < 8)
  | .iringCtlWrite r n _ _ => roodOk r && decide (n < 8)
  | .cringCtlWrite r n _ _ => roodOk r && decide (n < 8)
  | .msixUnmask fn vec => decide (fn ≤ 16) && decide (vec < if fn = 0 then 8 else 32)
  | .bulkWindowWrite r a bytes _ => roodOk r && decide (a.base + 2 ^ 33 ≤ 2 ^ 64) && decide (a.addr + bytes.length ≤ 2 ^ 64)
  | .watchdogFire h => h.wf
  | .stepEnd r _ _ e => roodOk r && e.hits.all Hit.wf
  | .tileResetDone tile _ => decide (tile < 104)
  | .tileRegulatorFault f => decide (f.tile < 104)
  | .sgResetDone sg _ => decide (sg < 24)
  | .scrubDone sg _ => decide (sg < 24)
  | .dramPatrolRead sg corrected hits => decide (sg < 24) && corrected.all (fun c => decide (c < 64)) && hits.all Hit.wf
  | .assayDone unit _ => unit.wf
  | .idleGapAssay unit => unit.wf
  | .assayLate unit => unit.wf
  | .chainLinkRetry port => decide (port < 8)
  | .chainLinkLoss port => decide (port < 8)
  | .chainLinkUp port _ => decide (port < 8)
  | .challenge port _ => decide (port < 8)
  | .chainForward m => m.wf
  | .chainUnknownType m => m.wf
  | .hello m => m.wf
  | .ack m => m.wf
  | .offer o => o.msg.wf
  | .accept m => m.wf
  | .refuse m => m.wf
  | .list m => m.wf
  | .frame m => m.wf
  | .done m => m.wf
  | .abort m => m.wf
  | .vecReq m => m.wf
  | .vecList m => m.wf
  | .vecRefuse m => m.wf
  | .shardOffer m => m.wf
  | .shardAccept m => m.wf
  | .shardRefuse m => m.wf
  | .shardData m => m.wf
  | .shardDone m => m.wf
  | .invReq m => m.wf
  | .invList m => m.wf
  | .shardGet g => g.msg.wf
  | .shardHdr m => m.wf
  | .shardNone m => m.wf
  | .registerWrite fn _ width _ => decide (fn ≤ 16) && (width == 4 || width == 8)
  | .registerMisaccess fn _ _ _ => decide (fn ≤ 16)
  | _ => true

end Sys2Proof
end

