-- ==== Sys2Proof/Certificates/Slice0/Obligations.lean ====
section
/-! DEFINITION. The statements about the device, family by family. What a statement takes from a choice of the model and not
from a rule of the manual, its docstring says. -/
open Sys2Proof Sys2Proof.Machine

/-! ## The block as a whole -/

/-- A step runs the command at the front of the queue on the state with the queue's rest. -/
def Obligations.StepRunsTheFrontCommand : Prop :=
  ∀ (c : Instr) (rest : List Instr) (s : State), step { s with pending := c :: rest } = exec c { s with pending := rest }

/-- The part before its first assertion of PWRGD: DEV_TIME 0, both limits 1,100 W (R433), no counter has counted (R500), no
composition, an empty sideband, every MSI-X vector masked (R514). That this is the state of reset is the model's (log entry 3).
The invariant holds at reset. The limits are legal at reset. -/
def Obligations.ResetHoldsTheStatedValues : Prop :=
  (State.reset.pending = [] ∧ State.reset.clock.time = 0 ∧ State.reset.dev.energy.hostCap = 1100 ∧
     State.reset.dev.energy.sidebandCap = 1100 ∧ State.reset.dev.counters = [] ∧ State.reset.dev.comp.composed = false ∧
     State.reset.dev.boot.phase = .off ∧ State.reset.dev.regs.log.head = 0 ∧ State.reset.dev.snap.number = 0 ∧
     (∀ e ∈ State.reset.dev.regs.msix, e.masked = true) ∧ (∀ v ∈ State.reset.dev.energy.bank, v = 0)) ∧
  (Unpowered State.reset) ∧
  (CapsLegal State.reset)

/-- A device without power holds no key, no licence and no work, and every command keeps that so. The form of the invariant is
the model's; what power-down leaves is R60's and Table 17.10's. -/
def Obligations.UnpoweredIsKept : Prop :=
  ∀ (i : Instr) (s t : State), Unpowered s → exec i s = .next t → Unpowered t

/-- Both limits of the package stay from 300 W to 1,100 W whatever the block is told (R433). -/
def Obligations.PowerLimitsStayLegal : Prop := ∀ s t : State, CapsLegal s → step s = .next t → CapsLegal t

/-- DEV_TIME, the input pins and the test access port belong to their own commands: no other command moves them, so that time
goes on through every reset, the recovery state and every release (R36, R57). -/
def Obligations.TimePinsAndTestPortMoveAlone : Prop :=
  ∀ (i : Instr) (s t : State), exec i s = .next t →
    ((∀ e, i ≠ .pwrgdAssert e) → i ≠ .pwrgdDeassert → i ≠ .refClockEdge → t.clock = s.clock) ∧
    ((∀ e, i ≠ .pwrgdAssert e) → i ≠ .pwrgdDeassert → i ≠ .warmRstAssert → (∀ e, i ≠ .warmRstDeassert e) →
      i ≠ .vauxValid → t.pins = s.pins) ∧
    (i ≠ .pwrgdDeassert → (∀ o, i ≠ .testAccessInstruction o) → t.tap = s.tap) ∧ t.pending = s.pending

/-- A command of a rood acts in its rood: every other rood, and the device at large, stay as they are (R43, R45). While the
device is not composed, not READY, or being released, no command of a rood has an effect: no slot is read and nothing is written
to host memory (R79, R80, R499). -/
def Obligations.RoodCommandsStayInTheirRood : Prop :=
  (∀ (i : Instr) (r : Nat) (s : State), roodOf i = some r →
     ∃ t, exec i s = .next t ∧ DeviceStays s t ∧ ∀ q, q ≠ r → t.dev.rood? q = s.dev.rood? q) ∧
  (∀ (i : Instr) (r : Nat) (s : State), roodOf i = some r → s.dev.roodsLive = false → exec i s = .next s)

/-! ## Power, resets and the reference clock -/

/-- PWRGD begins a start on the full path, with DEV_TIME zero at the next edge (R36, R484). WARM_RST_N or THERMTRIP_N holds S01
and nothing is logged for the wait (R530, R533). A rail out of range stops the start with 0x0101, a missing reference with
0x0102, unreadable fuses with 0x0201 (R486, R528, Table 17.6). Power-down keeps the boot records, the training sets and the
NAND's history; every key, the licence, the composition, both logs and every counter are gone, no boundary cell is driven, and
THERMTRIP_N and the sideband stay (R60, R497, R511, R533). -/
def Obligations.PowerBeginsAndEndsTheDevice : Prop :=
  (∀ (e : StartEnv) (s : State), s.pins.pwrgd = false →
     ∃ t, exec (.pwrgdAssert e) s = .next t ∧ t.pins = { s.pins with pwrgd := true } ∧ t.clock = { time := 0, armed := true } ∧
       t.tap = s.tap ∧ t.pending = s.pending ∧
       (s.pins.warmRst = true ∨ s.dev.energy.thermTrip = true → t.dev.boot.phase = .held ∧ t.dev.regs.log = s.dev.regs.log) ∧
       (s.pins.warmRst = false → s.dev.energy.thermTrip = false → 2 ≤ e.runTo →
         (e.railsOk = false → t.dev.boot.phase = .stopped ∧ t.dev.boot.code = 0x0101) ∧
         (e.railsOk = true → e.refOk = false → t.dev.boot.phase = .stopped ∧ t.dev.boot.code = 0x0102) ∧
         (e.railsOk = true → e.refOk = true → e.fusesOk = false →
           t.dev.boot.phase = .stopped ∧ t.dev.boot.code = 0x0201 ∧ t.dev.boot.dik = s.dev.boot.dik))) ∧
  (∀ s : State, s.pins.pwrgd = true →
     ∃ t, exec .pwrgdDeassert s = .next t ∧ t.pins = { s.pins with pwrgd := false } ∧ t.clock = { s.clock with armed := true } ∧
       t.tap = { s.tap with driving := false } ∧ t.pending = s.pending ∧ t.dev.boot.phase = .off ∧
       t.dev.boot.nor = s.dev.boot.nor ∧ t.dev.boot.fuses = s.dev.boot.fuses ∧ t.dev.boot.dik = 0 ∧
       t.dev.boot.dxk = 0 ∧ t.dev.boot.ak = 0 ∧ t.dev.boot.licence = none ∧ t.dev.comp.composed = false ∧
       t.dev.comp.sealedTally = [] ∧ t.dev.regs.log = Log.empty ∧ t.dev.counters = [] ∧ t.dev.energy.sidebandCap = 1100 ∧
       t.dev.energy.thermTrip = s.dev.energy.thermTrip ∧ t.dev.side.usable = s.dev.side.usable ∧
       t.dev.flash.blocks = s.dev.flash.blocks ∧
       ∀ x ∈ t.dev.roods, x.storageKey = 0 ∧ x.slots = [] ∧ x.kv.frames = [] ∧ x.quiet = true)

/-- WARM_RST_N held for 1 µs resets the whole device, a start that has stopped among it (R486), which then waits for its release
with both logs empty (R521, R530), reported on CXL.io (R476); while PWRGD is deasserted it is ignored. The release of WARM_RST_N ends the reset, or the hold before S01, and a start begins, which a
rail out of range stops with 0x0101 (R484, R528, R530). -/
def Obligations.WarmResetsStartTheDeviceAgain : Prop :=
  (∀ s : State, s.pins.warmRst = false →
     ∃ t, exec .warmRstAssert s = .next t ∧ t.pins = { s.pins with warmRst := true } ∧
       (s.dev.boot.phase = .ready →
         WasReset s t ∧ t.dev.boot.phase = .inReset ∧ t.dev.regs.log = Log.empty ∧ t.dev.boot.nor = s.dev.boot.nor ∧
         .aer ∈ t.dev.out) ∧
       (s.dev.boot.phase = .stopped → WasReset s t ∧ t.dev.boot.phase = .inReset) ∧
       (s.dev.boot.phase = .off → t.dev = s.dev ∧ t.clock = s.clock ∧ t.tap = s.tap)) ∧
  (∀ (e : StartEnv) (s : State), s.dev.boot.phase = .inReset ∨ (s.dev.boot.phase = .held ∧ s.dev.energy.thermTrip = false) →
     ∃ t, exec (.warmRstDeassert e) s = .next t ∧ t.pins = { s.pins with warmRst := false } ∧ t.clock = s.clock ∧
       t.dev.counters = s.dev.counters ∧ t.dev.snap = s.dev.snap ∧ t.dev.side = s.dev.side ∧
       t.dev.energy.hostCap = s.dev.energy.hostCap ∧ t.dev.energy.sidebandCap = s.dev.energy.sidebandCap ∧
       (1 ≤ e.runTo → e.railsOk = false → t.dev.boot.phase = .stopped ∧ t.dev.boot.code = 0x0101) ∧
       (s.dev.boot.phase = .held → 1 ≤ e.runTo → e.railsOk = false → t.dev.boot.fast = false))

/-- A rail that leaves its range, the return of the reference clock, the loss of a trained host link and the sideband's RESET
each reset the whole device and are reported on CXL.io (R471, R476, R528, Table 2.13, Table 16.3); the last is answered with
SUCCESS before it begins (R84). A start that has stopped takes no action for the first and the third (R486). -/
def Obligations.ResetCausesResetTheDevice : Prop :=
  ∀ s : State, (s.dev.boot.phase = .stopped →
    ∀ (k : Nat) (e : StartEnv), exec (.railFault k e) s = .next s ∧ exec (.cxlLinkDown e) s = .next s) ∧
  (s.dev.boot.phase = .ready →
    (∀ (k : Nat) (e : StartEnv), ∃ t, exec (.railFault k e) s = .next t ∧ WasReset s t ∧ t.pins = s.pins ∧ .aer ∈ t.dev.out) ∧
    (s.dev.integ.clockLost = true →
      ∀ e : StartEnv, ∃ t, exec (.refClockReturn e) s = .next t ∧ WasReset s t ∧ t.pins = s.pins ∧
        t.dev.integ.clockLost = false) ∧
    (s.dev.regs.linkRate ≠ 0 →
      ∀ e : StartEnv, ∃ t, exec (.cxlLinkDown e) s = .next t ∧ WasReset s t ∧ t.pins = s.pins ∧ .aer ∈ t.dev.out) ∧
    (∀ (msg : List Byte) (q : SbReq) (e : StartEnv), s.dev.side.usable = true → sbRequest msg = some q → q.code = 0x07 →
      q.formatOk = true →
      ∃ t, exec (.reset msg e) s = .next t ∧ WasReset s t ∧ t.pins = s.pins ∧ .aer ∈ t.dev.out ∧
        .sideband (sbResponse 0x07 q.inst sbSuccess []) ∈ t.dev.out))

/-- VAUX makes the sideband usable. A trip sensor asserts THERMTRIP_N while VAUX is valid: every tile regulator is off and the
device is left in that condition (R472). THERMTRIP_N is released with PWRGD deasserted (R533). -/
def Obligations.ThermalTripActsFromVaux : Prop :=
  ∀ s : State,
    (∃ t, exec .vauxValid s = .next t ∧ t.pins = { s.pins with vaux := true } ∧ t.dev.side = { s.dev.side with usable := true } ∧
      t.dev.energy = s.dev.energy ∧ t.dev.roods = s.dev.roods ∧ t.dev.boot = s.dev.boot ∧ t.clock = s.clock) ∧
    (∀ q, q < 4 → s.pins.vaux = true → s.dev.energy.thermTrip = false →
      ∃ t, exec (.thermtripSensorTrip q) s = .next t ∧ t.pins = s.pins ∧ t.clock = s.clock ∧ t.dev.energy.thermTrip = true ∧
        t.dev.roods = s.dev.roods ∧ t.dev.regs.log = s.dev.regs.log ∧ t.dev.counters = s.dev.counters ∧
        (s.dev.boot.phase = .off → t.dev.boot = s.dev.boot) ∧
        (s.dev.boot.phase = .ready → t.dev.boot = { s.dev.boot with phase := .tripped true } ∧ t.dev.faultN = true ∧
          ∀ v ∈ t.dev.energy.supply, v = 0)) ∧
    (∀ e : StartEnv, s.dev.boot.phase = .off →
      ∃ t, exec (.thermtripRelease e) s = .next t ∧ t.pins = s.pins ∧ t.clock = s.clock ∧
        t.dev.energy = { s.dev.energy with thermTrip := false } ∧ t.dev.boot = s.dev.boot ∧ t.dev.roods = s.dev.roods)

/-- DEV_TIME reads zero at the first reference edge after PWRGD and adds exactly 10 at each later one, so that a multiple of 10
stays one while time does not wrap; nothing but the active time of the roods moves with it (R35, R36). The loss of the reference
clock sets DEV_FAULT.REF_LOSS, asserts FAULT_N, is logged as class 0x0C, and from then on nothing is written to host memory
(R471). -/
def Obligations.TimeFollowsTheReferenceClock : Prop :=
  (∀ s : State, s.pins.pwrgd = true →
     ∃ t, exec .refClockEdge s = .next t ∧ t.pins = s.pins ∧ t.tap = s.tap ∧ t.dev = { s.dev with roods := t.dev.roods } ∧
       (s.clock.armed = true → t.clock.time = 0 ∧ t.clock.armed = false ∧ t.dev.roods = s.dev.roods) ∧
       (s.clock.armed = false → t.clock = { s.clock with time := s.clock.time + 10 } ∧
         (s.clock.time.toNat % 10 = 0 → s.clock.time.toNat + 10 < 2 ^ 64 → t.clock.time.toNat % 10 = 0)) ∧
       t.dev.roods.map (fun x => { x with tally := Tally.fresh 0 0 0 0 }) =
         s.dev.roods.map (fun x => { x with tally := Tally.fresh 0 0 0 0 })) ∧
  (∀ s : State, s.dev.boot.phase = .ready → s.dev.integ.clockLost = false →
     ∃ t, exec .refClockLoss s = .next t ∧ t.pins = s.pins ∧ t.clock = s.clock ∧
       t.dev.integ = { s.dev.integ with refLoss := true, clockLost := true } ∧ t.dev.faultN = true ∧
       (∀ x ∈ t.dev.roods, x.quiet = true) ∧ t.dev.regs.log.head = s.dev.regs.log.head + 1 ∧
       (∃ k, t.dev.regs.log.entries.head? = some k ∧ k.kind = 1 ∧ k.cls = 0x0C ∧ k.unitKind = 0x0F) ∧
       t.dev.energy = s.dev.energy ∧ t.dev.comp = s.dev.comp ∧ t.dev.boot = s.dev.boot)

/-- A trained link shows its rate and width; the counter of retrainings counts only a link that was trained already (R163, Table
18.1, Table 19.7). With less than 32 GT/s or ×4 the roods have CXL.io alone; with more, records that were held are written
(R163; the holding is log entry 71's). Nothing but the host interface's part of a rood changes. -/
def Obligations.LinkTrainingIsShown : Prop :=
  ∀ (rate width : Nat) (s : State), s.pins.pwrgd = true → 1 ≤ rate → rate ≤ 7 → width ∈ [1, 2, 4, 8, 16] →
    ∃ t, exec (.cxlLinkTrained rate width) s = .next t ∧ t.pins = s.pins ∧ t.clock = s.clock ∧
      t.dev.regs.linkRate = rate ∧ t.dev.regs.linkWidth = width ∧
      ((∀ x ∈ s.dev.roods, x.fx = []) → t.dev.regs.log = s.dev.regs.log) ∧
      (t.dev.cxlReady = true ↔ s.dev.roodsLive = true ∧ 5 ≤ rate ∧ 4 ≤ width) ∧
      (s.dev.roodsLive = false → t.dev.roods = s.dev.roods) ∧
      (s.dev.roodsLive = true → ∀ r x, s.dev.rood? r = some x → ∃ y, Becomes t r x y ∧ y.cmds = x.cmds ∧
        HostSide { x with cacheOff := !(decide (5 ≤ rate) && decide (4 ≤ width)) } y) ∧
      ((∀ x ∈ s.dev.roods, x.fx = [] ∧ ∀ q ∈ x.crings, q.held = []) →
        t.dev.counters = if s.dev.regs.linkRate = 0 then s.dev.counters
          else counterAdd ⟨.device, 0, 7⟩ 1 s.dev.counters)

/-- The test access port offers only IDCODE, BYPASS, SAMPLE/PRELOAD and EXTEST: whatever a tester shifts in, one of the four is
in force, boundary cells are driven under EXTEST alone, and nothing inside the device is reached or moved (R57). That another
code selects BYPASS is the model's (log entry 43). -/
def Obligations.TestPortReachesOnlyItsCells : Prop :=
  ∀ (op : TapOp) (s : State), s.pins.pwrgd = true →
    ∃ t, exec (.testAccessInstruction op) s = .next t ∧ t.dev = s.dev ∧ t.clock = s.clock ∧ t.pins = s.pins ∧ t.tap.instr ≤ 3 ∧
      (t.tap.driving = true ↔ op = .extest) ∧ (t.tap.driving = true ↔ t.tap.instr = 3) ∧
      (∀ cells, op = .samplePreload cells → t.tap.cells = cells) ∧
      ((∀ cells, op ≠ .samplePreload cells) → t.tap.cells = s.tap.cells) ∧
      (∀ b, op = .bypass b → t.tap.shifted = [false, b])

/-- At the start of a budget interval the governor takes the lesser of the two limits, shares what the shared units leave among
the active stack groups, and grants each its share into its bank, from -16 to 4 shares; every other bank is 0 (R433, R435,
R436). The case in which every sensor reports and none reads 125 °C. A device whose start has stopped takes the cap and the draw,
and grants nothing (R435, R486, R541). -/
def Obligations.BudgetIntervalGrantsEnergy : Prop :=
  ∀ (m : Readings) (s : State),
    (∀ n, n < 104 → tileSensorsOk (tileOf n m) = true) → (∀ g, g < 24 → (stackOf g m).isSome = true) →
    (s.dev.energy.read (fun g => s.dev.sgOff g) m).trips = false →
    (s.dev.boot.phase = .stopped →
      ∃ t, exec (.budgetInterval m) s = .next t ∧ t.clock = s.clock ∧ t.pins = s.pins ∧ t.dev.boot = s.dev.boot ∧
        t.dev.energy.inForce = min s.dev.energy.sidebandCap s.dev.energy.hostCap ∧ t.dev.energy.shared = m.sharedUsed ∧
        (∀ g, g < 24 → t.dev.energy.bank.getD g 0 = 0) ∧ t.dev.roods = s.dev.roods ∧ t.dev.integ = s.dev.integ) ∧
    (s.dev.boot.phase = .ready →
    ∃ t, exec (.budgetInterval m) s = .next t ∧ t.clock = s.clock ∧ t.pins = s.pins ∧ t.dev.boot.phase = .ready ∧
      t.dev.energy.inForce = min s.dev.energy.sidebandCap s.dev.energy.hostCap ∧
      t.dev.energy.sidebandCap = s.dev.energy.sidebandCap ∧ t.dev.energy.hostCap = s.dev.energy.hostCap ∧
      t.dev.energy.share = shareOf t.dev.energy.inForce m.sharedUsed s.dev.layoutSgs.length ∧
      (∀ g, g < 24 → t.dev.energy.bank.getD g 0 =
        if s.dev.layoutSgs.contains g then
          max (-16 * (t.dev.energy.share : Int)) (min (4 * (t.dev.energy.share : Int))
            (s.dev.energy.bank.getD g 0 + t.dev.energy.share - m.used.getD g 0))
        else 0) ∧
      (s.dev.roodsLive = false → ∀ x ∈ t.dev.roods, x.powered = true) ∧ t.dev.comp.composed = s.dev.comp.composed ∧ t.dev.integ = s.dev.integ ∧
      t.dev.energy.telemetry.cap = t.dev.energy.inForce)

/-! ## Sessions (chapter 3) -/

/-- When a handle is valid (R88), and what every command that names another does: ST_BAD_HANDLE, and no effect. -/
def Obligations.InvalidHandlesAreRefused : Prop :=
  (∀ (x : Rood) (h : Nat), x.validHandle h = true ↔
    handleSlot h < slotCount x.width ∧ (x.slot (handleSlot h)).gen = handleGen h ∧ (x.entry? (handleSlot h)).isSome = true) ∧
  ∀ (op r c : Nat) (b : HostBufs) (w : Wear) (s : State) (x : Rood) (d : Cmd) (q : CRing), 2 ≤ op → op ≤ 0x0B → Works s r x →
    Accepted x c op d → CanReport x d q → Passes s x d (bufsFor op b) → x.validHandle d.handle = false →
    ∃ t, exec (sessionRow op r c b w) s = .next t ∧ Ends t r x x d q (d.record stBadHandle)

/-- The cells of Table 3.4 in which nothing is done (R98): N completes with ST_OK and NOTHING_DONE, S with ST_SUSPECT, B with
ST_BAD_STATE, and the session stays as it is. -/
def Obligations.CellsWithoutActionEndTheCommand : Prop :=
  ∀ (op r c : Nat) (b : HostBufs) (w : Wear) (s : State) (x : Rood) (d : Cmd) (q : CRing) (slot : Nat) (e : Entry), 2 ≤ op → op ≤ 0x0B →
    Works s r x → Accepted x c op d → CanReport x d q → InSession s x d (bufsFor op b) slot e →
    ((e.state = .resident ∧ (op = 7 ∨ op = 0x0B ∨ (op = 6 ∧ e.length = 0)) ∨ e.state = .parked ∧ (op = 6 ∨ op = 0x0B) ∨
        e.state = .suspect ∧ op = 0x0B) →
      ∃ t, exec (sessionRow op r c b w) s = .next t ∧ Ends t r x x d q { d.record stOk with nothingDone := true }) ∧
    (e.state = .suspect ∧ op ≠ 8 ∧ op ≠ 9 ∧ op ≠ 0x0B →
      ∃ t, exec (sessionRow op r c b w) s = .next t ∧ Ends t r x x d q (d.record stSuspect)) ∧
    ((e.state = .queued ∨ e.state = .running ∨ e.state = .moving) ∧ op ≠ 9 ∧ op ≠ 0x0B ∨
        e.state = .resident ∧ e.length = 0 ∧ (op = 3 ∨ op = 5) →
      ∃ t, exec (sessionRow op r c b w) s = .next t ∧ Ends t r x x d q (d.record stBadState))

/-- SES_OPEN takes the slot at the head of a free list, fills its entry and returns its handle; a model slot that holds no image
gives ST_BAD_STATE, and a rood without a FREE slot ST_ADMIT_MEM (R86, R89, R93, R99, R100). -/
def Obligations.OpeningASession : Prop :=
  ∀ (r c : Nat) (s : State) (x : Rood) (d : Cmd) (q : CRing), Works s r x → Accepted x c 0x01 d → CanReport x d q →
    Passes s x d noBufs →
    (x.placed (d.f 16 0 8) = none → ∃ t, exec (.sesOpen r c) s = .next t ∧ Ends t r x x d q (d.record stBadState)) ∧
    ∀ (im : Image) (p : Params) (pl : Placement), x.placed (d.f 16 0 8) = some (im, p, pl) →
      x.adapterOk p (d.f 20 0 16) = true → x.listOk p.vocab (d.f 20 16 8) = true →
      (x.popSlot = none → ∃ t, exec (.sesOpen r c) s = .next t ∧ Ends t r x x d q (d.record stAdmitMem)) ∧
      ∀ (i : Nat) (y : Rood), x.popSlot = some (i, y) →
        ∃ t e, exec (.sesOpen r c) s = .next t ∧ y = { x with freeLists := y.freeLists } ∧
          Ends t r x { y.setEntry i e with tally := { x.tally with sessionsOpened := x.tally.sessionsOpened + 1 } } d q
            { d.record stOk with handle := (x.slot i).gen <<< 24 ||| i } ∧
          e.state = .resident ∧ e.length = 0 ∧ e.pecks = 0 ∧ e.streamBytes = 0 ∧ e.rng = 0 ∧ e.genCount = 0 ∧
          e.grains = 0 ∧ e.parent = 0 ∧ e.modelSeq = im.loadSeq ∧ e.modelSlot = d.f 16 0 8 ∧ e.adapterSlot = d.f 20 0 16 ∧
          e.listSet = d.f 20 16 8 ∧ e.latClass = d.f 16 10 2 ∧ (e.retrieval = true ↔ d.f 16 8 1 = 1) ∧
          (e.kv4 = true ↔ d.f 16 9 1 = 1) ∧ e.seed = BitVec.ofNat 64 (d.f 24 0 64) ∧
          e.contextLimit = min (if e.retrieval then 4194304 else 262144) p.ctxLimit ∧ e.openTime = s.clock.time ∧
          e.lastTime = s.clock.time ∧ e.carry = [] ∧ e.dirRoot = 0 ∧ e.bushel = 0

/-- SES_CLOSE, at once or when its turn comes after an earlier command of its session: what the session holds is freed, its slot
becomes FREE with the next generation and joins the tail of its list, every other slot stays (R87, R89, R97, R109). SES_QUERY
writes the session's 128-byte entry, with DIR_ROOT and BUSHEL zero, and never changes the session (R110); a use of its buffer
that fails ends it with ST_CANCELLED, the fault logged (R148). -/
def Obligations.ClosingAndQueryingASession : Prop :=
  (∀ (r c : Nat) (b : HostBufs) (w : Wear) (s : State) (x : Rood) (d : Cmd) (q : CRing) (slot : Nat) (e : Entry), Works s r x →
     x.cmd? c = some d → d.opcode = 0x08 → CanReport x d q → InSession s x d b slot e →
     e.state = .resident ∨ e.state = .parked ∨ e.state = .suspect →
     let z := ((x.freeBushel slot).freeKv slot e).freeSlot slot
     z.entry? slot = none ∧ (z.slot slot).gen = (x.slot slot).gen % 255 + 1 ∧ (∀ j, j ≠ slot → z.slot j = x.slot j) ∧
       z.freeLists = modIdx (slot % x.width) (fun l => { l with tail := l.tail ++ [slot] }) x.freeLists ∧
       (d.stage = .accepted → ∃ t, exec (.sesClose r c) s = .next t ∧ Ends t r x z d q (d.record stOk)) ∧
       (d.stage = .waiting → ∃ t, exec (.sessionCommandDequeue r ⟨c, w⟩ b) s = .next t ∧ Ends t r x z d q (d.record stOk))) ∧
  (∀ (r c : Nat) (b : HostBufs) (s : State) (x : Rood) (d : Cmd) (q : CRing) (slot : Nat) (e : Entry), Works s r x →
     Accepted x c 0x09 d → CanReport x d q → InSession s x d b slot e →
     let bytes := ({ x.steadyEntry slot e with dirRoot := 0, bushel := 0 } : Entry).bytes (x.slot slot).gen
     ((∀ n, b.out ≠ .lost n) →
       ∃ t, exec (.sesQuery r c b) s = .next t ∧
         Ends t r x { x with host := memWrite x.host (d.f 24 0 64) bytes } d q { d.record stOk with result := [128, 0, 0, 0] }) ∧
     ∀ n, b.out = .lost n →
       ∃ t y, exec (.sesQuery r c b) s = .next t ∧ Becomes t r x y ∧ y.regs.log.head = x.regs.log.head + 1 ∧
         HostSide { x with regs := { x.regs with addrFault := true } } y ∧
         Reported { x with host := memWrite x.host (d.f 24 0 64) (bytes.take n) } y d q (d.record stCancelled))

/-- SES_PARK and SES_REVIVE make their session MOVING with MOVE_KIND 1 or 2 and its time of change, and their move begins; a
revival whose frames and lines are not available completes with ST_ADMIT_MEM and the session stays PARKED (R107, R108). The end
of a parking and of a revival. A durable bushel makes the session PARKED, its extents named by BUSHEL and PECKS 0; a media error
leaves its pecks and gives ST_MEDIA. A revival that has read its bushel makes the session RESIDENT with fresh frames, and one
that cannot leaves it PARKED with ST_MEDIA (R107, R108, R377, R379). -/
def Obligations.ParkingAndRevivingASession : Prop :=
  (∀ (r c : Nat) (s : State) (x : Rood) (d : Cmd) (q : CRing) (slot : Nat) (e : Entry), Works s r x → CanReport x d q →
     InSession s x d noBufs slot e →
     (Accepted x c 0x06 d → e.state = .resident → 1 ≤ e.length → x.mirrors (ctxOf s) = false →
       ∃ t, exec (.sesPark r c) s = .next t ∧
         Becomes t r x (({ x.setCmd { d with stage := .running } with
             moves := x.moves ++ [{ Move.plain slot 1 d.id .resident with bushel := x.bushelOf slot e }] } : Rood).setEntry slot
           { e with state := .moving, moveKind := 1, lastTime := s.clock.time, bushel := 0 })) ∧
     (Accepted x c 0x07 d → e.state = .parked →
       (x.memoryTest d.floor e.latClass slot e.revivalNeeds.1 e.revivalNeeds.2 = true →
         ∃ t, exec (.sesRevive r c) s = .next t ∧
           Becomes t r x (({ x.setCmd { d with stage := .running } with
               moves := x.moves ++ [{ Move.plain slot 2 d.id .parked with
                 resFrames := e.revivalNeeds.1, resLines := e.revivalNeeds.2, obj := e.bushel }] } : Rood).setEntry slot
             { e with state := .moving, moveKind := 2, lastTime := s.clock.time, bushel := 0 })) ∧
       (x.memoryTest d.floor e.latClass slot e.revivalNeeds.1 e.revivalNeeds.2 = false →
         ∃ t, exec (.sesRevive r c) s = .next t ∧ Ends t r x x d q (d.record stAdmitMem)))) ∧
  (∀ (r slot : Nat) (w : Wear) (s : State) (x : Rood) (d : Cmd) (q : CRing) (m : Move) (e : Entry), Works s r x → CanReport x d q →
     x.move? slot = some m → x.entry? slot = some e → e.state = .moving → x.cmd? m.cmd = some d → m.cancel = none →
     (m.kind = 1 → m.durable = false → m.mirrored = false →
       (∀ y, x.writeObject (ctxWorn w s) (.bushel slot) m.bushel = some y →
         ∃ t z, exec (.bushelDurable r slot ⟨true, w⟩) s = .next t ∧ Ends t r x z d q (d.record stOk) ∧
           z.kv = (y.freeKv slot e).kv ∧ z.flash = y.flash ∧ z.cmds = x.cmds ∧ z.host = x.host ∧ z.move? slot = none ∧
           (∀ j, j ≠ slot → z.slot j = x.slot j) ∧
           z.entry? slot = some { e with
             state := .parked, moveKind := 0, lastTime := s.clock.time, dirRoot := 0, pecks := 0, bushel := x.nextObj }) ∧
       ∀ ok, (ok = false ∨ x.writeObject (ctxWorn w s) (.bushel slot) m.bushel = none) →
         ∃ t, exec (.bushelDurable r slot ⟨ok, w⟩) s = .next t ∧
           Ends t r x ((x.dropMove slot).setEntry slot
             { e with state := .resident, moveKind := 0, lastTime := s.clock.time, bushel := 0 }) d q (d.record stMedia)) ∧
     (m.kind = 2 →
       ((x.readObject (ctxWorn w s) m.obj).2 = none →
         ∃ t, exec (.revivalDone r slot w) s = .next t ∧
           Ends t r x ((x.dropMove slot).setEntry slot
             { e with state := .parked, moveKind := 0, lastTime := s.clock.time, bushel := m.obj }) d q (d.record stMedia)) ∧
       ∀ bs tbl k, (x.readObject (ctxWorn w s) m.obj).2 = some bs →
         bushelOk (bushelParts bs).1 (bushelParts bs).2.1 (bushelParts bs).2.2 = true →
         x.kv.install x.width slot e.geom e.stored (bushelParts bs).2.2 = some (tbl, k) →
         ∃ t z, exec (.revivalDone r slot w) s = .next t ∧ Ends t r x z d q (d.record stOk) ∧ z.kv = k ∧ z.cmds = x.cmds ∧
           z.host = x.host ∧ z.flash = (x.freeObject m.obj).flash ∧ z.move? slot = none ∧
           (∀ j, j ≠ slot → z.slot j = x.slot j) ∧
           z.entry? slot = some { e with
             state := .resident, moveKind := 0, lastTime := s.clock.time, dirRoot := BitVec.ofNat 32 tbl
             pecks := e.geom.peckCount e.stored, bushel := 0 }))

/-- SES_MIGRATE makes a RESIDENT session MOVING with MOVE_KIND 4 and a PARKED one with MOVE_KIND 5, and OFFER leaves for the
peer's rood under a fresh operation; with no port up towards the peer it completes with ST_PEER and the session stays (R111,
R392). That a PARKED session whose bushel cannot be read gives ST_MEDIA is the model's (log entry 73), and so is the header of its
OFFER (log entry 28). -/
def Obligations.MigratingASession : Prop :=
  ∀ (r c : Nat) (w : Wear) (s : State) (x : Rood) (d : Cmd) (q : CRing) (slot : Nat) (e : Entry), Works s r x →
    Accepted x c 0x0A d → CanReport x d q → InSession s x d noBufs slot e →
    (e.state = .resident ∨ e.state = .parked → s.dev.reaches (d.f 16 0 5) = false →
      ∃ t, exec (.sesMigrate r ⟨c, w⟩) s = .next t ∧ Ends t r x x d q (d.record stPeer)) ∧
    (e.state = .parked → s.dev.reaches (d.f 16 0 5) = true → (x.readObject (ctxWorn w s) e.bushel).2 = none →
      ∃ t, exec (.sesMigrate r ⟨c, w⟩) s = .next t ∧ Ends t r x x d q (d.record stMedia)) ∧
    ∀ kind h b, ((e.state = .resident ∧ kind = 4 ∧ b = x.bushelOf slot e ∧ h = b.take 512) ∨
        (e.state = .parked ∧ kind = 5 ∧ (x.readObject (ctxWorn w s) e.bushel).2 = some b ∧
          h = parkedHeader (x.slot slot).gen e (b.take 512))) → s.dev.reaches (d.f 16 0 5) = true →
      ∃ t o, exec (.sesMigrate r ⟨c, w⟩) s = .next t ∧ (x.fx = [] → o = s.dev.chain.nextOp % 2 ^ 32) ∧
        Becomes t r x (({ x.setCmd { d with stage := .running } with
            moves := x.moves ++ [{ Move.plain slot kind d.id e.state with
              bushel := h ++ b.drop 512, op := o, peer := d.f 16 0 5, peerRood := d.f 16 8 4, obj := e.bushel }]
            tally := { x.tally with chainBytesOut := x.tally.chainBytesOut + (offerPayload h false).length } } : Rood).setEntry slot
          { e with state := .moving, moveKind := kind, lastTime := s.clock.time, bushel := 0 }) ∧
        ∃ m ∈ (t.dev.pair (d.f 16 0 5)).unacked, m.typ = 0x01 ∧ m.srcRood = r ∧ m.dstRood = d.f 16 8 4 ∧ m.op = o ∧
          m.payload = offerPayload h false

/-- SES_FORK of a RESIDENT session in one instant: a slot of its own, the frames that sharing and copying give, and an entry
with the source's tokens and its own class, seed, times and PARENT (R120, R121); a count beyond 65,535 gives ST_ADMIT_MEM
(R122). -/
def Obligations.ForkingASession : Prop :=
  ∀ (r c : Nat) (s : State) (x : Rood) (d : Cmd) (q : CRing) (slot : Nat) (e : Entry), Works s r x →
    Accepted x c 0x05 d → CanReport x d q → InSession s x d noBufs slot e → e.state = .resident → 1 ≤ e.length →
    x.objectsOk d e = true →
    (x.refsFull slot e = true → ∃ t, exec (.sesFork r c) s = .next t ∧ Ends t r x x d q (d.record stAdmitMem)) ∧
    (x.refsFull slot e = false → x.popSlot = none →
      ∃ t, exec (.sesFork r c) s = .next t ∧ Ends t r x x d q (d.record stAdmitMem)) ∧
    ∀ (i tbl : Nat) (y : Rood) (k : Kv), x.refsFull slot e = false → x.popSlot = some (i, y) →
      y.forkFits d.floor e slot i (0, 0) = true →
      y.kv.forkAll x.width i e.geom e.stored
        (y.kv.sessionFrames (slot % x.width) e.geom e.dirRoot.toNat e.stored) = some (tbl, k) →
      ∃ t, exec (.sesFork r c) s = .next t ∧
        Ends t r x { (({ y.dropHold d.id with kv := k } : Rood).setEntry i { e with
            state := .resident, moveKind := 0, latClass := d.f 16 0 2, lastYield := 0, dirRoot := BitVec.ofNat 32 tbl
            streamBytes := 0, seed := BitVec.ofNat 64 (d.f 24 0 64), rng := 0, openTime := s.clock.time
            lastTime := s.clock.time, bushel := 0, parent := BitVec.ofNat 32 d.handle, genCount := 0, grains := 0 }) with
          tally := { x.tally with sessionsOpened := x.tally.sessionsOpened + 1 } } d q
          { d.record stOk with handle := (x.slot i).gen <<< 24 ||| i, result := [0, 0, e.length, 0] }

/-- Text given to SES_APPEND or SES_RESUME is converted by the table in force at acceptance, and its session waits meanwhile as
it stands (R97, R169, R179). An SES_APPEND that changes nothing completes at once (R146). A text that yields no token, every
byte being carried over, changes CARRY alone and completes with ST_OK; bytes converted are counted; a poisoned text ends the
command with ST_FORMAT, one that no longer translates with ST_CANCELLED (R102, R148, Table 16.1). -/
def Obligations.TextIsConvertedAndAppended : Prop :=
  (∀ (op r c : Nat) (b : HostBufs) (w : Wear) (s : State) (x : Rood) (d : Cmd) (q : CRing) (slot : Nat) (e : Entry), op = 2 ∨ op = 4 →
     Works s r x → Accepted x c op d → CanReport x d q → InSession s x d b slot e → e.state = .resident →
     x.objectsOk d e = true →
     (d.isText = true → (op = 2 → d.inputLen ≠ 0) →
       ∃ t d', exec (sessionRow op r c b w) s = .next t ∧ Becomes t r x (x.setCmd d') ∧ d'.stage = .converting ∧ d'.id = d.id ∧
         d'.raw = d.raw ∧ d'.tokSeq = (x.tableNow.map (fun k => k.loadSeq)).getD 0 ∧ d'.conv = d.conv) ∧
     (op = 2 → d.inputLen = 0 → d.isText = true ∨ e.carry = [] →
       ∃ t, exec (sessionRow op r c b w) s = .next t ∧
         Ends t r x x d q { d.record stOk with
           nothingDone := true, carried := !e.carry.isEmpty, result := [0, 0, e.length, 0] })) ∧
  (∀ (r c : Nat) (s : State) (x : Rood) (d : Cmd) (q : CRing) (slot : Nat) (e : Entry), Works s r x → x.cmd? c = some d →
     d.stage = .converting → x.rebuilding = [] → CanReport x d q → x.entry? (handleSlot d.handle) = some e →
     slot = handleSlot d.handle →
     (∃ t y, exec (.textConversionDone r c .poison) s = .next t ∧ Becomes t r x y ∧ y.slots = x.slots ∧ y.seqs = x.seqs ∧
       Reported x y d q (d.record stFormat)) ∧
     (∃ t y, exec (.textConversionDone r c .fault) s = .next t ∧ Becomes t r x y ∧ y.slots = x.slots ∧ y.seqs = x.seqs ∧
       y.regs.addrFault = true ∧ Reported x y d q { d.record stCancelled with yield := yCancel }) ∧
     ∀ (bs : List Byte) (v : Conv), d.opcode = 0x02 → e.state = .resident → 1 ≤ e.length → e.length ≤ e.contextLimit →
       x.seq? d.id = none → x.stillBound e = true → StepsHeld x →
       v = convertText (x.tableOf d) true e.carry (padTo d.inputLen bs) → v.tokens = [] →
       ∃ t y, exec (.textConversionDone r c (.ok bs)) s = .next t ∧ Becomes t r x y ∧ y.kv = x.kv ∧ y.seqs = x.seqs ∧
         y.entry? slot = some { e with carry := v.carry } ∧ (∀ j, j ≠ slot → y.slot j = x.slot j) ∧
         y.tally.textBytesIn = x.tally.textBytesIn + d.inputLen ∧
         Reported x y d q { d.record stOk with
           byteTokens := decide (0 < v.byteTokens), carried := !v.carry.isEmpty, result := [0, v.byteTokens, e.length, 0] })

/-- SES_GENERATE of a RESIDENT session with a token and nothing carried: once admitted it is QUEUED with GEN_COUNT 0, the last
of the rood to become so, with its descriptor's limits and stop conditions; an SES_CANCEL then waits for its boundary (R104,
R105, R95, R112). SES_CANCEL of a session in a step waits for the boundary; a second one acts as N at once (R112, R114). Of a
session that is MOVING it cancels the command of an implicit revival, and acts as N on every other move (R113). -/
def Obligations.GeneratingAndCancelling : Prop :=
  (∀ (r c : Nat) (b : HostBufs) (s : State) (x : Rood) (d : Cmd) (q : CRing) (slot f l : Nat) (e : Entry), Works s r x →
     Accepted x c 0x03 d → CanReport x d q → InSession s x d b slot e → e.state = .resident → 1 ≤ e.length → e.carry = [] →
     x.objectsOk d e = true → x.seq? d.id = none → StepsHeld x →
     let k : Cmd := { x.takeObjects b d e with conv := some { tokens := [], byteTokens := 0, carry := [] } }
     (x.setCmd k).admission (ctxOf s) k slot e { tokens := [], byteTokens := 0, carry := [] } (0, 0) = (0, f, l) →
     ∃ t g, exec (.sesGenerate r c b) s = .next t ∧ g.cmd = d.id ∧ g.slot = slot ∧ g.order = x.nextOrder ∧ g.running = false ∧
       g.toks = [e.pendingToken] ∧ g.resFrames = f ∧ g.resLines = l ∧ g.cancel = none ∧ g.cls = e.latClass ∧
       (∃ p, g.gen = some p ∧ p.maxNew = d.f 16 0 32 ∧ p.streamAddr = d.streamAddr ∧ p.streamLen = d.streamLen ∧
         p.stopToks = k.stopToks ∧ p.stopStrs = k.stopStrs ∧ p.used = 0 ∧ p.history = []) ∧
       Becomes t r x (({ x.setCmd { k with stage := .running } with
           seqs := x.seqs ++ [g], nextOrder := x.nextOrder + 1 } : Rood).setEntry slot
         { e with state := .queued, moveKind := 0, genCount := 0, lastTime := s.clock.time })) ∧
  (∀ (r c : Nat) (s : State) (x : Rood) (d : Cmd) (q : CRing) (slot : Nat) (e : Entry), Works s r x →
     Accepted x c 0x0B d → CanReport x d q → InSession s x d noBufs slot e →
     e.state = .queued ∨ e.state = .running ∨ e.state = .moving →
     (∀ g, x.seqOfSlot slot = some g → g.cancel = none → x.inStep g = true →
       ∃ t, exec (.sesCancel r c) s = .next t ∧
         Becomes t r x ((x.setCmd { d with stage := .running }).setSeq { g with cancel := some d.id })) ∧
     (∀ g, x.seqOfSlot slot = some g → g.cancel.isSome = true →
       ∃ t, exec (.sesCancel r c) s = .next t ∧ Ends t r x x d q { d.record stOk with nothingDone := true }) ∧
     (∀ m, x.seqOfSlot slot = none → x.move? slot = some m → m.kind = 3 → m.cancel = none → (x.cmd? m.cmd).isSome = true →
       ∃ t, exec (.sesCancel r c) s = .next t ∧
         Becomes t r x ((x.setCmd { d with stage := .running }).setMove { m with cancel := some d.id })) ∧
     (∀ m, x.seqOfSlot slot = none → x.move? slot = some m → m.kind ≠ 3 →
       ∃ t, exec (.sesCancel r c) s = .next t ∧ Ends t r x x d q { d.record stOk with nothingDone := true }))

/-! ## Intake, completion and registers (chapters 4 and 19) -/

/-- The line at the next expected slot of an enabled ring. Not posted, it is held and nothing is accepted (R136). Posted, the
next command joins the ring's commands, the consumer index moves on and one record is reserved (R137, R140). Poison, an opcode
that no table lists, and in a fenced rood all but NOP, complete at once (R142, R470, R540). The case of no other slot posted.
A poisoned line read as a prefetch is not kept (R540), and a link below 32 GT/s or ×4 has no CXL.cache, so that no line is read
(R163). NOP completes with ST_OK, or with ST_FORMAT when a reserved field or HANDLE is not zero (R20, R142, R143). -/
def Obligations.IntakeLinesBecomeCommands : Prop :=
  (∀ (r n : Nat) (line : SlotLine) (s : State) (x : Rood) (i : IRing) (q : CRing), Works s r x → s.dev.linkFull = true → n < 8 →
     x.intakeOn = true → x.quiet = false → x.irings[n]? = some i → i.enable = true → 1 ≤ i.sizeLog2 → i.sizeLog2 ≤ 32 →
     x.crings[i.cring]? = some q → q.canReserve = true →
     (∀ m j, m ≠ n → x.irings[m]? = some j → j.enable = true → j.idle = true) →
     lookKey ((i.next + 1) % 2 ^ i.sizeLog2) i.lines = none →
     ((i.next + 1) % 2 ^ 32 + 2 ^ 32 - i.consWritten) % 2 ^ 32 < 16 → (∀ d ∈ x.cmds, d.id ≠ x.nextCmd ∧ d.ring ≠ n) →
     let slot := i.next % 2 ^ i.sizeLog2
     let phase := 1 - (i.next >>> i.sizeLog2) % 2
     let c := (Cmd.ofLine x.nextCmd n i.cring line).accepting x.regs
     let rings := modIdx n (fun j => { j with next := (j.next + 1) % 2 ^ 32, lines := putKey slot line j.lines }) x.irings
     (∀ raw, line = .clean raw → dField raw 0 8 1 ≠ phase →
       ∃ t, exec (.intakeLineSnoop r n slot line) s = .next t ∧
         Becomes t r x { x with irings := modIdx n (fun j => { j with lines := putKey slot line j.lines }) x.irings }) ∧
     (∀ raw, line = .clean raw → dField raw 0 8 1 = phase → (bodyFields (dField raw 0 0 8)).isSome = true →
       x.fenced = false ∨ dField raw 0 0 8 = 0x3F →
       ∃ t, exec (.intakeLineSnoop r n slot line) s = .next t ∧
         Becomes t r x { x with
           nextCmd := x.nextCmd + 1, cmds := x.cmds ++ [c], irings := rings
           crings := modIdx i.cring (fun k => { k with reserved := k.reserved + 1 }) x.crings }) ∧
     ∀ st, q.enable = true → x.cacheOff = false →
       ((line = .poison ∧ st = stFormat) ∨ ∃ raw, line = .clean raw ∧ dField raw 0 8 1 = phase ∧
         ((bodyFields (dField raw 0 0 8) = none ∧ st = stBadOpcode) ∨
           ((bodyFields (dField raw 0 0 8)).isSome = true ∧ x.fenced = true ∧ dField raw 0 0 8 ≠ 0x3F ∧ st = stSuspect))) →
       ∃ t y, exec (.intakeLineSnoop r n slot line) s = .next t ∧ Becomes t r x y ∧ HostSide x y ∧ y.irings = rings ∧
         y.nextCmd = x.nextCmd + 1 ∧ Reported x y c q (c.record st) ∧
         (line = .poison → (c.record st).opcode = 0 ∧ (c.record st).handle = 0 ∧ (c.record st).tag = 0 ∧
           y.regs.log.head = x.regs.log.head + 1)) ∧
  (∀ (r n slot : Nat) (line : SlotLine) (s : State) (x : Rood) (i : IRing),
     (s.dev.linkFull = false → exec (.intakeLineSnoop r n slot line) s = .next s) ∧
     (Works s r x → s.dev.linkFull = true → NonePosted x → x.irings[n]? = some i → slot ≠ i.next % 2 ^ i.sizeLog2 →
       ∃ t, exec (.intakeLineSnoop r n slot .poison) s = .next t ∧
         Becomes t r x { x with irings := modIdx n (fun j => { j with lines := delKey slot j.lines }) x.irings })) ∧
  (∀ (r c : Nat) (s : State) (x : Rood) (d : Cmd) (q : CRing), Works s r x → Accepted x c 0x3F d → CanReport x d q →
     ∃ t, exec (.nop r c) s = .next t ∧
       Ends t r x x d q (d.record (if reservedSet d.raw 0x3F = false ∧ d.handle = 0 then stOk else stFormat)))

/-- The host index line tells which records are free; IRING_CONS_n is written into the device index line; the records that a
ring has not signalled are signalled together, by a message or, on a masked vector, its pending bit (R134, R135, R140, R158). -/
def Obligations.IndexLinesAndSignals : Prop :=
  ∀ (r n : Nat) (s : State) (x : Rood), Works s r x →
    (∀ cons, s.dev.linkFull = true → NonePosted x →
      ∃ t, exec (.hostIndexLineSnoop r n cons) s = .next t ∧
        Becomes t r x { x with crings := modIdx n (fun q => { q with cons := cons % 2 ^ 32 }) x.crings }) ∧
    (∀ i, s.dev.linkFull = true → x.irings[n]? = some i → x.quiet = false → x.cacheOff = false →
      ∃ t, exec (.iringConsWrite r n) s = .next t ∧
        Becomes t r x { x with
          host := memWrite x.host (x.regs.idxBase.toNat + 64 + 4 * n) (leBytes 4 i.next)
          irings := modIdx n (fun j => { j with consWritten := j.next }) x.irings }) ∧
    ∀ q e, x.crings[n]? = some q → 0 < q.unsignalled → x.quiet = false → x.regs.msix[q.vector]? = some e →
      ∃ t, exec (.cringModTimeout r n) s = .next t ∧
        (e.masked = false → .msix (r + 1) q.vector ∈ t.dev.out) ∧
        Becomes t r x { x with
          crings := modIdx n (fun k => { k with unsignalled := 0, oldest := 0 }) x.crings
          regs := { x.regs with msix := if e.masked then x.regs.msix.set q.vector { e with pend := true } else x.regs.msix } }

/-- Unmasking a vector clears its pending bit and sends the message that was held, in the physical function as in a rood's
(R158, R514). A translation that is removed and succeeds again changes nothing. One that fails ends a converting command with
ST_CANCELLED and RESULT zero, its fault logged (R148, R150). -/
def Obligations.HeldSignalsAndLostTranslations : Prop :=
  (∀ (vec : Nat) (e : MsixEntry) (s : State),
     (s.dev.regs.msix[vec]? = some e →
       ∃ t, exec (.msixUnmask 0 vec) s = .next t ∧ t.clock = s.clock ∧ t.pins = s.pins ∧ t.tap = s.tap ∧
         t.dev = { s.dev with
           regs := { s.dev.regs with msix := s.dev.regs.msix.set vec { e with masked := false, pend := false } }
           out := s.dev.out ++ if e.pend then [.msix 0 vec] else [] }) ∧
     ∀ (r : Nat) (x : Rood), Works s r x → x.quiet = false → x.regs.msix[vec]? = some e →
       ∃ t, exec (.msixUnmask (r + 1) vec) s = .next t ∧ (e.pend = true → .msix (r + 1) vec ∈ t.dev.out) ∧
         Becomes t r x { x with regs := { x.regs with msix := x.regs.msix.set vec { e with masked := false, pend := false } } }) ∧
  (∀ (r c : Nat) (s : State) (x : Rood) (d : Cmd) (q : CRing), Works s r x → x.cmd? c = some d →
     (∃ t, exec (.atsInvalidation r c true) s = .next t ∧ Becomes t r x x) ∧
     (d.opcode = 0x02 ∨ d.opcode = 0x04 → d.stage = .converting → CanReport x d q →
       ∃ t y, exec (.atsInvalidation r c false) s = .next t ∧ Becomes t r x y ∧
         HostSide { x with regs := { x.regs with addrFault := true } } y ∧ y.regs.log.head = x.regs.log.head + 1 ∧
         Reported x y d q { d.record stCancelled with yield := yCancel }))

/-- A host write at an address that HDM decoder r decodes puts its bytes into the staging region at their offset in the window,
and nothing else changes but the decoder, which the row programs (log entry 72). Clean data makes the lines that it covers whole
good, poison makes the lines that it touches bad. An address that the 8 GiB window does not hold does not exist (R51, R52, R160),
and without CXL.mem nothing is written (R163). -/
def Obligations.BulkWindowHoldsItsBytes : Prop :=
  ∀ (r base addr : Nat) (bytes : List Byte) (poison : Bool) (s : State) (x : Rood), Works s r x → bytes ≠ [] →
    (base ≤ addr → addr + bytes.length ≤ base + 2 ^ 33 → let off := addr - base
      (s.dev.linkFull = false → exec (.bulkWindowWrite r ⟨base, addr⟩ bytes poison) s = .next s) ∧
      (s.dev.linkFull = true → ∃ t y, exec (.bulkWindowWrite r ⟨base, addr⟩ bytes poison) s = .next t ∧ DeviceStays s t ∧
        (∀ k, k ≠ r → t.dev.rood? k = s.dev.rood? k) ∧ Becomes t r x y ∧
        y = { x with staging := y.staging, stagingBad := y.stagingBad, hdm := { base := base, size := 2 ^ 33, committed := true } } ∧
        (∀ i, i < bytes.length → memRead y.staging (off + i) = bytes.getD i 0) ∧
        (∀ a, a < off ∨ off + bytes.length ≤ a → memRead y.staging a = memRead x.staging a) ∧
        (Memory.wf x.staging → Memory.wf y.staging) ∧
        (poison = false → ∀ l, off ≤ 64 * l → 64 * l + 64 ≤ off + bytes.length → lookKey l y.stagingBad = none) ∧
        (poison = true → ∀ l, off < 64 * l + 64 → 64 * l < off + bytes.length → lookKey l y.stagingBad = some false))) ∧
    (addr < base ∨ base + 2 ^ 33 < addr + bytes.length →
      exec (.bulkWindowWrite r ⟨base, addr⟩ bytes poison) s = .fault .outsideBulkWindow)

/-- Setting ENABLE of a ring: an intake ring begins at consumer index 0 and IRING_CONS_n is written as 0, a completion ring at
producer index 0, where a record that was held is written with PHASE 1. A size outside 6 to 16, an address that does not
translate, and a size written while the ring is enabled are refused (R131, R132, R133, R135, R519). -/
def Obligations.RingsAreEnabled : Prop :=
  ∀ (r n : Nat) (v : W32) (s : State) (x : Rood), Works s r x → NonePosted x → bitAt v.toNat 31 = true → x.quiet = false →
    let k := bitsOf v.toNat 16 4
    (∀ i, x.irings[n]? = some i → i.enable = false →
      (6 ≤ k →
        ∃ t, exec (.iringCtlWrite r n v true) s = .next t ∧
          Becomes t r x { x with
            host := if x.cacheOff then x.host else memWrite x.host (x.regs.idxBase.toNat + 64 + 4 * n) (leBytes 4 0)
            irings := modIdx n (fun j => { j with
              enable := true, sizeLog2 := k, cring := bitsOf v.toNat 8 3, next := 0, consWritten := 0, lines := [] }) x.irings }) ∧
      (k < 6 → ∀ ok, ∃ t y, exec (.iringCtlWrite r n v ok) s = .next t ∧ Becomes t r x y ∧
        RefusedWrite x y 1 (0x210 + 32 * n) ∧ (y.irings[n]?).map (fun j => j.enable) = some false) ∧
      (6 ≤ k → ∃ t y, exec (.iringCtlWrite r n v false) s = .next t ∧ Becomes t r x y ∧
        RefusedWrite x y 3 (0x210 + 32 * n) ∧ (y.irings[n]?).map (fun j => j.enable) = some false)) ∧
    (∀ i, x.irings[n]? = some i → i.enable = true → k ≠ i.sizeLog2 →
      ∀ ok, ∃ t y, exec (.iringCtlWrite r n v ok) s = .next t ∧ Becomes t r x y ∧ RefusedWrite x y 2 (0x210 + 32 * n) ∧
        y.irings[n]? = some { i with cring := bitsOf v.toNat 8 3 }) ∧
    (∀ q, x.crings[n]? = some q → q.enable = false → q.held = [] →
      (6 ≤ k →
        ∃ t, exec (.cringCtlWrite r n v true) s = .next t ∧
          Becomes t r x { x with crings := modIdx n (fun j => { j with
            enable := true, sizeLog2 := k, vector := bitsOf v.toNat 8 5, prod := 0 }) x.crings }) ∧
      (k < 6 → ∀ ok, ∃ t y, exec (.cringCtlWrite r n v ok) s = .next t ∧ Becomes t r x y ∧
        RefusedWrite x y 1 (0x214 + 32 * n) ∧ (y.crings[n]?).map (fun j => j.enable) = some false)) ∧
    ∀ q h, x.crings[n]? = some q → q.enable = false → q.held = [h] → h.result.length = 4 → q.sizeLog2 = k → 6 ≤ k → x.cacheOff = false →
      ∃ t y, exec (.cringCtlWrite r n v true) s = .next t ∧ Becomes t r x y ∧ HostSide x y ∧
        (∀ i, i < 32 → memRead y.host (q.base.toNat + i) = (h.bytes 0 k).getD i 0) ∧
        (y.crings[n]?).map (fun j => (j.enable, j.prod, j.held)) = some (true, 1, [])

/-- ROOD_IDX_BASE is ignored while a ring has ENABLE or ACTIVE set; ROOD_CKP_CTL ignores a write with TARGET 2 or 3 as a whole
and sets the configuration error bit; a write of LINEAGE takes effect while no checkpoint or restore is busy, and the next
sequence number is then 1; a write of zero is ignored (R400, R401, R414, R519, Tables 14.1, 14.4). -/
def Obligations.WritesThatRoodsJudge : Prop :=
  ∀ (r : Nat) (v : W64) (s : State) (x : Rood), Works s r x →
    (x.ringsActive = false →
      ∃ t, exec (.idxBaseWrite r v) s = .next t ∧
        Becomes t r x { x with regs := { x.regs with idxBase := BitVec.ofNat 64 (v.toNat / 128 * 128) } }) ∧
    (x.ringsActive = true →
      ∃ t y, exec (.idxBaseWrite r v) s = .next t ∧ Becomes t r x y ∧ RefusedWrite x y 2 0x100 ∧
        y.irings = x.irings ∧ y.crings = x.crings) ∧
    (bitsOf v.toNat 4 2 ≤ 1 →
      ∃ t, exec (.ckpCtlWrite r v) s = .next t ∧
        Becomes t r x { x with regs := { x.regs with ckpCtl := v &&& 0xFFFFFFFFFFFFFFF7 } }) ∧
    (2 ≤ bitsOf v.toNat 4 2 →
      ∃ t y, exec (.ckpCtlWrite r v) s = .next t ∧ Becomes t r x y ∧ RefusedWrite x y 4 0x500 ∧
        y.irings = x.irings ∧ y.crings = x.crings) ∧
    (v ≠ 0 → x.ckpBusy = false → x.ckpPending = false →
      ∃ t, exec (.lineageWrite r v) s = .next t ∧
        Becomes t r x { x with regs := { x.regs with lineage := v }, ckp := { x.ckp with nextSeq := 1, ref := none } }) ∧
    (v = 0 ∨ x.ckpBusy = true ∨ x.ckpPending = true → ∃ t, exec (.lineageWrite r v) s = .next t ∧ Becomes t r x x)

/-- A write of the window of a rood's function: RW1C bits clear where a one is written, RW fields take what their map gives, RO
registers stay, and on SLT-2400-S ROOD_CHAIN_ACCEPT, ROOD_MIRROR and ROOD_CKP_PEERS ignore it (R15, R397, R398, R420, R515). -/
def Obligations.RegistersTakeWhatTheirMapsGive : Prop :=
  ∀ (r : Nat) (v : W64) (s : State) (x : Rood), Works s r x →
    (∃ t, exec (.registerWrite (r + 1) 0x00 4 v) s = .next t ∧
      Becomes t r x { x with regs := { x.regs with
        logEvent := x.regs.logEvent && !v.getLsbD 3, addrFault := x.regs.addrFault && !v.getLsbD 2
        misaccess := x.regs.misaccess && !v.getLsbD 1, configErr := x.regs.configErr && !v.getLsbD 0 } }) ∧
    (∃ t, exec (.registerWrite (r + 1) 0x18 4 v) s = .next t ∧
      Becomes t r x { x with regs := { x.regs with evtEnable := v.getLsbD 31, evtVector := v.toNat % 32 } }) ∧
    (∀ k, k < 3 → ∃ t, exec (.registerWrite (r + 1) (0x400 + 4 * k) 4 v) s = .next t ∧
      Becomes t r x { x with regs := { x.regs with latLimit := x.regs.latLimit.set k (v.toNat % 2 ^ 32) } }) ∧
    (∃ t, exec (.registerWrite (r + 1) 0x410 4 v) s = .next t ∧
      Becomes t r x { x with regs := { x.regs with frameFloor := v.toNat % 2 ^ 26 } }) ∧
    (∀ off, off ∈ [0x08, 0x10] → ∃ t, exec (.registerWrite (r + 1) off 8 v) s = .next t ∧ Becomes t r x x) ∧
    (∃ t, exec (.registerWrite (r + 1) 0x600 8 v) s = .next t ∧
      Becomes t r x (if s.dev.variant = 1 then x
        else { x with regs := { x.regs with chainAccept := v &&& 0xFFFFFFFF80000700 } })) ∧
    (∃ t, exec (.registerWrite (r + 1) 0x608 4 v) s = .next t ∧
      Becomes t r x (if s.dev.variant = 1 then x
        else { x with regs := { x.regs with mirror := v.setWidth 32 &&& 0x80000F1F } })) ∧
    ∃ t, exec (.registerWrite (r + 1) 0x508 8 v) s = .next t ∧
      Becomes t r x (if s.dev.variant = 1 then x
        else { x with regs := { x.regs with ckpPeers := v &&& 0x00001F0FFFFFFFFF } })

/-- An access of another width than its register's, or misaligned, reads zero, writes nothing and is logged as an access entry
with cause 1, in a rood's window as in the device's; while the device is not composed a rood's window logs nothing (R18, R79,
R513, R515). HOST_CAP takes a value from 300 W to 1,100 W; another is ignored and logged. START of DEV_SNAP_CTL latches the
device set, and a request beside a running snapshot joins it (R433, R505, R507). -/
def Obligations.WindowAccessesAreJudged : Prop :=
  (∀ (off width : Nat) (w : Bool) (s : State),
     (∀ (r : Nat) (x : Rood), Works s r x → off < 2 ^ 20 → inMsix 32 off = false → accessCause roodRegAt off width = 1 →
       s.readReg (r + 1) off width = 0 ∧
       ∃ t y, exec (.registerMisaccess (r + 1) off width w) s = .next t ∧ Becomes t r x y ∧
         HostSide { x with regs := { x.regs with misaccess := true } } y ∧ y.irings = x.irings ∧ y.crings = x.crings ∧
         y.host = x.host ∧ y.cmds = x.cmds ∧
         ∃ k, y.regs.log = x.regs.log.write 64 k ∧ k.kind = 0x03 ∧ k.code % 4 = 1 ∧ k.detail = off ∧ k.rood = r) ∧
     (s.dev.windowOpen = true → off < 2 ^ 26 → inMsix 8 off = false → accessCause devRegAt off width = 1 →
       s.readReg 0 off width = 0 ∧
       ∃ t, exec (.registerMisaccess 0 off width w) s = .next t ∧ t.clock = s.clock ∧ t.pins = s.pins ∧
         t.dev.regs.misaccess = true ∧ t.dev.roods = s.dev.roods ∧ t.dev.energy = s.dev.energy ∧ t.dev.integ = s.dev.integ ∧
         ∃ k, t.dev.regs.log = s.dev.regs.log.write 256 k ∧ k.kind = 0x03 ∧ k.code % 4 = 1 ∧ k.detail = off) ∧
     ∀ fn, s.dev.roodsLive = false → s.readReg (fn + 1) off width = 0 ∧
       exec (.registerMisaccess (fn + 1) off width w) s = .next s) ∧
  (∀ s : State, s.dev.windowOpen = true →
     (∀ w, w < 65536 →
       ∃ t, exec (.hostCapWrite w) s = .next t ∧ t.clock = s.clock ∧ t.pins = s.pins ∧ t.dev.roods = s.dev.roods ∧
         t.dev.integ = s.dev.integ ∧ t.dev.boot = s.dev.boot ∧
         (300 ≤ w → w ≤ 1100 → t.dev.energy = { s.dev.energy with hostCap := w } ∧ t.dev.regs.log = s.dev.regs.log) ∧
         (w < 300 ∨ 1100 < w → t.dev.energy = s.dev.energy ∧ t.dev.regs.log.head = s.dev.regs.log.head + 1)) ∧
     ∀ v : W64, v.getLsbD 31 = true → s.dev.boot.phase = .ready →
       ∃ t, exec (.devSnapStart v) s = .next t ∧ t.clock = s.clock ∧ t.pins = s.pins ∧ t.dev.roods = s.dev.roods ∧
         t.dev.counters = s.dev.counters ∧
         t.dev.snap = if s.dev.snap.busy then s.dev.snap
           else { s.dev.snap with
             busy := true, latched := (List.range 32).map (fun i => counterGet ⟨.device, 0, i⟩ s.dev.counters) })

/-! ## Loaded objects (chapters 5, 7, 11) -/

/-- MDL_LOAD, MDL_UNLOAD, TOK_LOAD and LST_SET proceed one at a time in their order of acceptance: one that fails its first
checks completes at once, one behind another waits, and none is judged before an earlier one (R238, R241, R145, Table 7.10). -/
def Obligations.LoadsWaitTheirTurn : Prop :=
  ∀ (op r c : Nat) (s : State) (x : Rood) (d : Cmd) (q : CRing), 0x10 ≤ op → op ≤ 0x13 → Works s r x → Accepted x c op d →
    ((∃ k ∈ x.cmds, k.id < d.id ∧ k.stage = .accepted ∧ 0x10 ≤ k.opcode ∧ k.opcode ≤ 0x13) →
      ∃ t, exec (loadRow op r c) s = .next t ∧ Becomes t r x x) ∧
    (CanReport x d q → x.unjudgedBefore loadOps d = false →
      (d.loadCheck ≠ 0 → ∃ t, exec (loadRow op r c) s = .next t ∧ Ends t r x x d q (d.record d.loadCheck)) ∧
      (d.loadCheck = 0 → x.partCheck d ≠ 0 → ∃ t, exec (loadRow op r c) s = .next t ∧ Ends t r x x d q (d.record (x.partCheck d))) ∧
      (d.loadCheck = 0 → x.partCheck d = 0 → x.obj.queue ≠ [] →
        ∃ t, exec (loadRow op r c) s = .next t ∧
          Becomes t r x { x with
            obj := { x.obj with queue := x.obj.queue ++ [d.id] }
            cmds := x.cmds.map (fun k => if k.id == d.id then { d with stage := .waiting } else k) }))

/-- The first part of an image opens the load of its slot with the envelope's key: parts cut elsewhere, or whose header breaks
check 3 of Table 7.10, give ST_FORMAT, and an envelope that does not open gives ST_AUTH. A part of another slot than the open
load's gives ST_BAD_STATE and one cut elsewhere than R236 has it ST_FORMAT (R238), a staging line with an uncorrectable error ST_SUSPECT, and a chunk that does not authenticate ends
the load with ST_AUTH (R62, R64, R236, R237, Tables 7.10, 16.2). -/
def Obligations.PartsOfAnImageAreCollected : Prop :=
  ∀ (r c : Nat) (s : State) (x : Rood) (d : Cmd) (q : CRing), Works s r x → Accepted x c 0x10 d → CanReport x d q →
    d.loadCheck = 0 → x.unjudgedBefore loadOps d = false → x.obj.queue = [] →
    (∀ bytes, x.obj.openLoad = none → CleanBulk x d bytes →
      (imgCutOk bytes bytes.length = false ∨ imgHeaderOk d.kind bytes = false →
        ∃ t, exec (.mdlLoad r c) s = .next t ∧ Ends t r x x d q (d.record stFormat)) ∧
      (imgCutOk bytes bytes.length = true → imgHeaderOk d.kind bytes = true →
        (imgUnwrap s.dev.boot.dxk bytes = none →
          ∃ t, exec (.mdlLoad r c) s = .next t ∧ Ends t r x x d q (d.record stAuth)) ∧
        ∀ k, imgUnwrap s.dev.boot.dxk bytes = some k → wholeChunks bytes = 0 → bytes.length < imgFileLen bytes →
          ∃ t, exec (.mdlLoad r c) s = .next t ∧
            Ends t r x { x with obj := { x.obj with openLoad := some {
                kind := d.kind, slot := d.objSlot, file := bytes, chunks := 0, body := [], cek := k, image := none, frames := [] } } } d q
              { d.record stOk with result := [x.obj.loadSeq, 0, 0, 0] })) ∧
    ∀ l, x.obj.openLoad = some l → l.file.length < imgFileLen l.file →
      (l.kind ≠ d.kind ∨ l.slot ≠ d.objSlot →
        ∃ t, exec (.mdlLoad r c) s = .next t ∧ Ends t r x x d q (d.record stBadState)) ∧
      (l.kind = d.kind → l.slot = d.objSlot → imgCutOk l.file (l.file.length + d.bulkLen) = false →
        ∃ t, exec (.mdlLoad r c) s = .next t ∧ Ends t r x x d q (d.record stFormat)) ∧
      (l.kind = d.kind → l.slot = d.objSlot → imgCutOk l.file (l.file.length + d.bulkLen) = true →
        (d.bulkLen ≠ 0 → (∃ k ∈ touchedLines d.bulkOff d.bulkLen, lookKey k x.stagingBad = some true) →
          ∃ t, exec (.mdlLoad r c) s = .next t ∧ Ends t r x x d q (d.record stSuspect)) ∧
        ∀ bytes, CleanBulk x d bytes → imgCutOk (l.file ++ bytes) (l.file ++ bytes).length = true →
          l.chunks < wholeChunks (l.file ++ bytes) → imgChunk l.cek (l.file ++ bytes) l.chunks = none →
          ∃ t, exec (.mdlLoad r c) s = .next t ∧
            Ends t r x (({ x with obj := { x.obj with openLoad := none } } : Rood).giveRoom l.frames) d q (d.record stAuth))

/-- A closed load takes effect between steps: its slot holds the image, LOAD_SEQ moves on, EVENT_CHAIN absorbs the event, and
the command reports LOAD_SEQ; sessions keep their entries (R70, R239, Table 2.9). While a crew is in a step nothing happens. An
unload takes effect between steps: its slot is empty, with its frames, CEK and crews gone, LOAD_SEQ and EVENT_CHAIN moved (R65,
R70, R240); every other slot and every session stays. -/
def Obligations.ImagesComeAndGoBetweenSteps : Prop :=
  (∀ (r : Nat) (s : State) (x : Rood) (d : Cmd) (q : CRing) (l : OpenLoad) (im : ImageKind), Works s r x →
     x.readyLoad 0x10 = some d → CanReport x d q → x.obj.openLoad = some l → l.image = some im →
     (x.betweenSteps = false → ∃ t, exec (.mdlLoadTakeEffect r) s = .next t ∧ Becomes t r x x) ∧
     (x.betweenSteps = true → x.seqs = [] → StepsHeld x →
       ∃ t z i, exec (.mdlLoadTakeEffect r) s = .next t ∧
         Ends t r x z d q { d.record stOk with result := [z.obj.loadSeq, 0, 0, 0] } ∧ z.cmds = x.cmds ∧ z.host = x.host ∧
         z.slots = x.slots ∧ z.heldImage l.kind l.slot = some i ∧ i.kind = im ∧ i.loadSeq = z.obj.loadSeq ∧
         i.loadTime = s.clock.time ∧ i.digest = sha384 l.file ∧ i.frames = l.frames ∧ z.obj.openLoad = none ∧
         z.tally.loads = x.tally.loads + 1 ∧
         (∀ k n, k ≠ l.kind ∨ n ≠ l.slot → k ≤ 1 → l.kind ≤ 1 → z.heldImage k n = x.heldImage k n) ∧
         (x.heldImage l.kind l.slot = none →
           z.kv = x.kv ∧ z.obj.loadSeq = (x.obj.loadSeq + 1) % 2 ^ 32 ∧
           z.obj.eventChain = sha384 (x.obj.eventChain ++
             objectEntry (1 + l.kind) l.slot z.obj.loadSeq s.clock.time (sha384 l.file))))) ∧
  (∀ (r : Nat) (s : State) (x : Rood) (d : Cmd) (q : CRing) (i : Image), Works s r x → x.readyLoad 0x11 = some d →
     CanReport x d q → x.heldImage d.kind d.objSlot = some i → x.betweenSteps = true → x.seqs = [] → StepsHeld x →
     ∃ t z, exec (.mdlUnloadTakeEffect r) s = .next t ∧
       Ends t r x z d q { d.record stOk with result := [(x.obj.loadSeq + 1) % 2 ^ 32, 0, 0, 0] } ∧ z.cmds = x.cmds ∧
       z.host = x.host ∧ z.slots = x.slots ∧ z.heldImage d.kind d.objSlot = none ∧
       (∀ n, n ≠ d.objSlot → z.heldImage d.kind n = x.heldImage d.kind n) ∧
       (∀ n, z.heldImage (1 - d.kind) n = x.heldImage (1 - d.kind) n) ∧ z.obj.loadSeq = (x.obj.loadSeq + 1) % 2 ^ 32 ∧
       z.obj.eventChain = sha384 (x.obj.eventChain ++
         objectEntry (0x81 + d.kind) d.objSlot z.obj.loadSeq s.clock.time i.digest) ∧
       (d.kind = 0 → ∀ k ∈ z.crews, k.model ≠ d.objSlot) ∧ z.kv = i.frames.foldl (fun k a => k.unref a) x.kv)

/-- MDL_UNLOAD of a held slot waits to take effect between steps; of a slot that collects a load, it ends that load with
ST_CANCELLED; of an empty slot it gives ST_BAD_STATE. Its turn in the queue comes the same way (R237, R240, R241). -/
def Obligations.UnloadsBegin : Prop :=
  ∀ (r c : Nat) (s : State) (x : Rood) (d : Cmd) (q : CRing), Works s r x → x.cmd? c = some d → d.opcode = 0x11 →
    CanReport x d q → d.loadCheck = 0 →
    (d.stage = .accepted → x.unjudgedBefore loadOps d = false → x.obj.queue = [] →
      (∀ l, x.obj.openLoad = some l → l.kind = d.kind → l.slot = d.objSlot →
        ∃ t z, exec (.mdlUnload r c) s = .next t ∧ z.obj = { x.obj with openLoad := none } ∧ z.cmds = x.cmds ∧ z.host = x.host ∧
          Ends t r x z d q { d.record stCancelled with result := [x.obj.loadSeq, 0, 0, 0] }) ∧
      (x.obj.openLoad = none → x.heldImage d.kind d.objSlot = none →
        ∃ t, exec (.mdlUnload r c) s = .next t ∧ Ends t r x x d q (d.record stBadState)) ∧
      (x.obj.openLoad = none → (x.heldImage d.kind d.objSlot).isSome = true →
        ∃ t, exec (.mdlUnload r c) s = .next t ∧
          Becomes t r x { x with
            obj := { x.obj with queue := [d.id] }
            cmds := x.cmds.map (fun k => if k.id == d.id then { d with stage := .ready } else k) })) ∧
    (d.stage = .waiting → x.obj.queue.head? = some c → x.obj.openLoad = none → (x.heldImage d.kind d.objSlot).isSome = true →
      ∃ t, exec (.loadQueueAdvance r) s = .next t ∧
        Becomes t r x { x with
          cmds := x.cmds.map (fun k => if k.id == d.id then { d with stage := .ready } else k) })

/-- TOK_LOAD of a table that Table 5.3 passes puts it in force, LOAD_SEQ and EVENT_CHAIN moved; another gives ST_FORMAT; with
two tables held it waits for the older one's release (R166, R169). LST_SET puts a version of its list set in force, with frames
for its automaton; a set that breaks chapter 11 gives ST_FORMAT, and a pool without room ST_ADMIT_MEM (R317 to R322). -/
def Obligations.TablesAndListSetsAreLoaded : Prop :=
  (∀ (r c : Nat) (s : State) (x : Rood) (d : Cmd) (q : CRing) (bytes : List Byte), Works s r x → Accepted x c 0x12 d →
     CanReport x d q → d.loadCheck = 0 → x.unjudgedBefore loadOps d = false → x.obj.queue = [] → CleanBulk x d bytes →
     (tokTableOk bytes d.bulkLen = false →
       ∃ t, exec (.tokLoad r c) s = .next t ∧ Ends t r x x.releaseTables d q (d.record stFormat)) ∧
     (tokTableOk bytes d.bulkLen = true → x.obj.tables = [] →
       ∃ t z, exec (.tokLoad r c) s = .next t ∧
         Ends t r x z d q { d.record stOk with result := [(x.obj.loadSeq + 1) % 2 ^ 32, 0, 0, 0] } ∧
         z = { x with obj := z.obj, tally := { x.tally with loads := x.tally.loads + 1 }, lex := z.lex } ∧
         (∀ l ∈ z.lex, ∀ a ∈ l, a.table = z.obj.loadSeq) ∧
         z.obj = { x.obj with
           loadSeq := (x.obj.loadSeq + 1) % 2 ^ 32
           eventChain := sha384 (x.obj.eventChain ++
             objectEntry 0x03 0 ((x.obj.loadSeq + 1) % 2 ^ 32) s.clock.time (sha384 bytes))
           tables := [{ loadSeq := (x.obj.loadSeq + 1) % 2 ^ 32, loadTime := s.clock.time, bytes := bytes, digest := sha384 bytes }] }) ∧
     (tokTableOk bytes d.bulkLen = true → 2 ≤ x.releaseTables.obj.tables.length →
       ∃ t y, exec (.tokLoad r c) s = .next t ∧ Becomes t r x y ∧ y.obj.queue = [d.id] ∧
         y.obj.tables = x.releaseTables.obj.tables ∧ y.obj.loadSeq = x.obj.loadSeq ∧
         (y.cmd? c).map (fun k => k.stage) = some .running)) ∧
  (∀ (r c : Nat) (s : State) (x : Rood) (d : Cmd) (q : CRing) (bytes : List Byte), Works s r x → Accepted x c 0x13 d →
     CanReport x d q → d.loadCheck = 0 → x.unjudgedBefore loadOps d = false → x.obj.queue = [] → CleanBulk x d bytes → x.obj.lists = [] →
     (lstOk bytes d.bulkLen = false → ∃ t, exec (.lstSet r c) s = .next t ∧ Ends t r x x d q (d.record stFormat)) ∧
     (lstOk bytes d.bulkLen = true → x.roomFor (automatonNeeds bytes) = false →
       ∃ t, exec (.lstSet r c) s = .next t ∧ Ends t r x x d q (d.record stAdmitMem)) ∧
     (lstOk bytes d.bulkLen = true → x.roomFor (automatonNeeds bytes) = true →
       ∃ t z v, exec (.lstSet r c) s = .next t ∧
         Ends t r x z d q { d.record stOk with result := [(x.obj.loadSeq + 1) % 2 ^ 32, 0, 0, 0] } ∧ z.cmds = x.cmds ∧
         z.host = x.host ∧ z.slots = x.slots ∧ z.obj.lists = [v] ∧ v.num = d.f 16 0 8 ∧
         v.loadSeq = (x.obj.loadSeq + 1) % 2 ^ 32 ∧ v.loadTime = s.clock.time ∧ v.bytes = bytes ∧ v.digest = sha384 bytes ∧
         (v.banned, v.forced) = lstSequences bytes ∧ z.obj.loadSeq = v.loadSeq ∧ z.obj.models = x.obj.models ∧
         z.obj.tables = x.obj.tables))

/-- A replaced table or list-set version is held while a command uses it; its frames and the nodes that the lexicon caches hold of
it go after, and a load that waited for it takes effect with what it has read (R169, R173, R322). Frames whose zeroing ends return
to the pool, but for those that a running checkpoint still copies (R247, R407). -/
def Obligations.ReplacedObjectsAreReleased : Prop :=
  ∀ (r : Nat) (s : State) (x : Rood), Works s r x →
    (x.waitingLoad 0x12 = none →
      ∃ t y, exec (.tokenizerTableRelease r) s = .next t ∧ Becomes t r x y ∧
        y = { x with obj := { x.obj with tables := y.obj.tables }, lex := y.lex } ∧ y.tableNow = x.tableNow ∧
        (∀ k, k ∈ y.obj.tables.drop 1 ↔ k ∈ x.obj.tables.drop 1 ∧ ∃ c ∈ x.cmds, c.tokSeq = k.loadSeq) ∧
        ∀ l ∈ y.lex, ∀ a ∈ l, ∃ k ∈ y.obj.tables, k.loadSeq = a.table) ∧
    (∀ d q, x.waitingLoad 0x12 = some d → CanReport x d q → x.releaseTables.obj.tables.length < 2 →
      ∃ t z, exec (.tokenizerTableRelease r) s = .next t ∧ z.cmds = x.cmds ∧ z.host = x.host ∧ z.slots = x.slots ∧
        z.tableNow.map (fun k => k.bytes) = some d.object ∧
        Ends t r x z d q { d.record stOk with result := [z.obj.loadSeq, 0, 0, 0] }) ∧
    (∀ set, x.waitingLoad 0x13 = none →
      ∃ t y, exec (.listSetVersionRelease r set) s = .next t ∧ Becomes t r x y ∧
        y = { x with obj := { x.obj with lists := y.obj.lists }, kv := y.kv } ∧
        ∀ v, v ∈ y.obj.lists ↔ v ∈ x.obj.lists ∧ (x.newest v = true ∨ ∃ c ∈ x.cmds, c.listSeq = v.loadSeq)) ∧
    ∃ t y, exec (.frameZeroed r) s = .next t ∧ Becomes t r x y ∧ y.kv.frames = x.kv.frames ∧ y.kv.lines = x.kv.lines ∧
      y.slots = x.slots ∧ (x.ckp.run = none → y.kv.zeroing = []) ∧
      ∀ k, x.ckp.run = some k → ∀ a, a ∈ y.kv.zeroing ↔ a ∈ x.kv.zeroing ∧
        ((∃ b, (a, b) ∈ k.next.numbers ∧ ∃ f ∈ k.next.image.frames, f.num = b) ∨
          ∃ v ∈ k.next.image.vectors, a ∈ v.index.nodeFrames ∨ a ∈ v.index.tableFrames ∨ a = v.index.rootFrame)

/-! ## Vector indexes (chapter 12) -/

/-- A vector command that fails its first checks completes at once; a serial command behind an earlier one of its index waits
(R337, R338, R363, Tables 12.1, 12.8). A query of a damaged index is FLAGGED (R462). That a waiting VEC_INSERT is checked as
it is accepted is the model's reading (log entry 78). -/
def Obligations.VectorCommandsTakeTheirTurn : Prop :=
  ∀ (op r c : Nat) (ok : Bool) (s : State) (x : Rood) (d : Cmd) (q : CRing), 0x20 ≤ op → op ≤ 0x25 → Works s r x →
    Accepted x c op d → CanReport x d q →
    let st := x.vecCheck (ctxOf s) d (vecBuf op ok)
    (st ≠ 0 → ∃ t, exec (vecRow op r c ok) s = .next t ∧ Ends t r x (x.vecGone d) d q { d.record st with
      flagged := d.flagged || (op == 0x23 && (x.vec? d.index).any (fun v => v.damaged)) }) ∧
    (st = 0 → x.vecWaits d = true →
      ∃ t, exec (vecRow op r c ok) s = .next t ∧
        Becomes t r x { x with
          vecQueue := x.vecQueue ++ [d.id]
          cmds := x.cmds.map (fun k => if k.id == d.id then { x.latchItems d with stage := .waiting } else k) })

/-- VEC_CREATE reserves the frames of its index, which begins with COMMIT 0 and no node; an index that exists gives
ST_BAD_STATE, and a pool without the frames ST_ADMIT_MEM (R338, R339, R340, Table 12.4). VEC_DROP, at once or when its turn
comes: the index goes, and its frames have returned to the pool as it completes. A peer's list that does not come within 50 ms ends its query with ST_PEER (R363,
R364, R368). -/
def Obligations.IndexesAreCreatedAndDropped : Prop :=
  (∀ (r c : Nat) (s : State) (x : Rood) (d : Cmd) (q : CRing), Works s r x → VecTurn s x 0x20 c true d → CanReport x d q →
     let n := vecFrameCounts (d.f 16 4 4) (d.f 20 0 16) (d.f 20 16 16) (d.f 24 0 32)
     ((x.vec? d.index).isSome = true →
       ∃ t, exec (.vecCreate r c) s = .next t ∧ Ends t r x (x.vecGone d) d q (d.record stBadState)) ∧
     (x.vec? d.index = none → x.framesOpen < n.1 + n.2 + 1 →
       ∃ t, exec (.vecCreate r c) s = .next t ∧ Ends t r x (x.vecGone d) d q (d.record stAdmitMem)) ∧
     (x.vec? d.index = none → n.1 + n.2 + 1 ≤ x.framesOpen →
       ∃ t v k, exec (.vecCreate r c) s = .next t ∧ v.num = d.index ∧ v.elemFmt = d.f 16 4 4 ∧ v.metric = d.f 16 8 4 ∧
         v.dim = d.f 20 0 16 ∧ v.degree = d.f 20 16 16 ∧ v.capacity = d.f 24 0 32 ∧ v.nodes = [] ∧ v.damaged = false ∧
         v.root.commit = 0 ∧ v.root.live = 0 ∧ v.root.tombs = 0 ∧ v.root.free = d.f 24 0 32 ∧ v.root.entry = none ∧
         k.lines = x.kv.lines ∧
         Ends t r x { x.vecGone d with vecs := x.vecs ++ [v], kv := k } d q (d.record stOk))) ∧
  (∀ (r c : Nat) (s : State) (x : Rood) (d : Cmd) (q : CRing), Works s r x → x.cmd? c = some d → CanReport x d q →
     (∀ v i, d.opcode = 0x25 → x.vec? d.index = some v →
       (i = .vecDrop r c ∧ VecTurn s x 0x25 c true d) ∨ (i = .vecSerialAdvance r d.index ∧ x.vecNext d.index = some d) →
       ∃ t z, exec i s = .next t ∧ Ends t r x z d q (d.record stOk) ∧
         z = { x.vecGone d with
           vecs := x.vecs.filter (fun u => u.num != v.num), kv := z.kv
           ckp := { x.ckp with ref := z.ckp.ref, run := z.ckp.run } } ∧
         z.kv.frames = (v.frames.foldl (fun k a => k.unref a) x.kv).frames ∧ z.kv.lines = x.kv.lines ∧
         (x.ckp.run = none → z.ckp.run = none ∧ ∀ a ∈ v.frames, a ∉ z.kv.zeroing)) ∧
     ∀ o, x.vecOp? c = some o → o.cmd = c → o.sweep = true → o.waiting ≠ [] →
       ∃ t, exec (.vecPeerTimeout r c) s = .next t ∧ Ends t r x (x.vecGone d) d q { d.record stPeer with
         flagged := d.flagged || (d.opcode == 0x23 && (x.vec? d.index).any (fun v => v.damaged)) })

/-- A batch of vectors, of ids, or a compaction does its work on the index and waits for its commit, the next after COMMIT for a
batch; an item may take its vector from a session, whose entry then changes in GRAINS alone; an empty batch completes with
NOTHING_DONE (R347, R356, R358, R360, R361, R369). The end of a mutation sets COMMIT in the next root image, or damages the
index and gives ST_SUSPECT (R344, R347, R361, R462). -/
def Obligations.MutationsBeginAndEnd : Prop :=
  (∀ (r c : Nat) (s : State) (x : Rood) (d : Cmd) (q : CRing) (v : VecIndex) (bytes : List Byte), Works s r x →
     CanReport x d q → x.vec? d.index = some v → v.damaged = false →
     let started := fun (y : Rood) (w : VecIndex) (o : VecOp) => ({ y with
         vecs := x.vecs.map (fun u => if u.num == w.num then w else u), vecOps := x.vecOps ++ [o]
         vecQueue := x.vecQueue.filter (fun i => i != d.id)
         cmds := x.cmds.map (fun k => if k.id == d.id then { d with stage := .running, embeds := [] } else k) } : Rood)
     (let items := chunks (itemBytes v.dim) bytes;
       VecTurn s x 0x21 c true d → CleanBulk x d bytes → d.bulkLen = d.items * itemBytes v.dim → 0 < d.items →
       d.items ≤ v.freeSlots → items.all (itemOk v.dim) = true → d.failed = 0 →
       x.itemsCheck v.dim items = 0 →
       ∃ (t : State) (o : VecOp) (y : Rood), exec (.vecInsert r c) s = .next t ∧ o.cmd = d.id ∧ o.index = v.num ∧ o.sweep = false ∧
         o.commit = v.root.commit + 1 ∧ o.count = items.length ∧
         Becomes t r x (started { x with slots := y.slots }
           ((x.readItems v.dim items).2.foldl (fun w i => w.insert (v.root.commit + 1) i) v) o) ∧
         (∀ i, (y.entry? i).map (fun e => { e with grains := 0 }) = (x.entry? i).map (fun e => { e with grains := 0 })) ∧
         (items.all (fun b => u32At 4 b == 0) = true → y.slots = x.slots ∧ (x.readItems v.dim items).2 = items.map (fun b =>
           { element := u32At 0 b, version := BitVec.ofNat 64 (u64At 8 b)
             vector := (chunks 4 (cut 16 (4 * v.dim) b)).map leVal }))) ∧
     (VecTurn s x 0x22 c true d → CleanBulk x d bytes → 0 < d.items →
       ∃ t o w, exec (.vecDelete r c) s = .next t ∧ Becomes t r x (started x w o) ∧ o.cmd = d.id ∧ o.index = v.num ∧ o.sweep = false ∧
         o.commit = v.root.commit + 1 ∧
         w = (vecIds bytes).foldl (fun w id => (w.tombstone id (v.root.commit + 1)).1) v) ∧
     (∀ op, op = 0x21 ∨ op = 0x22 → VecTurn s x op c true d → d.items = 0 → d.bulkLen = 0 →
       ∃ t, exec (vecRow op r c true) s = .next t ∧
         Ends t r x (x.vecGone d) d q { d.record stOk with
           nothingDone := true, result := [0, 0, v.root.commit % 2 ^ 32, v.root.commit / 2 ^ 32] }) ∧
     (VecTurn s x 0x24 c true d → x.vecOps = [] →
       ∃ t o, exec (.vecCompact r c) s = .next t ∧ Becomes t r x (started x (v.compact v.root.commit).1 o) ∧ o.cmd = d.id ∧
         o.index = v.num ∧ o.sweep = false ∧ o.commit = v.root.commit ∧ o.count = (v.compact v.root.commit).2)) ∧
  (∀ (r : Nat) (s : State) (x : Rood) (d : Cmd) (q : CRing) (v : VecIndex) (o : VecOp), Works s r x →
     x.mutation v.num = some o → x.vec? v.num = some v → x.cmd? o.cmd = some d → d.opcode ≠ 0x23 → CanReport x d q → o.damaged = false →
     (∃ t w, exec (.vecMutationDone r v.num false) s = .next t ∧ w.root.commit = o.commit ∧
       w.root.serial = v.root.serial + 1 ∧ w.nodes = v.nodes ∧ w.root.live = v.live ∧ w.root.tombs = v.tombs ∧
       Ends t r x { x.vecGone d with vecs := x.vecs.map (fun u => if u.num == v.num then w else u) } d q
         { d.record stOk with
           result := if d.opcode = 0x24 then [o.count, 0, 0, 0] else [o.count, 0, o.commit % 2 ^ 32, o.commit / 2 ^ 32] }) ∧
     ∃ t, exec (.vecMutationDone r v.num true) s = .next t ∧
       Ends t r x { x.vecGone d with vecs := x.vecs.map (fun u => if u.num == v.num then { v with damaged := true } else u) } d q
         (d.record stSuspect))

/-- A query that names no peer starts its sweep over the index as it stands at COMMIT; one that names no index gives
ST_BAD_STATE, and one without queries completes with NOTHING_DONE (R348, R353). The end of a sweep writes k entries for each
query at RESULT_ADDR, then the headers where RESULT_LEN leaves room for them, and reports the bytes and the COMMIT that it saw;
it is FLAGGED when the index is damaged (R354, R462, Table 4.8). -/
def Obligations.QueriesSweepTheirIndex : Prop :=
  (∀ (r c : Nat) (ok : Bool) (s : State) (x : Rood) (d : Cmd) (q : CRing), Works s r x → VecTurn s x 0x23 c ok d →
     CanReport x d q → x.dropAhead d = false →
     (x.vec? d.index = none →
       ∃ t, exec (.vecQuery r c ok) s = .next t ∧ Ends t r x (x.vecGone d) d q (d.record stBadState)) ∧
     ∀ v, x.vec? d.index = some v → d.queryLen = d.queries * (4 * v.dim) → d.sharded = false →
       (d.queries = 0 →
         ∃ t, exec (.vecQuery r c ok) s = .next t ∧
           Ends t r x (x.vecGone d) d q { d.record stOk with
             flagged := d.flagged || v.damaged, nothingDone := true, result := [0, 0, v.root.commit % 2 ^ 32, v.root.commit / 2 ^ 32] }) ∧
       (d.queries ≠ 0 → d.queryLen ≠ 0 → (∀ k ∈ touchedLines d.queryOff d.queryLen, lookKey k x.stagingBad = none) →
         ∃ t o, exec (.vecQuery r c ok) s = .next t ∧ o.cmd = d.id ∧ o.index = v.num ∧ o.sweep = true ∧ o.waiting = [] ∧
           o.commit = v.root.commit ∧ o.count = d.queries ∧ o.damaged = v.damaged ∧
           o.answers = (readQueries v.dim (memReadN x.staging d.queryOff d.queryLen)).map
             (fun z => (v.answer v.root.commit d.vecL z).hits) ∧
           Becomes t r x { x with
             vecOps := x.vecOps ++ [o]
             cmds := x.cmds.map (fun k => if k.id == d.id then { d with stage := .running } else k)
             tally := { x.tally with vecScores := x.tally.vecScores +
               ((readQueries v.dim (memReadN x.staging d.queryOff d.queryLen)).flatMap
                 (fun z => (v.answer v.root.commit d.vecL z).scored)).length } })) ∧
  (∀ (r c : Nat) (s : State) (x : Rood) (d : Cmd) (q : CRing) (v : VecIndex) (o : VecOp), Works s r x → x.vecOp? c = some o →
     x.cmd? c = some d → d.opcode = 0x23 → d.index = o.index → CanReport x d q → o.sweep = true → o.waiting = [] → x.vec? o.index = some v → d.sharded = false →
     let rs := (List.range o.count).map (fun i => queryResult v.smallest d.vecK (o.nans.getD i 0) (o.answers.getD i []))
     let bytes := rs.flatMap (fun k => k.1) ++
       (if d.queries * (16 * d.vecK + 32) ≤ d.resultLen then rs.flatMap (fun k => k.2) else [])
     ∃ t, exec (.vecSweepDone r c) s = .next t ∧
       Ends t r x { x.vecGone d with host := memWrite x.host d.resultAddr bytes } d q
         { d.record stOk with
           flagged := d.flagged || o.damaged || v.damaged
           result := [d.queries, bytes.length, o.commit % 2 ^ 32, o.commit / 2 ^ 32] })

/-! ## Checkpoints and snapshots (chapters 14 and 18) -/

/-- A checkpoint to the rood's own flash is cut at once, or when its turn comes: it takes the next sequence number, records
every session at one instant, and leaves the sessions as they are; a pool without the copy buffers gives ST_ADMIT_MEM (R401,
R402, R404, R409, R410, R417); none is judged before an earlier checkpoint command. The end of a copy: durable, the checkpoint becomes the reference and completes with its sequence
number; a media error, a share that does not hold it, or a frame that an event has touched leaves the reference, but for the
record frame numbers that have been given (R408, R411, R412, R425). -/
def Obligations.CheckpointsAreCutAndComplete : Prop :=
  (∀ (r c : Nat) (s : State) (x : Rood) (d : Cmd) (q : CRing), Works s r x → x.cmd? c = some d → d.opcode = 0x30 →
     CanReport x d q → d.ckpTarget = 0 → x.ckpRuns = false →
     let cut := fun (t : State) (rest : List Nat) => ∃ y u, Becomes t r x y ∧ y.ckp.run = some u ∧ y.ckp.queue = rest ∧
       y.ckp.nextSeq = x.ckp.nextSeq + 1 ∧ y.ckp.steps = 0 ∧ y.ckp.ref = x.ckp.ref ∧ y.slots = x.slots ∧ y.vecs = x.vecs ∧
       y.host = x.host ∧ y.cmds = x.cmds.map (fun k => if k.id == d.id then { d with stage := .running } else k) ∧
       u.cmd = d.id ∧ u.next.seq = x.ckp.nextSeq ∧ u.lean = d.ckpLean ∧ u.cutTime = s.clock.time ∧ u.suspect = false ∧
       (x.ckp.ref = none → u.base = true ∧ u.prevSeq = 0 ∧ u.next.baseSeq = x.ckp.nextSeq) ∧
       u.next.image.baseGen = x.baseGen ∧ u.next.image.gens = x.slots.map (fun p => (p.1, p.2.gen)) ∧
       u.next.image.sessions.map (fun p => p.slot) = x.slots.filterMap (fun p => p.2.entry.map (fun _ => p.1))
     (d.stage = .accepted → x.unjudgedBefore [0x30, 0x31] d = true → ∃ t, exec (.ckpTake r c) s = .next t ∧ Becomes t r x x) ∧
     (d.stage = .accepted → x.unjudgedBefore [0x30, 0x31] d = false → d.ckpCheck (ctxOf s) ≠ 0 →
       ∃ t, exec (.ckpTake r c) s = .next t ∧ Ends t r x x d q (d.record (d.ckpCheck (ctxOf s)))) ∧
     (d.stage = .accepted → x.unjudgedBefore [0x30, 0x31] d = false → d.ckpCheck (ctxOf s) = 0 → x.ckp.queue = [] →
       (x.roomFor x.copyNeeds = true → ∃ t, exec (.ckpTake r c) s = .next t ∧ cut t []) ∧
       (x.roomFor x.copyNeeds = false → ∃ t, exec (.ckpTake r c) s = .next t ∧ Ends t r x x d q (d.record stAdmitMem))) ∧
     (d.stage = .accepted → x.unjudgedBefore [0x30, 0x31] d = false → d.ckpCheck (ctxOf s) = 0 → x.ckp.queue ≠ [] →
       ∃ t, exec (.ckpTake r c) s = .next t ∧
         Becomes t r x { x with
           ckp := { x.ckp with queue := x.ckp.queue ++ [d.id] }
           cmds := x.cmds.map (fun k => if k.id == d.id then { d with stage := .waiting } else k) }) ∧
     ∀ rest, d.stage = .waiting → x.ckp.queue = c :: rest → x.roomFor x.copyNeeds = true →
       ∃ t, exec (.ckpQueueAdvance r) s = .next t ∧ cut t rest) ∧
  (∀ (r : Nat) (s : State) (x : Rood) (d : Cmd) (q : CRing) (u : CkpRun), Works s r x → x.ckp.run = some u →
     x.cmd? u.cmd = some d → CanReport x d q →
     let kept := x.ckp.ref.map (CkpRef.keepNumbers u)
     let z := fun (ref : Option CkpRef) => ({ x.freeCopy with ckp := { x.ckp with run := none, ref := ref } } : Rood)
     (u.suspect = false → u.next.target = 1 → (∀ k ∈ u.shards, k.durable = true) → ∀ ok w,
       ∃ t, exec (.ckpTakeDone r ⟨ok, w⟩) s = .next t ∧
         Ends t r x (z (some u.next)) d q { d.record stOk with result := [0, 0, u.next.seq % 2 ^ 32, u.next.seq / 2 ^ 32] }) ∧
     (u.suspect = false → u.next.target = 1 → (∃ k ∈ u.shards, k.durable = false) → ∀ ok w,
       ∃ t, exec (.ckpTakeDone r ⟨ok, w⟩) s = .next t ∧ Becomes t r x x) ∧
     (u.suspect = false → u.next.target = 0 → ∀ w,
       ∃ t, exec (.ckpTakeDone r ⟨false, w⟩) s = .next t ∧ Ends t r x (z kept) d q (d.record stMedia)) ∧
     (u.suspect = true → ∀ ok w,
       ∃ t, exec (.ckpTakeDone r ⟨ok, w⟩) s = .next t ∧ Ends t r x (z kept) d q (d.record stSuspect)))

/-- The interval timer cuts a checkpoint whose record, on the ring of ROOD_CKP_CTL, carries opcode 0x30, handle 0 and the
timer's tag; while a checkpoint command runs or waits the trigger is held, one at most, with ROOD_CKP_CTL as it stands; without
ENABLE or an interval nothing happens (R414, R415, R416). -/
def Obligations.TriggersCutCheckpoints : Prop :=
  ∀ (r : Nat) (s : State) (x : Rood), Works s r x → NonePosted x →
    (bitsOf x.regs.ckpCtl.toNat 7 1 = 0 ∨ bitsOf x.regs.ckpCtl.toNat 32 32 = 0 →
      ∃ t, exec (.ckpIntervalTimer r) s = .next t ∧ Becomes t r x x) ∧
    (bitsOf x.regs.ckpCtl.toNat 7 1 = 1 → bitsOf x.regs.ckpCtl.toNat 32 32 ≠ 0 → x.fenced = false →
      x.ckpBusy = true ∨ x.ckpPending = true →
      ∃ t, exec (.ckpIntervalTimer r) s = .next t ∧
        Becomes t r x { x with ckp := { x.ckp with trigger := some (x.ckp.trigger.getD (true, x.regs.ckpCtl)) } }) ∧
    ∀ q, bitsOf x.regs.ckpCtl.toNat 7 1 = 1 → bitsOf x.regs.ckpCtl.toNat 32 32 ≠ 0 → bitsOf x.regs.ckpCtl.toNat 4 2 = 0 →
      x.fenced = false → x.ckpBusy = false → x.ckpPending = false → s.dev.integ.recovery = false →
      x.crings[bitsOf x.regs.ckpCtl.toNat 0 3]? = some q → q.canReserve = true → x.roomFor x.copyNeeds = true →
      ∃ t y k u, exec (.ckpIntervalTimer r) s = .next t ∧ Becomes t r x y ∧ k.id = x.nextCmd ∧ k.opcode = 0x30 ∧ k.handle = 0 ∧
        k.tag = 0xFFFFFFFFFFFFFF01 ∧ k.cring = bitsOf x.regs.ckpCtl.toNat 0 3 ∧ k ∈ y.cmds ∧ y.nextCmd = x.nextCmd + 1 ∧
        y.ckp.run = some u ∧ u.cmd = x.nextCmd ∧ u.next.seq = x.ckp.nextSeq ∧ y.ckp.nextSeq = x.ckp.nextSeq + 1 ∧
        y.ckp.trigger = none ∧ y.slots = x.slots ∧ y.host = x.host

/-- A restore is refused with ST_BAD_STATE while a session is QUEUED, RUNNING or MOVING. From the rood's own flash, with no
shard of the lineage there, it ends with ST_INCOMPLETE and replaces nothing. From the chain it asks every device of PEERS for
its inventory; without an answer within 50 ms it goes on with what it has (R426, R427, R428). A restore takes effect between
steps, as one act: every slot takes what the checkpoint records of it, a FREE slot the recorded generation advanced once; the
indexes are the recorded ones, the tally is carried, and the next sequence number is one above the highest that the inventory
found (R128, R401, R430, R431, R508). -/
def Obligations.RestoresReplaceTheRood : Prop :=
  (∀ (r c : Nat) (s : State) (x : Rood) (d : Cmd) (q : CRing), Works s r x → CanReport x d q → x.cmd? c = some d →
     (∀ w, Accepted x c 0x31 d → x.unjudgedBefore [0x30, 0x31] d = false → d.ckpCheck (ctxOf s) = 0 → x.ckpBusy = false →
       (x.restoreBlocked = true → ∃ t, exec (.ckpRestore r ⟨c, w⟩) s = .next t ∧ Ends t r x x d q (d.record stBadState)) ∧
       (x.restoreBlocked = false → d.ckpTarget = 0 → x.flash = [] → x.vecQueue = [] → x.ckp.restore = none → StepsHeld x →
         ∃ t, exec (.ckpRestore r ⟨c, w⟩) s = .next t ∧ Ends t r x x d q (d.record stIncomplete)) ∧
       (x.restoreBlocked = false → d.ckpTarget = 1 → x.peersOk (ctxOf s) = true →
         ∃ t y u, exec (.ckpRestore r ⟨c, w⟩) s = .next t ∧ Becomes t r x y ∧ y.ckp.restore = some u ∧ u.cmd = d.id ∧
           u.waiting.map (fun w => w.1) = x.ckpDevices ∧ u.items = [] ∧ y.slots = x.slots ∧ y.kv = x.kv ∧ y.vecs = x.vecs ∧
           y.cmds = x.cmds.map (fun k => if k.id == d.id then { d with stage := .running } else k))) ∧
     ∀ u, x.ckp.restore = some u → u.cmd = c → u.waiting ≠ [] → u.items = [] → u.fetching = [] → x.vecQueue = [] → StepsHeld x →
       ∃ t, exec (.ckpPeerTimeout r) s = .next t ∧
         Ends t r x { x with ckp := { x.ckp with restore := none } } d q (d.record stIncomplete)) ∧
  (∀ (r : Nat) (s : State) (x : Rood) (d : Cmd) (q : CRing) (u : RestoreRun) (b : Rebuilt), Works s r x →
     x.ckp.restore = some u → x.cmd? u.cmd = some d → CanReport x d q →
     let seqs := (u.chain (x.shape (ctxOf s)) u.chosen).getD []
     u.rebuild seqs = .ok b →
     (x.betweenSteps = false → ∃ t, exec (.ckpRestoreApply r) s = .next t ∧ Becomes t r x x) ∧
     ∀ a vs, d.stage = .ready → x.betweenSteps = true → x.arrivals = [] → x.vecQueue = [] → StepsHeld x →
       (x.setRestore { u with resFrames := 0, resLines := [], resExts := 0 }).rebuildBeside (ctxOf s) (u.leanChain seqs) b =
         some (a, vs) →
       ∃ t z, exec (.ckpRestoreApply r) s = .next t ∧ z.cmds = x.cmds ∧ z.host = x.host ∧
         Ends t r x z d q { d.record stOk with result := [0, 0, u.chosen % 2 ^ 32, u.chosen / 2 ^ 32] } ∧
         z.vecs = vs ∧ z.ckp.restore = none ∧ z.ckp.ref = none ∧
         z.ckp.nextSeq = (u.items.map (fun i => i.hdr.seq)).foldl max 0 + 1 ∧
         z.carried = some { readTally b.tally with carried := true } ∧
         (∀ i e, lookKey i a.slots = some e → z.slot i = e) ∧
         ∀ i, i < x.slotCap → lookKey i a.slots = none →
           z.slot i = { gen := (b.gens.getD i 1).toNat % 255 + 1, entry := none, taken := false })

/-- CNT_SNAPSHOT takes the next snapshot number, writes the snapshot at its address and reports its 1,216 + 4,608 W bytes; the
other roods stay (R502, R505, R506, Table 18.2). The snapshots of a rood run in their order of acceptance (R505). One whose
buffer loses its translation while it is written ends with ST_CANCELLED: the bytes written stay, and so does the number (R148). -/
def Obligations.SnapshotsAreTaken : Prop :=
  ∀ (r c : Nat) (out : OutBuf) (s : State) (x : Rood) (d : Cmd) (q : CRing), Works s r x → Accepted x c 0x38 d → CanReport x d q →
    ∃ t, exec (.cntSnapshot r c out) s = .next t ∧ DeviceStays s t ∧ (∀ k, k ≠ r → t.dev.rood? k = s.dev.rood? k) ∧
      (x.unjudgedBefore [0x38] d = true → Becomes t r x x) ∧
      (x.unjudgedBefore [0x38] d = false → x.snapCheck d out ≠ 0 → Ends t r x x d q (d.record (x.snapCheck d out))) ∧
      (x.unjudgedBefore [0x38] d = false → x.snapCheck d out = 0 →
        let n := if (x.snapNumber + 1) % 2 ^ 32 = 0 then 1 else (x.snapNumber + 1) % 2 ^ 32
        ∃ bytes, bytes.take 12 = leBytes 4 0x50414E53 ++ leBytes 2 1 ++ leBytes 1 r ++ leBytes 1 x.width ++ leBytes 4 n ∧
          ((∀ k, out ≠ .lost k) →
            Ends t r x { x with snapNumber := n, host := memWrite x.host (d.f 24 0 64) bytes } d q
              { d.record stOk with result := [n, 1216 + 4608 * x.width, 0, 0] }) ∧
          ∀ k, out = .lost k →
            Ends t r x { x with
              snapNumber := n, host := memWrite x.host (d.f 24 0 64) (bytes.take k), regs := { x.regs with addrFault := true } }
              d q (d.record stCancelled))

/-! ## Steps, integrity events and resets (chapters 9 and 16) -/

/-- The end of a step without a failure: its crew has its boundary at the present DEV_TIME, whatever step comes next; where no next
step is composed, the crew stands there, STEPS_K counts the step, every
session that was not in it stays as it is, and so do the objects, indexes, moves and flash of the rood (R290, R415). The session
of a step of one sequence is charged what R446 gives for some context units. -/
def Obligations.StepsEndAtTheirBoundary : Prop :=
  ∀ (r model crew : Nat) (e : StepEnv) (s : State) (x : Rood) (k : Crew) (st : Step) (im : Image) (p : Params) (pl : Placement),
    Works s r x → e.hits = [] → x.walkHits model crew = [] → x.crew? model crew = some k → k.step = some st →
    x.placed model = some (im, p, pl) → x.obj.emptying = [] →
    (∃ t y k', exec (.stepEnd r model crew e) s = .next t ∧ t.dev.rood? r = some y ∧ y.crew? model crew = some k' ∧
      k'.lastEnd = s.clock.time ∧ t.clock = s.clock ∧ t.pins = s.pins) ∧
    (StepsWait x → NonePosted x → e.assay = [] → s.dev.sgDown x.firstSg = false → bitsOf x.regs.ckpCtl.toNat 7 1 = 0 →
     (∀ pt ∈ st.parts, ∀ q ∈ x.seqs, q.cmd = pt.cmd → q.slot = pt.slot) →
     ∃ t y, exec (.stepEnd r model crew e) s = .next t ∧ Becomes t r x y ∧ t.clock = s.clock ∧ t.pins = s.pins ∧
      (∃ k', y.crew? model crew = some k' ∧ k'.step = none ∧ k'.held = none ∧ k'.lastEnd = s.clock.time) ∧
      y.ckp = { x.ckp with steps := x.ckp.steps + 1 } ∧ (∀ i, (∀ pt ∈ st.parts, pt.slot ≠ i) → y.slot i = x.slot i) ∧
      y.obj = x.obj ∧ y.vecs = x.vecs ∧ y.flash = x.flash ∧ y.staging = x.staging ∧ y.moves = x.moves ∧ y.arrivals = x.arrivals ∧
      ∀ pt a, st.parts = [pt] → x.entry? pt.slot = some a →
        ∃ b units, y.entry? pt.slot = some b ∧ b.grains = a.grains + stepCharge pl pt.samples 1 pt units)

/-- An event against a tile whose step holds a session touches that session at once: it is SUSPECT, its command is FLAGGED, and
its sequence goes on to the end of its step; every other session and the rood's frames stay (R126, R459, R460, R461). -/
def Obligations.EventsTouchTheStepsTheyMeet : Prop :=
  ∀ (h : Hit) (tile r slot : Nat) (s : State) (x : Rood) (k : Crew) (st : Step) (pt : Part) (g : Seq) (e : Entry), Works s r x →
    h.unit = .tile tile → tile < 96 → s.dev.roodOf (tile / 4) = some x → s.dev.unitOff h.unit = false → s.dev.integ.resets = [] →
    StepsWait x → NonePosted x →
    s.dev.tileAgain s.clock.time tile = false → x.crews = [k] → k.step = some st → st.parts = [pt] → pt.slot = slot →
    pt.cmd = g.cmd → x.usesTile tile k = true → x.moves = [] → x.ckp.run = none → x.entry? slot = some e → e.state = .running →
    x.seqs = [g] → g.slot = slot →
    ∃ t y, exec (.watchdogFire h) s = .next t ∧ Becomes t r x y ∧ t.dev.integ.resets = [.tile tile] ∧
      HostSide ({ x.clearWins [tile] with seqs := [{ g with touched := true }] }.setEntry slot
        { e with state := .suspect, moveKind := 0, bushel := 0, lastTime := s.clock.time }) y ∧
      y.cmds = x.cmds.map (fun c => if c.id == g.cmd then { c with flagged := true } else c) ∧ y.host = x.host

/-- What Table 16.1 does for an event while the roods rest and nothing is under reset: a tile is reset, and a second event
within 1 s gives its role to a free spare for good; a unit of a slice resets its stack group; a bridge that fails is disabled; a poisoned
staging line is not used (R454, R455, R458, R466). Corrected DRAM lines are only counted (R453). That a watchdog of a bridge
resets nothing is the model's (log entry 68). -/
def Obligations.IntegrityEventsResetTheirUnits : Prop :=
  ∀ s : State, AtRest s → s.dev.integ.resets = [] →
    (∀ (h : Hit) (tile : Nat) (env : StartEnv), tile < 104 → h.unit = .tile tile → s.dev.unitOff h.unit = false →
      s.dev.tileAgain s.clock.time tile = false →
      ∀ i cls, (i = .watchdogFire h ∧ cls = 0x08) ∨ (i = .tileRegulatorFault ⟨tile, env⟩ ∧ cls = 0x0A) →
        ∃ t, exec i s = .next t ∧ t.clock = s.clock ∧ t.pins = s.pins ∧ EventLogged s t cls 0x01 (.tile tile) ∧
          t.dev.integ = { s.dev.integ with
            resets := [.tile tile]
            tileResetAt := (tile, s.clock.time) :: s.dev.integ.tileResetAt.filter (fun p => p.1 != tile) } ∧
          t.dev.energy = s.dev.energy.restartTiles [tile] ∧ t.dev.boot = s.dev.boot) ∧
    (∀ (tile sp : Nat) (env : StartEnv), tile < 96 → s.dev.unitOff (.tile tile) = false →
      s.dev.tileAgain s.clock.time tile = true → s.dev.integ.standIns = [] →
      s.dev.boot.defects.spareOf tile = none → s.dev.boot.defects.freeSpare (tile / 24) = some sp →
      ∃ t, exec (.tileRegulatorFault ⟨tile, env⟩) s = .next t ∧ EventLogged s t 0x0A 0x06 (.tile tile) ∧ t.dev.integ.resets = [] ∧
        t.dev.boot.defects = { s.dev.boot.defects with
          tileFailed := bvSet tile s.dev.boot.defects.tileFailed, spares := s.dev.boot.defects.spares.set sp tile } ∧
        t.dev.integ.sgFailed = s.dev.integ.sgFailed) ∧
    (∀ (h : Hit) (g u : Nat), g < 24 → u < 7 → h.unit = .slice g u → s.dev.sgOff g = false →
      ∃ t, exec (.watchdogFire h) s = .next t ∧ EventLogged s t 0x08 0x02 (.slice g u) ∧
        t.dev.integ = { s.dev.integ with resets := [.sg g (.slice g u)] } ∧
        t.dev.energy = s.dev.energy.restartTiles [4 * g, 4 * g + 1, 4 * g + 2, 4 * g + 3] ∧ t.dev.boot = s.dev.boot) ∧
    (∀ (h : Hit) (b : Nat), b < 4 → h.unit = .bridge b →
      (∃ t, exec (.watchdogFire h) s = .next t ∧ EventLogged s t 0x08 0 (.bridge b) ∧ t.dev.integ = s.dev.integ ∧
        t.dev.boot = s.dev.boot) ∧
      ∀ g, g < 24 → s.dev.sgOff g = false → s.dev.boot.defects.bridgeFailed = 0 →
        ∃ t, exec (.dramPatrolRead g [] [{ h with cls := 0x05, obj := none, corrected := false }]) s = .next t ∧
          EventLogged s t 0x05 0x08 (.bridge b) ∧ t.dev.integ = s.dev.integ ∧
          t.dev.boot.defects = { s.dev.boot.defects with bridgeFailed := bvSet b 0 }) ∧
    (∀ g c, g < 24 → c < 64 → s.dev.sgOff g = false →
      ∃ t, exec (.dramPatrolRead g [c] []) s = .next t ∧ t.dev.regs.log = s.dev.regs.log ∧ t.dev.integ = s.dev.integ ∧
        t.dev.boot = s.dev.boot ∧ t.dev.counters = if s.dev.sgDown g then counterAdd ⟨.device, 0, 6⟩ 1 s.dev.counters
          else counterAdd ⟨.bank, 64 * g + c, 5⟩ 1 (counterAdd ⟨.device, 0, 6⟩ 1 s.dev.counters)) ∧
    ∀ g c r off x, g < 24 → c < 64 → s.dev.sgOff g = false → Works s r x →
      ∃ t y, exec (.dramPatrolRead g []
          [{ cls := 0x04, unit := .bank g c, layer := 0, obj := some (.staging r off), corrected := false }]) s = .next t ∧
        EventLogged s t 0x04 0x09 (.bank g c) ∧ t.dev.integ = s.dev.integ ∧ Becomes t r x y ∧
        y.stagingBad = (off / 64, true) :: x.stagingBad.filter (fun p => p.1 != off / 64) ∧ y.staging = x.staging ∧
        y.slots = x.slots

/-- What ends a reset: the unit works again and its level is no longer in progress. A tile that fails its assays gives its role
to a free spare; a stack group that does is marked failed and its rood fenced; after a rood reset the rood stays fenced; after a
quadrant reset its bit of DEV_FAULT stays and its usable ports start link-up. Work that waited for a rebuilt object goes on
(R465, R466, R470, R475, R544). -/
def Obligations.ResetsEnd : Prop :=
  ∀ s : State, AtRest s →
    (∀ tile, ResetLevel.tile tile ∈ s.dev.integ.resets →
      (∃ t, exec (.tileResetDone tile true) s = .next t ∧ t.clock = s.clock ∧ t.dev.regs.log = s.dev.regs.log ∧
        t.dev.boot = s.dev.boot ∧
        t.dev.integ = { s.dev.integ with resets := s.dev.integ.resets.filter (fun l => l != .tile tile) }) ∧
      ∀ sp, tile < 96 → s.dev.integ.standIns = [] → s.dev.boot.defects.spareOf tile = none →
        s.dev.boot.defects.freeSpare (tile / 24) = some sp →
        ∃ t, exec (.tileResetDone tile false) s = .next t ∧ EventLogged s t 0x0E 0x06 (.tile tile) ∧
          t.dev.boot.defects.spares = s.dev.boot.defects.spares.set sp tile) ∧
    (∀ g u, s.dev.sgCause g = some u →
      (∃ t, exec (.sgResetDone g true) s = .next t ∧ t.dev.regs.log = s.dev.regs.log ∧ t.dev.boot = s.dev.boot ∧
        t.dev.integ = { s.dev.integ with resets := s.dev.integ.resets.filter (fun l => l != .sg g u) }) ∧
      ∀ x, g < 24 → sgOf u = g → s.dev.integ.sgFailed.getLsbD g = false → s.dev.markedNear s.clock.time g = false →
        s.dev.roodOf g = some x → s.dev.rood? x.num = some x →
        ∃ t y, exec (.sgResetDone g false) s = .next t ∧ EventLogged s t 0x0E 0x07 u ∧
          t.dev.integ.sgFailed.getLsbD g = true ∧ .rood x.num ∈ t.dev.integ.resets ∧ t.dev.rood? x.num = some y ∧
          y.fenced = true) ∧
    (∀ r, ResetLevel.rood r ∈ s.dev.integ.resets →
      ∃ t, exec (.roodResetDone r) s = .next t ∧ t.dev.regs.log = s.dev.regs.log ∧
        t.dev.integ = { s.dev.integ with resets := s.dev.integ.resets.filter (fun l => l != .rood r) } ∧
        t.dev.roods.map (fun x => (x.num, x.fenced)) = s.dev.roods.map (fun x => (x.num, x.fenced))) ∧
    (∀ k, s.dev.quadDown k = true →
      ∃ t, exec (.quadrantResetDone k) s = .next t ∧ t.dev.quadDown k = false ∧ t.dev.integ.quadReset = s.dev.integ.quadReset ∧
        ∀ p, p / 2 = k → ∀ o, s.dev.chain.ports[p]? = some o →
          t.dev.chain.ports[p]? = some (if s.dev.portUsable p then { o with training := true } else o)) ∧
    ∀ o x, Works s (objRood o) x →
      ∃ t, exec (.structureRebuildDone o) s = .next t ∧ DeviceStays s t ∧
        Becomes t (objRood o) x { x with rebuilding := x.rebuilding.filter (fun k => k != o) }

/-- In-service assays: a unit starts its own in an idle gap; an idle tile whose turn it is gives its role to a free spare, and
takes it back when its assay has passed and no step uses it; the tile's window store is then empty. A failed one is an event of
class 0x0E that resets the unit's stack group. A unit that has not been assayed for 60 s is logged LATE, but for a tile whose
quadrant has no free spare. Before READY nothing happens (R463, R464, Table 19.18). -/
def Obligations.AssaysRunAndEnd : Prop :=
  ∀ s : State,
    (s.dev.boot.phase ≠ .ready → ∀ u ok, exec (.idleGapAssay u) s = .next s ∧
      (∀ env, exec (.assayDone u ⟨ok, env⟩) s = .next s) ∧ exec (.assayLate u) s = .next s) ∧
    (s.dev.boot.phase = .ready →
      (∀ u, unitGap u = true → s.dev.unitOff u = false → u ∉ s.dev.integ.assaying →
        ∃ t, exec (.idleGapAssay u) s = .next t ∧
          t = { s with dev := { s.dev with integ := { s.dev.integ with assaying := u :: s.dev.integ.assaying } } }) ∧
      (∀ tile i, tile < 96 → s.dev.rotation (tile / 24) = tile → s.dev.tileInStep tile = false → s.dev.tileDown tile = false →
        s.dev.sgDown (tile / 4) = false → s.dev.unitOff (.tile tile) = false → s.dev.idleSpare (tile / 24) = some i →
        ∃ t, exec (.idleGapAssay (.tile tile)) s = .next t ∧ t.dev.roods = s.dev.roods.map (fun x => x.clearWins [tile]) ∧
          t.dev.integ = { s.dev.integ with
            standIns := (96 + i, tile) :: s.dev.integ.standIns, assaying := .tile tile :: s.dev.integ.assaying
            nextAssay := s.dev.integ.nextAssay.set (tile / 24) (tile / 24 * 24 + (tile % 24 + 1) % 24) }) ∧
      (∀ u, s.dev.lateExempt u = false →
        ∃ t k, exec (.assayLate u) s = .next t ∧ t.dev.integ = s.dev.integ ∧ t.dev.roods = s.dev.roods ∧
          t.dev.regs.log.entries.head? = some k ∧ t.dev.regs.log.head = s.dev.regs.log.head + 1 ∧ k.kind = 0x01 ∧ k.cls = 0x0E ∧
          k.code = 1 ∧ (k.unitKind, k.unit) = unitCode u) ∧
      ∀ tile, tile < 96 → s.dev.boot.defects.freeSpare (tile / 24) = none → exec (.assayLate (.tile tile)) s = .next s) ∧
    (AtRest s →
      (∀ u env, u ∈ s.dev.integ.assaying →
        ∃ t, exec (.assayDone u ⟨true, env⟩) s = .next t ∧ t.dev.regs.log = s.dev.regs.log ∧ t.dev.boot = s.dev.boot ∧
          t.dev.integ = { s.dev.integ with
            assaying := s.dev.integ.assaying.filter (fun k => k != u)
            standIns := s.dev.integ.standIns.filter (fun p =>
              (s.dev.integ.assaying.filter (fun k => k != u)).contains (.tile p.2)) }) ∧
      ∀ g c env, g < 24 → s.dev.sgOff g = false → UnitId.bank g c ∈ s.dev.integ.assaying → s.dev.integ.resets = [] →
        ∃ t, exec (.assayDone (.bank g c) ⟨false, env⟩) s = .next t ∧ EventLogged s t 0x0E 0x02 (.bank g c) ∧
          t.dev.integ.resets = [.sg g (.bank g c)] ∧
          t.dev.integ.assaying = s.dev.integ.assaying.filter (fun k => k != .bank g c))

/-! ## Flash and training sets (chapters 13 and 17) -/

/-- The translation layer moves an extent to a free block of its channel with the lowest erase count, and retires the blocks that
fail the program on the way: its object keeps its size and its other extents, the old place waits for its erasure; an extent that
cannot be read retires its block. Nothing moves unless it is due. An erased block counts the erasure and is free, one that fails the erase is retired. A rebuilt LUN
joins. (R384, R499.) After READY a new training set is written only when an interface was trained in full or a setting moved:
over the set that the boot record in force does not name, and only a durable set is then named by a new record, which is in
force. Until then the former set stays named (R488, R489). -/
def Obligations.FlashAndTrainingSetsAreLookedAfter : Prop :=
  (∀ (c l b : Nat) (w : Wear) (s : State),
     let weak := w.weak.contains (c, l, b)
     let f := s.dev.flash.wear w
     let d : Dev := { s.dev with flash := f }
     (d.relocationDue (c, l, b) weak = false ∨ d.extentOwner (c, l, b) = none →
       exec (.flashRelocate c l ⟨b, w⟩) s = .next { s with dev := d }) ∧
     (∀ (x : Rood) (e : Extent) (n : Block) (failed : List Block), d.relocationDue (c, l, b) weak = true →
       d.extentOwner (c, l, b) = some x → s.dev.rood? x.num = some x → x.extentAt (c, l, b) = some e →
       (∀ o ∈ x.flash, ∀ k ∈ o.exts, k.place = (c, l, b) → k = e) →
       programBlock (fun u => f.freeBlock u c) f.tries (x.usedPlaces (ctxWorn w s)) = some (n, failed) →
       (f.readExtent x.storageKey e = none → exec (.flashRelocate c l ⟨b, w⟩) s = .next { s with
         dev := { d with flash := f.retire [f.block c l b] } }) ∧
       ((f.readExtent x.storageKey e).isSome = true →
         ∃ t y, exec (.flashRelocate c l ⟨b, w⟩) s = .next t ∧ t.clock = s.clock ∧ t.dev.rood? x.num = some y ∧
           y = { x with flash := y.flash, freedExts := y.freedExts } ∧ (∀ q, q ≠ x.num → t.dev.rood? q = s.dev.rood? q) ∧
           y.flash.map (fun o => (o.id, o.kind, o.size, o.exts.map (fun k => (k.number, k.place)))) =
             x.flash.map (fun o => (o.id, o.kind, o.size, o.exts.map (fun k =>
               if k.place = (c, l, b) then (k.number, (n.chan, n.lun, n.block)) else (k.number, k.place)))) ∧
           y.freedExts = x.freedExts ++ (x.flash.flatMap (fun o => o.exts)).filter (fun k => k.place == (c, l, b)) ∧
           (∀ k ∈ failed, (t.dev.flash.block k.chan k.lun k.block).bad = true) ∧
           t.dev.counters = counterAdd ⟨.device, 0, 8 + c⟩ 1 s.dev.counters)) ∧
     (d.erasable (c, l, b) = false → exec (.extentErase c l ⟨b, w⟩) s = .next { s with dev := d }) ∧
     (d.erasable (c, l, b) = true →
       ∃ t, exec (.extentErase c l ⟨b, w⟩) s = .next t ∧ t.clock = s.clock ∧ (c, l, b) ∉ t.dev.flash.freed ∧
         t.dev.flash.block c l b = (if (f.block c l b).worn then { f.block c l b with bad := true }
           else { f.block c l b with erases := (f.block c l b).erases + 1, reads := 0, lost := false }) ∧
         (∀ c' l' b', (c', l', b') ≠ (c, l, b) → t.dev.flash.block c' l' b' = f.block c' l' b') ∧
         t.dev.roods.map (fun x => { x with freedExts := [] }) = s.dev.roods.map (fun x => { x with freedExts := [] })) ∧
     (s.dev.ready = false → exec (.lunRebuildDone c l b) s = .next s) ∧
     (s.dev.ready = true →
       ∃ t, exec (.lunRebuildDone c l b) s = .next t ∧ t.dev.roods = s.dev.roods ∧ t.dev.flash.blocks = s.dev.flash.blocks ∧
         t.dev.flash.luns = s.dev.flash.luns.map (fun u =>
           if u.chan = c ∧ u.ce = l ∧ u.lun = b ∧ u.rebuilding = true then { u with rebuilding := false, joined := true } else u))) ∧
  (∀ (moved durable : Bool) (s : State),
     (s.dev.ready = false ∨ (s.dev.boot.trainedInFull = false ∧ moved = false) →
       exec (.trainingSetWrite moved durable) s = .next s) ∧
     ∀ k, s.dev.ready = true → s.dev.boot.trainedInFull = true ∨ moved = true → s.dev.boot.inForce = some k →
       ∃ t, exec (.trainingSetWrite moved durable) s = .next t ∧ t.dev.roods = s.dev.roods ∧ t.clock = s.clock ∧
         (k.trainSet = 1 → t.dev.boot.nor.trainA = s.dev.boot.nor.trainA) ∧
         (k.trainSet ≠ 1 → t.dev.boot.nor.trainB = s.dev.boot.nor.trainB) ∧
         (durable = false → t.dev.boot.inForce = some k ∧ t.dev.boot.nor.copyA = s.dev.boot.nor.copyA ∧
           t.dev.boot.nor.copyB = s.dev.boot.nor.copyB ∧
           (if k.trainSet = 1 then t.dev.boot.nor.trainB else t.dev.boot.nor.trainA) = none) ∧
         (durable = true → ∃ k' v, t.dev.boot.inForce = some k' ∧ t.dev.boot.inA = !s.dev.boot.inA ∧
           k'.writeCount = k.writeCount + 1 ∧
           k'.trainSet = (if k.trainSet = 1 then 2 else 1) ∧ k'.defects = k.defects ∧ v.serial = s.dev.boot.fuses.devSerial ∧ v.crc = k'.trainCrc ∧
           (if k.trainSet = 1 then t.dev.boot.nor.trainB else t.dev.boot.nor.trainA) = some v))

/-! ## The sideband (chapters 2, 16 and 18) -/

/-- COMPOSE takes the next serial, the tenant of its payload and DEV_TIME, gives up the sealed tally, and starts every rood with
a lineage other than zero and a tally from zero; it writes to host memory unless the reference clock is lost (R471), and has
CXL.cache where the link is full (R163). A COMPOSE that arrives while a RELEASE runs is refused BUSY, as the model reads R80
(log entry 82). RELEASE seals the tally, returns HOST_CAP to 1,100 W and scrubs every rood; it
is answered, and the composition over, with the last read-back. A stack group that does not read back zero is marked failed
(R77, R78, R79, R80, R400, R433, R508 to R511). -/
def Obligations.CompositionsBeginAndEnd : Prop :=
  ∀ (msg : List Byte) (q : SbReq) (s : State), s.dev.boot.phase = .ready →
    (Asks s msg 0x01 q → q.formatOk = true → s.dev.comp.releasing = true →
      ∃ t, exec (.compose msg) s = .next t ∧ OnlyAnswers s t q sbBusy []) ∧
    (HasTurn s msg 0x01 q → s.dev.integ.recovery = false → s.dev.comp.releasing = false →
      s.dev.comp.nextSerial < s.dev.comp.serialLimit →
      (s.dev.comp.composed = true → ∃ t, exec (.compose msg) s = .next t ∧ OnlyAnswers s t q sbState []) ∧
      (s.dev.comp.composed = false →
        ∃ t, exec (.compose msg) s = .next t ∧ t.clock = s.clock ∧ t.pins = s.pins ∧ t.dev.comp.composed = true ∧
          t.dev.comp.releasing = false ∧ t.dev.comp.serial = s.dev.comp.nextSerial ∧
          t.dev.comp.nextSerial = s.dev.comp.nextSerial + 1 ∧ t.dev.comp.tenant = q.payload ∧
          t.dev.comp.composeTime = s.clock.time ∧ t.dev.comp.sealedTally = [] ∧ t.dev.layout = s.dev.layout ∧
          Answered t q sbSuccess (leBytes 8 s.dev.comp.nextSerial) ∧
          ∀ x ∈ t.dev.roods, x.quiet = s.dev.integ.clockLost ∧ x.cacheOff = !s.dev.linkFull ∧ x.regs.lineage ≠ 0 ∧ x.carried = none ∧
            x.tally = Tally.fresh x.num x.width s.dev.comp.nextSerial s.clock.time)) ∧
    (HasTurn s msg 0x02 q →
      (s.dev.comp.composed = false → ∃ t, exec (.release msg) s = .next t ∧ OnlyAnswers s t q sbSuccess []) ∧
      (s.dev.comp.composed = true →
        ∃ t, exec (.release msg) s = .next t ∧ t.clock = s.clock ∧ t.dev.side.running = some q ∧ t.dev.comp.releasing = true ∧
          t.dev.energy.hostCap = 1100 ∧ t.dev.energy.sidebandCap = s.dev.energy.sidebandCap ∧
          t.dev.comp.releaseTime = s.clock.time ∧
          t.dev.comp.sealedTally.take 8 =
            leBytes 4 0x4C414553 ++ leBytes 2 1 ++ leBytes 2 (s.dev.tallies s.clock.time).length ∧
          ∀ x ∈ t.dev.roods, x.scrubbing = x.sgs ∧ x.slots = [] ∧ x.storageKey = 0 ∧ x.cmds = [] ∧ x.quiet = true ∧
            x.flash = [])) ∧
    ∀ g env, (∃ x ∈ s.dev.roods, g ∈ x.scrubbing) →
      (s.dev.comp.releasing = true → s.dev.side.running = some q → (∀ x ∈ s.dev.roods, ∀ h ∈ x.scrubbing, h = g) →
        ∃ t, exec (.scrubDone g ⟨true, env⟩) s = .next t ∧ t.dev.comp.composed = false ∧ t.dev.comp.releasing = false ∧
          t.dev.comp.tenant = [] ∧ t.dev.comp.sealedTally = s.dev.comp.sealedTally ∧ t.dev.side.running = none ∧
          Answered t q sbSuccess [] ∧ ∀ x ∈ t.dev.roods, x.scrubbing = []) ∧
      (s.dev.comp.releasing = true → (∃ x ∈ s.dev.roods, ∃ h ∈ x.scrubbing, h ≠ g) →
        ∃ t, exec (.scrubDone g ⟨true, env⟩) s = .next t ∧ t.dev.comp = s.dev.comp ∧ t.dev.side = s.dev.side ∧
          ∀ x ∈ t.dev.roods, g ∉ x.scrubbing) ∧
      (g < 24 → s.dev.sgOff g = false → s.dev.meets (.stack g) ≠ .wholeUp →
        ∃ t, exec (.scrubDone g ⟨false, env⟩) s = .next t ∧ t.dev.integ.sgFailed.getLsbD g = true ∧ .sgFailed g ∈ t.dev.out)

/-- A control request that arrives while another runs or waits waits behind it; the next runs when its turn has come. SET_CAP
takes a legal cap, and one out of range is ignored and logged. ENTER_RECOVERY stops every intake ring and is answered once
nothing is left and no reset runs. In the recovery state SET_LAYOUT records a layout that passes R49, ASSAY_SG clears a mark
whose assays pass, and EXIT_RECOVERY applies the layout, keeping the sessions and the key of a rood that it keeps (R49, R50,
R84, R433, R469, R473, Table 16.4). -/
def Obligations.ControlRequestsTakeTheirTurn : Prop :=
  ∀ (msg : List Byte) (q : SbReq) (s : State),
    (∀ code pass, code ∈ [1, 2, 3, 4, 5, 6, 8] → Asks s msg code q → ¬ SideFree s →
      (code = 1 → q.formatOk = true → s.dev.comp.releasing = false) →
      ∃ t, exec (sideRow code msg pass) s = .next t ∧
        t = { s with dev := { s.dev with side := { s.dev.side with queue := s.dev.side.queue ++ [q] } } }) ∧
    (∀ ok, (s.dev.side.running.isSome = true ∨ s.dev.side.queue = [] → exec (.sidebandQueueAdvance ok) s = .next s) ∧
      ∀ rest, s.dev.side.running = none → s.dev.side.queue = q :: rest → q.code = 0x06 → q.formatOk = true →
        ∃ t, exec (.sidebandQueueAdvance ok) s = .next t ∧ t.dev.side.queue = rest ∧
          t.dev.energy.sidebandCap = u16At 0 q.payload ∧ Answered t q sbSuccess (leBytes 2 s.dev.energy.inForce ++ zeros 2)) ∧
    (HasTurn s msg 0x06 q →
      ∃ t, exec (.setCap msg) s = .next t ∧ t.dev.energy = { s.dev.energy with sidebandCap := u16At 0 q.payload } ∧
        t.dev.regs = s.dev.regs ∧ t.dev.roods = s.dev.roods ∧ Answered t q sbSuccess (leBytes 2 s.dev.energy.inForce ++ zeros 2)) ∧
    (Asks s msg 0x06 q → SideFree s → q.capOutside = true →
      ∃ t k, exec (.setCap msg) s = .next t ∧ t.dev.energy = s.dev.energy ∧ Answered t q sbFormat [] ∧
        t.dev.regs.log.entries.head? = some k ∧ k.kind = 0x04 ∧ k.code = 5 ∧ k.detail = u16At 0 q.payload) ∧
    (AtRest s → HasTurn s msg 0x03 q →
      (s.dev.integ.recovery = true → ∃ t, exec (.enterRecovery msg) s = .next t ∧ OnlyAnswers s t q sbState []) ∧
      (s.dev.integ.recovery = false →
        ∃ t, exec (.enterRecovery msg) s = .next t ∧ t.clock = s.clock ∧ t.dev.side.running = some q ∧
          t.dev.integ = s.dev.integ ∧ (s.dev.integ.resets ≠ [] → t.dev.roods = s.dev.roods) ∧
          (s.dev.integ.resets = [] → ∀ x ∈ t.dev.roods, x.intakeOn = false))) ∧
    (s.dev.entering = false ∨ s.dev.integ.resets ≠ [] → exec .recoveryDrainDone s = .next s) ∧
    (s.dev.side.running = some q → q.code = 0x03 → s.dev.integ.resets = [] → (∀ x ∈ s.dev.roods, x.Rests) →
      ∃ t, exec .recoveryDrainDone s = .next t ∧ t.dev.integ = { s.dev.integ with recovery := true } ∧
        t.dev.side.running = none ∧ Answered t q sbSuccess []) ∧
    (HasTurn s msg 0x05 q → s.dev.integ.recovery = true →
      (s.dev.sbLayoutCheck q ≠ 0 →
        ∃ t k, exec (.setLayout msg) s = .next t ∧ t.dev.layout = s.dev.layout ∧ t.dev.pendingLayout = s.dev.pendingLayout ∧
          Answered t q sbRefused (leBytes 1 (s.dev.sbLayoutCheck q) ++ zeros 3) ∧ t.dev.regs.log.entries.head? = some k ∧
          k.kind = 0x04 ∧ k.code = 6 ∧ k.detail = s.dev.sbLayoutCheck q) ∧
      (s.dev.sbLayoutCheck q = 0 →
        ∃ t, exec (.setLayout msg) s = .next t ∧ t.dev.layout = s.dev.layout ∧ t.dev.roods = s.dev.roods ∧
          t.dev.pendingLayout = some ((layoutEntries q.payload).map readLayoutEntry) ∧ Answered t q sbSuccess [])) ∧
    (HasTurn s msg 0x08 q → s.dev.integ.recovery = true → s.dev.integ.sgFailed.getLsbD (u8At 0 q.payload) = true →
      (∃ t, exec (.assaySg msg false) s = .next t ∧ OnlyAnswers s t q sbSuccess (leBytes 1 1 ++ zeros 3)) ∧
      ∃ t, exec (.assaySg msg true) s = .next t ∧ Answered t q sbSuccess (leBytes 1 0 ++ zeros 3) ∧
        t.dev.integ.sgFailed.getLsbD (u8At 0 q.payload) = false ∧
        ∀ g, g < 24 → g ≠ u8At 0 q.payload → t.dev.integ.sgFailed.getLsbD g = s.dev.integ.sgFailed.getLsbD g) ∧
    (HasTurn s msg 0x04 q →
      (s.dev.integ.recovery = false → ∃ t, exec (.exitRecovery msg) s = .next t ∧ OnlyAnswers s t q sbState []) ∧
      (s.dev.integ.recovery = true → s.dev.pendingLayout = none →
        ∃ t, exec (.exitRecovery msg) s = .next t ∧ t.dev.integ.recovery = false ∧ t.dev.layout = s.dev.layout ∧
          Answered t q sbSuccess (leBytes 1 s.dev.layout.length ++ zeros 7)) ∧
      ∀ l, s.dev.integ.recovery = true → s.dev.pendingLayout = some l → (l.map (fun e => e.firstSg)).Nodup →
        ∃ t, exec (.exitRecovery msg) s = .next t ∧ t.dev.integ.recovery = false ∧ t.dev.layout = l ∧
          t.dev.pendingLayout = none ∧ t.dev.energy.bank = List.replicate 24 0 ∧
          Answered t q sbSuccess (leBytes 1 l.length ++ zeros 7) ∧
          t.dev.roods.map (fun x => (x.num, x.firstSg, x.width)) = l.zipIdx.map (fun p => (p.2, p.1.firstSg, p.1.width)) ∧
          ∀ i e x, l[i]? = some e → s.dev.keptRood e = some x →
            ∃ y, t.dev.rood? i = some y ∧ y.slots = x.slots ∧ y.storageKey = x.storageKey ∧ y.flash = x.flash ∧
              y.flashShare = e.flashShare)

/-- Rule R82, for each control request in its turn: FORMAT, and no effect. -/
def Obligations.MisformedRequestsHaveNoEffect : Prop :=
  ∀ (msg : List Byte) (q : SbReq) (s : State), Misformed q →
    (∀ code pass, code ∈ [1, 2, 3, 4, 5, 6, 8] → Asks s msg code q → SideFree s →
      ∃ t, exec (sideRow code msg pass) s = .next t ∧ OnlyAnswers s t q sbFormat []) ∧
    ∀ e, Asks s msg 0x07 q → ∃ t, exec (.reset msg e) s = .next t ∧ OnlyAnswers s t q sbFormat []

/-- The requests of Table 18.6 are answered beside a control request: the telemetry block, the tallies and the sealed tally in
pieces of at most 4,096 bytes, and a snapshot that starts or joins and is answered at its end with its number and the 32
counters that it latched. A code of neither table is answered UNSUPPORTED, and what is no request is discarded (R81, R83, R84,
R505, R507, R512). -/
def Obligations.SidebandRequestsAreAnswered : Prop :=
  ∀ (msg : List Byte) (q : SbReq) (s : State), s.dev.side.usable = true →
    (sbRequest msg = none → ∀ i, i ∈ [.sidebandUnsupported msg, .getTelemetry msg, .devSnapshot msg, .getTallies msg,
      .getSealed msg, .compose msg, .release msg, .setCap msg] → exec i s = .next s) ∧
    (sbRequest msg = some q → ¬ (1 ≤ q.code ∧ q.code ≤ 8) → ¬ (0x10 ≤ q.code ∧ q.code ≤ 0x13) →
      ∃ t, exec (.sidebandUnsupported msg) s = .next t ∧ OnlyAnswers s t q sbUnsupported []) ∧
    (Asks s msg 0x10 q → q.formatOk = true →
      ∃ t, exec (.getTelemetry msg) s = .next t ∧ OnlyAnswers s t q sbSuccess s.dev.energy.telemetry.bytes) ∧
    (Asks s msg 0x11 q → q.formatOk = true →
      (s.dev.ready = false → ∃ t, exec (.devSnapshot msg) s = .next t ∧ OnlyAnswers s t q sbBusy []) ∧
      (s.dev.ready = true →
        ∃ t, exec (.devSnapshot msg) s = .next t ∧
          t = { s with dev := { s.dev with snap := { s.dev.snap with
            busy := true, waiting := s.dev.snap.waiting ++ [q]
            latched := if s.dev.snap.busy then s.dev.snap.latched
              else (List.range 32).map (fun i => counterGet ⟨.device, 0, i⟩ s.dev.counters) } } })) ∧
    (s.dev.snap.busy = false → exec .devSnapshotDone s = .next s) ∧
    (s.dev.snap.busy = true →
      let n := if (s.dev.snap.number + 1) % 2 ^ 32 = 0 then 1 else (s.dev.snap.number + 1) % 2 ^ 32
      ∃ t, exec .devSnapshotDone s = .next t ∧ t.dev.roods = s.dev.roods ∧ t.dev.counters = s.dev.counters ∧
        t.dev.snap = { s.dev.snap with number := n, busy := false, shadows := s.dev.snap.latched, waiting := [] } ∧
        ∀ k ∈ s.dev.snap.waiting, Answered t k sbSuccess (leBytes 4 n ++ zeros 4 ++ s.dev.snap.latched.flatMap (leBytes 8))) ∧
    (∀ (i : Instr) (code : Nat) (obj : List Byte),
      (i = .getSealed msg ∧ code = 0x13 ∧ obj = s.dev.comp.sealedTally) ∨
        (i = .getTallies msg ∧ code = 0x12 ∧ (s.dev.comp.composed = false ∨ s.dev.comp.releasing = true) ∧ obj = []) ∨
        (i = .getTallies msg ∧ code = 0x12 ∧ s.dev.comp.composed = true ∧ s.dev.comp.releasing = false ∧
          obj = (s.dev.tallies s.clock.time).flatMap Tally.bytes) →
      Asks s msg code q → q.formatOk = true →
      ∃ t, exec i s = .next t ∧
        OnlyAnswers s t q sbSuccess (leBytes 4 obj.length ++ zeros 4 ++ (obj.drop (u32At 0 q.payload)).take 4096) ∧
        (obj.length ≤ u32At 0 q.payload → OnlyAnswers s t q sbSuccess (leBytes 4 obj.length ++ zeros 4))) ∧
    (∀ i code, (i, code) ∈ [(.getTelemetry msg, 0x10), (.devSnapshot msg, 0x11), (.getTallies msg, 0x12), (.getSealed msg, 0x13)] →
      Asks s msg code q → q.formatOk = false → ∃ t, exec i s = .next t ∧ OnlyAnswers s t q sbFormat [])

/-! ## Attestation (chapter 2) -/

/-- Rule R68, at an endpoint at which SPDM is in use: the vendor-defined request for the DXK certificate, which the DIK signs,
and every other one; the neighbour on a chain port, which is no endpoint of Table 2.6, is refused both. -/
def Obligations.DxkCertificateIsReturned : Prop :=
  ∀ (ep : Endpoint) (standard : Nat) (vendor payload : List Byte) (s : State), SpdmOpen s ep →
    let c := Config.certificate (sec1 (ecPublic s.dev.boot.dik)) (sec1 (ecPublic s.dev.boot.dxk))
    (onPort ep = false → standard = 3 → vendor = [0x7A, 0x1D] → payload = [0x01] →
      ∃ t, exec (.vendorDefinedRequest ep standard vendor payload) s = .next t ∧
        OnlyResponds s t ep ([0x7E, 0, 0, 3, 0, 2, 0x7A, 0x1D] ++ leBytes 2 c.length ++ c) []) ∧
    (¬ (onPort ep = false ∧ standard = 3 ∧ vendor = [0x7A, 0x1D] ∧ payload = [0x01]) →
      ∃ t, exec (.vendorDefinedRequest ep standard vendor payload) s = .next t ∧ OnlyResponds s t ep [0x7F, 0x07, 0] [])

/-- SPDM answers what Table 2.6 gives: MEASUREMENTS are signed by the AK over the transcript, with a fresh draw, and hold the
report of a rood, no block for one that does not exist, and for index 0 only their number; an index outside the endpoint's set is
unsupported; a certificate is given in portions; any other request is unsupported; before the end of S13 the
answer is Busy. A neighbour's challenge is answered with the AK while the port is in link-up (R59, R66, R67, R69, R385, R484, R499). The
form of a block is log entry 45's. -/
def Obligations.SpdmRequestsAreAnswered : Prop :=
  ∀ (ep : Endpoint) (s : State),
    (s.dev.spdmReaches ep = true → s.dev.spdmOpen ep = false → ∀ i,
      (∃ slot off len, i = .getCertificate ep slot off len) ∨ (∃ v k b n, i = .getMeasurements ep v k b n) ∨
        (∃ a v p, i = .vendorDefinedRequest ep a v p) →
      ∃ t, exec i s = .next t ∧ OnlyResponds s t ep [0x7F, 0x03, 0] []) ∧
    (SpdmOpen s ep →
      (∀ code, code ∉ [0x81, 0x82, 0xE0, 0xE1, 0xE3, 0x84, 0xFE] →
        ∃ t, exec (.spdmUnsupportedRequest ep code) s = .next t ∧ OnlyResponds s t ep [0x7F, 0x07, 0] []) ∧
      (∀ off len, off < s.dev.certChain.length →
        let part := (s.dev.certChain.drop off).take len
        ∃ t, exec (.getCertificate ep 0 off len) s = .next t ∧
          OnlyResponds s t ep
            ([0x02, 0, 0] ++ leBytes 2 part.length ++ leBytes 2 (s.dev.certChain.length - off - part.length) ++ part) []) ∧
      (∀ slot off len, slot ≠ 0 →
        ∃ t, exec (.getCertificate ep slot off len) s = .next t ∧ OnlyResponds s t ep [0x7F, 0x07, 0] []) ∧
      (∀ slot off len, slot = 0 → s.dev.certChain.length ≤ off →
        ∃ t, exec (.getCertificate ep slot off len) s = .next t ∧ OnlyResponds s t ep [0x7F, 0x01, 0] []) ∧
      (∀ v i signed nonce, (v ≠ 0x12 ∧ v ≠ 0x13) ∨ endpointAsks ep i = false →
        ∃ t, exec (.getMeasurements ep v i signed nonce) s = .next t ∧ OnlyResponds s t ep [0x7F, 0x07, 0] []) ∧
      ∀ v i signed nonce, v = 0x12 ∨ v = 0x13 → endpointAsks ep i = true →
        ∃ t body sig, exec (.getMeasurements ep v i signed nonce) s = .next t ∧
          t = { s with dev := { s.dev with
            boot := { s.dev.boot with draws := s.dev.boot.draws + 1 }, out := s.dev.out ++ [.spdm ep body sig] } } ∧
          sig = ecdsaSign s.dev.boot.ak (Config.nonce s.dev.boot.draws)
            (sha384 (Config.spdmTranscript ([byteOf v, 0xE0, byteOf (bit signed), byteOf i] ++ nonce) body)) ∧
          (i = 0 → body = [0x60, byteOf (allIndexes.filter (fun k => (s.dev.measurementAt s.clock.time ep k).isSome)).length, 0, 0, 0, 0, 0]) ∧
          (1 ≤ i → i ≤ 8 → body = [0x60, 0, 0, 1] ++ leBytes 3 (measurementBlock i (s.dev.measured s.clock.time i)).length ++
            measurementBlock i (s.dev.measured s.clock.time i)) ∧
          (∀ x, 0x10 ≤ i → i < 0x20 → s.dev.rood? (i - 0x10) = some x → body = [0x60, 0, 0, 1] ++
            leBytes 3 (measurementBlock i (x.report (ctxOf s))).length ++ measurementBlock i (x.report (ctxOf s))) ∧
          (0x10 ≤ i → i < 0x20 → s.dev.rood? (i - 0x10) = none → body = [0x60, 0, 0, 0, 0, 0, 0])) ∧
    ∀ p nonce, (s.dev.inLinkUp p = false → exec (.challenge p nonce) s = .next s) ∧
      (s.dev.inLinkUp p = true →
        ∃ t, exec (.challenge p nonce) s = .next t ∧
          t = { s with dev := { s.dev with
            boot := { s.dev.boot with draws := s.dev.boot.draws + 1 }
            out := s.dev.out ++ [.proof p (ecdsaSign s.dev.boot.ak (Config.nonce s.dev.boot.draws)
              (sha384 (Config.spdmTranscript nonce s.dev.measurementSummary)))] } })

/-! ## The chain (chapters 13 and 14) -/

/-- A usable port that is down starts link-up again; a lost link is down; at link-up the device asks its neighbour for its
certificates and challenges it, and the port goes up and an epoch is open
towards every device that a route then reaches, or it stays down with the failed check of R386 logged. A message for another
device leaves by the port of its route with HOPS one greater, and is discarded at HOPS 31 or where no port is up. A message of
an unknown type is acknowledged, counted and discarded. HELLO opens the epoch of its direction, ACK ends the wait of every
message up to it, and the timers send an ACK, send again, or end the epoch (R385 to R391). -/
def Obligations.ChainLinksCarryMessages : Prop :=
  ∀ s : State,
    (∀ p o, s.dev.chain.ports[p]? = some o →
      (s.dev.ready = true → s.dev.portUsable p = true → o.up = false →
        ∃ t, exec (.chainLinkRetry p) s = .next t ∧ t.dev.chain.ports[p]? = some { o with training := true } ∧
          t.dev.chain.pairs = s.dev.chain.pairs ∧ t.dev.roods = s.dev.roods) ∧
      (o.up = true → exec (.chainLinkRetry p) s = .next s) ∧
      (∃ t, exec (.chainLinkLoss p) s = .next t ∧ t.dev.roods = s.dev.roods ∧ t.dev.chain.pairs = s.dev.chain.pairs ∧
        t.dev.chain.ports[p]? = some { o with up := false, training := false, reach := [] } ∧
        ∀ k, k ≠ p → t.dev.chain.ports[k]? = s.dev.chain.ports[k]?) ∧
      ∀ n, s.dev.ready = true → s.dev.portUsable p = true → o.training = true →
        (n.trained = false →
          ∃ t, exec (.chainLinkUp p n) s = .next t ∧ t.dev.chain.ports[p]? = some { o with training := false } ∧
            t.dev.regs.log = s.dev.regs.log) ∧
        (n.trained = true → s.dev.neighbourCheck n ≠ 0 →
          ∃ t k, exec (.chainLinkUp p n) s = .next t ∧ t.dev.chain.ports[p]? = some { o with training := false } ∧
            t.dev.regs.log.entries.head? = some k ∧ k.kind = 0x05 ∧ k.code = s.dev.neighbourCheck n ∧ k.detail = n.number ∧
            k.unitKind = 0x07 ∧ k.unit = p ∧ k.quad = p / 2 ∧ t.dev.roods = s.dev.roods) ∧
        (n.trained = true → s.dev.neighbourCheck n = 0 →
          ∃ t, exec (.chainLinkUp p n) s = .next t ∧ .portRequest p [0x82, 0, 0, 0, 0, 0xFF, 0xFF] ∈ t.dev.out ∧
            ((∀ i ∈ n.number :: n.reach, (s.dev.pair i).txOpen = false) →
              t.dev.regs.log = s.dev.regs.log ∧ t.dev.roods = s.dev.roods) ∧
            t.dev.chain.ports[p]? = some { up := true, training := false, neighbour := n.number, reach := n.reach } ∧
            ∀ i ∈ n.number :: n.reach, t.dev.reaches i = true → (t.dev.pair i).txOpen = true)) ∧
    (∀ m p, s.dev.ready = true → m.dst ≠ s.dev.number → m.hops ≠ 31 → s.dev.route m.dst = some p →
      ∃ t, exec (.chainForward m) s = .next t ∧
        t = { s with dev := { s.dev with out := s.dev.out ++ [.chain p { m with hops := m.hops + 1 }] } }) ∧
    (∀ m, m.hops = 31 ∨ s.dev.route m.dst = none → exec (.chainForward m) s = .next s) ∧
    (∀ m, m.typ ∉ knownTypes → NextInTurn s m.typ m →
      ∃ t, exec (.chainUnknownType m) s = .next t ∧ Applied s t m ∧ t.dev.roods = s.dev.roods ∧ t.dev.out = s.dev.out ∧
        t.dev.counters = if (s.dev.rood? m.dstRood).isSome then counterAdd ⟨.rood, m.dstRood, 12⟩ 1 s.dev.counters
          else s.dev.counters) ∧
    (∀ m, m.typ = 0x3E → s.dev.hears m = true → msgCrcOk m = true → m.seq = 1 → (s.dev.pair m.src).rxOpen = false →
      (s.dev.pair m.src).unacked = [] →
      ∃ t, exec (.hello m) s = .next t ∧ t.dev.roods = s.dev.roods ∧
        t.dev.pair m.src = { s.dev.pair m.src with rxOpen := true, rxEpoch := m.epoch, rxSeq := 1, held := [], owesAck := true }) ∧
    (∀ m u before after, m.typ = 0x3F → s.dev.hears m = true → msgCrcOk m = true → (s.dev.pair m.src).rxEpoch = m.epoch →
      (s.dev.pair m.src).unacked = before ++ u :: after → u.seq = m.ack → (∀ k ∈ before, k.seq ≠ m.ack) →
      before.length + after.length < 4096 →
      ∃ t, exec (.ack m) s = .next t ∧ t.dev.roods = s.dev.roods ∧ t.dev.out = s.dev.out ∧
        t.dev.pair m.src = { s.dev.pair m.src with unacked := after }) ∧
    (∀ peer p, s.dev.ready = true → s.dev.route peer = some p →
      ((s.dev.pair peer).owesAck = true →
        ∃ t k, exec (.ackSendTimer peer) s = .next t ∧ t.dev.out = s.dev.out ++ [.chain p k] ∧ k.typ = 0x3F ∧ k.dst = peer ∧
          k.ack = (s.dev.pair peer).rxSeq ∧ msgCrcOk k = true ∧ (t.dev.pair peer).owesAck = false) ∧
      ∀ u, (s.dev.pair peer).unacked = [u] → u.dst = peer →
        ∃ t k, exec (.chainResendTimer peer) s = .next t ∧ t.dev.out = s.dev.out ++ [.chain p k] ∧ k.seq = u.seq ∧
          k.typ = u.typ ∧ k.op = u.op ∧ k.payload = u.payload ∧ k.epoch = u.epoch ∧ k.ack = (s.dev.pair peer).rxSeq ∧
          (t.dev.pair peer).unacked = [u]) ∧
    ∀ peer, ((s.dev.pair peer).owesAck = false → exec (.ackSendTimer peer) s = .next s) ∧
      ((s.dev.pair peer).unacked = [] → exec (.chainResendTimer peer) s = .next s ∧
        (s.dev.roods.any (fun x => x.waitsOn peer) = false → exec (.chainEpochTimeout peer) s = .next s)) ∧
      (AtRest s → (s.dev.pair peer).txOpen = true → (s.dev.pair peer).unacked ≠ [] → s.dev.reaches peer = false →
        ∃ t, exec (.chainEpochTimeout peer) s = .next t ∧ t.dev.pair peer = { s.dev.pair peer with txOpen := false, unacked := [] }) ∧
      (AtRest s → (s.dev.pair peer).txOpen = true → (s.dev.pair peer).unacked ≠ [] → s.dev.reaches peer = true →
        ∃ t k, exec (.chainEpochTimeout peer) s = .next t ∧ (t.dev.pair peer).txOpen = true ∧
          (t.dev.pair peer).txEpoch = Config.random64 s.dev.boot.draws ∧ (t.dev.pair peer).unacked = [k] ∧ k.typ = 0x3E ∧ k.seq = 1)

/-- The messages of a move, each the next of its pair. OFFER, with what its sender holds beside it (log entry 28): the first test
of Table 13.10 that fails is sent in REFUSE and nothing is kept, or the slot and the record are reserved and ACCEPT carries the
reserved handle. ACCEPT is followed by the bushel. LIST and FRAME add to the bushel that arrives. DONE frees the local slot and
completes the migration with the peer's handle; REFUSE completes it with ST_PEER, the session RESIDENT again, and ABORT is sent;
ABORT frees what the receiver reserved (R393, R394, R395, R399). -/
def Obligations.MovesFollowTheirMessages : Prop :=
  ∀ (m : ChainMsg) (s : State) (x : Rood),
    (∀ o, Heard s 0x01 m x → let st := x.offerTest ⟨s.clock.time, s.dev.withOrigin m o⟩ m.src m.srcRood m.op m.payload
      (st ≠ 0 →
        ∃ t, exec (.offer ⟨m, o⟩) s = .next t ∧ Applied s t m ∧ Becomes t m.dstRood x ((x.heard m).sent 4) ∧
          Replied s t m 0x03 (leBytes 4 st)) ∧
      ∀ i y, st = 0 → x.popSlot = some (i, y) → 0 < hdrFrames (m.payload.take 512) →
        let a := x.arrivalOf m.src m.srcRood m.op i m.payload o
        ∃ t, exec (.offer ⟨m, o⟩) s = .next t ∧ Applied s t m ∧ Replied s t m 0x02 (leBytes 4 ((x.slot i).gen <<< 24 ||| i)) ∧
          Becomes t m.dstRood x (((({ x with freeLists := y.freeLists, arrivals := x.arrivals ++ [a] } : Rood).setSlot i
            { x.slot i with taken := true }).modCring a.cring (fun c => { c with reserved := c.reserved + 1 }) |>.heard m).sent 4)) ∧
    (Heard s 0x02 m x → ∀ v, x.moveOf m.src m.op = some v →
      (v.accepted = true → ∃ t, exec (.accept m) s = .next t ∧ Applied s t m ∧ Becomes t m.dstRood x (x.heard m)) ∧
      (v.accepted = false →
        ∃ t n, exec (.accept m) s = .next t ∧ Applied s t m ∧
          Becomes t m.dstRood x (((x.setMove { v with accepted := true }).heard m).sent n) ∧
          ∀ h l fs, bushelParts v.bushel = (h, l, fs) → l ≠ [] → l.length ≤ 65536 → v.peerRood = m.srcRood →
            Replied s t m 0x04 l)) ∧
    (Heard s 0x03 m x → ∀ v e d q, x.moveOf m.src m.op = some v → v.kind = 4 → x.entry? v.slot = some e → e.state = .moving →
      x.cmd? v.cmd = some d → CanReport x d q → StepsHeld x →
      ∃ t, exec (.refuse m) s = .next t ∧ Applied s t m ∧
        Ends t m.dstRood x (((x.dropMove v.slot).setEntry v.slot
          { e with state := .resident, moveKind := 0, bushel := 0, lastTime := s.clock.time }).heard m) d q (d.record stPeer)) ∧
    (Heard s 0x04 m x → ∀ a, x.arrival? m.src m.op = some a → a.frames.length ≠ hdrFrames a.header →
      ∃ t, exec (.list m) s = .next t ∧ Applied s t m ∧
        Becomes t m.dstRood x (({ x with arrivals := x.arrivals.map (fun (b : Arrival) => if b.src = m.src ∧ b.op = m.op then
          { a with list := (a.list ++ m.payload).take (8 * hdrFrames a.header) } else b) } : Rood).heard m)) ∧
    (Heard s 0x05 m x → ∀ a, x.arrival? m.src m.op = some a → a.list.length ≠ 8 * hdrFrames a.header →
      ∃ t, exec (.frame m) s = .next t ∧ Applied s t m ∧
        Becomes t m.dstRood x (if u32At 0 m.payload < hdrFrames a.header then
          ({ x with arrivals := x.arrivals.map (fun (b : Arrival) => if b.src = m.src ∧ b.op = m.op then
            { a with frames := putKey (u32At 0 m.payload) (padTo frameBytes (m.payload.drop 8)) a.frames } else b) } : Rood).heard m
          else x.heard m)) ∧
    (Heard s 0x06 m x → ∀ v e d q, x.moveOf m.src m.op = some v → v.kind = 4 → x.entry? v.slot = some e →
      x.cmd? v.cmd = some d → CanReport x d q → StepsHeld x →
      let z := (((x.freeKv v.slot e).labDrop v.slot).dropMove v.slot).freeSlot v.slot
      z.entry? v.slot = none ∧
        ∃ t, exec (.done m) s = .next t ∧ Applied s t m ∧
          Ends t m.dstRood x (z.heard m) d q { d.record stOk with result := [u32At 0 m.payload, 0, 0, 0] }) ∧
    (Heard s 0x07 m x → ∀ a, x.arrival? m.src m.op = some a → NonePosted x →
      ∃ t, exec (.abort m) s = .next t ∧ Applied s t m ∧
        Becomes t m.dstRood x ((((x.dropArrival a).untakeSlot a.slot).modCring a.cring
          (fun c => { c with reserved := c.reserved - 1 })).heard m))

/-- The messages of a shard of a vector index, each the next of its pair. A request is held until it is whole, and then served
or refused, with a VEC_LIST or a VEC_REFUSE; a list is held until it is whole and then joins its query; a refusal completes the query with ST_PEER (R366, R367,
R368). The messages of a checkpoint shard, each the next of its pair. An offer that fails tests 1, 2 or 7 is refused, another is
accepted and its bytes are stored as they come. ACCEPT is followed by the shard, a refusal completes the checkpoint with
ST_PEER, DONE makes the shard durable. An inventory holds the header of every shard of the lineage; a shard that is not there is
answered with SHARD_NONE. The header of a shard that a restore fetches is kept for its data, and a shard that is nowhere to be had
ends the restore with ST_INCOMPLETE. What comes for a restore replaces nothing of the rood (R423, R424, R425, R427, R429, R430). -/
def Obligations.QueriesAndShardsFollowTheirMessages : Prop :=
  (∀ (m : ChainMsg) (s : State) (x : Rood),
     (Heard s 0x10 m x → x.vecReqs = [] →
       let whole := 16 ≤ m.payload.length ∧ 16 + u32At 8 m.payload * (4 * (u32At 0 m.payload >>> 16)) ≤ m.payload.length
       (¬ whole →
         ∃ t, exec (.vecReq m) s = .next t ∧ Applied s t m ∧
           Becomes t m.dstRood x (({ x with vecReqs := [(m.src, m.op, m.payload)] } : Rood).heard m)) ∧
       (whole → x.mayServe (ctxOf s) m.src m.payload = none →
         ∃ t, exec (.vecReq m) s = .next t ∧ Applied s t m ∧ Becomes t m.dstRood x (x.heard m) ∧ Replied s t m 0x12 []) ∧
       ∀ v, whole → x.mayServe (ctxOf s) m.src m.payload = some v →
         ∃ t y l, exec (.vecReq m) s = .next t ∧ Applied s t m ∧ Replied s t m 0x11 l ∧ Becomes t m.dstRood x y ∧ y.vecs = x.vecs ∧ y.slots = x.slots ∧
           y.kv = x.kv ∧ y.vecOps = x.vecOps ∧ y.cmds = x.cmds) ∧
     (Heard s 0x11 m x → ∀ o, x.sweepOf m.src m.op = some o →
       let all := ((lookKey m.src o.joined).getD []) ++ m.payload
       ∃ t p, exec (.vecList m) s = .next t ∧ Applied s t m ∧
         Becomes t m.dstRood x (({ x with vecOps := x.vecOps.map (fun (k : VecOp) => if k.cmd = o.cmd then p else k) } : Rood).heard m) ∧
         (readLists o.count all = none → p = { o with joined := putKey m.src all o.joined }) ∧
         ∀ l, readLists o.count all = some l → p = { o with
           joined := delKey m.src o.joined, waiting := o.waiting.filter (fun i => i != m.src), lists := o.lists ++ [(m.src, l)] }) ∧
     (Heard s 0x12 m x → ∀ o d q, x.sweepOf m.src m.op = some o → x.cmd? o.cmd = some d → CanReport x d q →
       ∃ t, exec (.vecRefuse m) s = .next t ∧ Applied s t m ∧ Ends t m.dstRood x ((x.vecGone d).heard m) d q { d.record stPeer with
         flagged := d.flagged || (d.opcode == 0x23 && (x.vec? d.index).any (fun v => v.damaged)) })) ∧
  (∀ (m : ChainMsg) (s : State) (x : Rood),
     (Heard s 0x20 m x →
       let h := readShardHdr m.payload
       let st := if x.offerTest12 m.src ≠ 0 then x.offerTest12 m.src
         else if x.shareHolds (extentsOf (4096 + h.shardLen)) then 0 else 7
       (st ≠ 0 →
         ∃ t, exec (.shardOffer m) s = .next t ∧ Applied s t m ∧ Becomes t m.dstRood x ((x.heard m).sent 4) ∧
           Replied s t m 0x22 (leBytes 4 st)) ∧
       (st = 0 →
         ∃ t, exec (.shardOffer m) s = .next t ∧ Applied s t m ∧ Replied s t m 0x21 [] ∧
           Becomes t m.dstRood x (({ x with ckp := { x.ckp with incoming := x.ckp.incoming ++
             [{ op := m.op, src := m.src, srcRood := m.srcRood, hdr := h, data := [] }] } } : Rood).heard m))) ∧
     (Heard s 0x21 m x → ∀ k, x.shardOp m.src m.op = some k → k.accepted = false → k.data ≠ [] → k.data.length ≤ 65536 →
       k.rood = m.srcRood →
       ∃ t, exec (.shardAccept m) s = .next t ∧ Applied s t m ∧ Replied s t m 0x23 (leBytes 8 0 ++ k.data) ∧
         Becomes t m.dstRood x (((x.modShard m.src m.op (fun k => { k with accepted := true })).heard m).sent (8 + k.data.length))) ∧
     (Heard s 0x22 m x → ∀ u d q, x.ckp.run = some u → x.ckp.trailing = [] → x.cmd? u.cmd = some d → CanReport x d q →
       (∃ k ∈ u.shards, k.peer = m.src ∧ k.op = m.op ∧ k.durable = false) →
       ∃ t, exec (.shardRefuse m) s = .next t ∧ Applied s t m ∧
         Ends t m.dstRood x (({ x.freeCopy with ckp := { x.ckp with
           run := none
           ref := x.ckp.ref.map (CkpRef.keepNumbers u)
           trailing := u.shards.filter (fun k => !(k.peer == m.src && k.op == m.op) && !k.durable) } } : Rood).heard m) d q
           (d.record stPeer)) ∧
     (Heard s 0x23 m x → ∀ i, x.ckp.restore = none → x.ckp.incoming = [i] → i.src = m.src → i.op = m.op →
       u64At 0 m.payload = i.data.length → i.data.length + (m.payload.length - 8) < i.hdr.shardLen →
       ∃ t, exec (.shardData m) s = .next t ∧ Applied s t m ∧
         Becomes t m.dstRood x (({ x with ckp := { x.ckp with
           incoming := [{ i with data := i.data ++ m.payload.drop 8 }] } } : Rood).heard m)) ∧
     (Heard s 0x24 m x →
       let now := fun (k : ShardRun) => if k.peer = m.src ∧ k.op = m.op then { k with durable := true } else k
       ∃ t, exec (.shardDone m) s = .next t ∧ Applied s t m ∧
         Becomes t m.dstRood x (({ x with ckp := { x.ckp with
           run := x.ckp.run.map (fun u => { u with shards := u.shards.map now })
           trailing := (x.ckp.trailing.map now).filter (fun k => !k.durable) } } : Rood).heard m)) ∧
     (Heard s 0x25 m x →
       let hs := x.ownShards (ctxOf s) (BitVec.ofNat 64 (u64At 0 m.payload))
       let answer := leBytes 4 hs.length ++ zeros 4 ++ hs.flatMap ShardHdr.bytes
       ∃ t, exec (.invReq m) s = .next t ∧ Applied s t m ∧ Becomes t m.dstRood x ((x.heard m).sent answer.length) ∧
         (answer.length ≤ 65544 → Replied s t m 0x26 answer)) ∧
     (Heard s 0x27 m x → x.shardsOf (BitVec.ofNat 64 (u64At 0 m.payload)) (u32At 16 m.payload) = [] →
       ∀ w, ∃ t, exec (.shardGet ⟨m, w⟩) s = .next t ∧ Applied s t m ∧ Becomes t m.dstRood x (x.heard m) ∧ Replied s t m 0x29 []) ∧
     (∀ u, Heard s 0x26 m x → x.ckp.restore = some u → (m.src, m.op) ∈ u.waiting → (∃ w ∈ u.waiting, w ≠ (m.src, m.op)) →
       let all := ((lookKey m.src u.lists).getD []) ++ m.payload
       (all.length < 8 + 128 * u32At 0 all →
         ∃ t, exec (.invList m) s = .next t ∧ Applied s t m ∧
           Becomes t m.dstRood x (({ x with ckp := { x.ckp with
             restore := some { u with lists := putKey m.src all u.lists } } } : Rood).heard m)) ∧
       (8 + 128 * u32At 0 all ≤ all.length → ∃ t, exec (.invList m) s = .next t ∧ Applied s t m ∧
         Becomes t m.dstRood x (({ x with ckp := { x.ckp with restore := some { u with
           lists := delKey m.src u.lists
           waiting := u.waiting.filter (fun w => !(w.1 == m.src && w.2 == m.op))
           items := u.items ++ (((invHeaders all).filter (fun h => h.lineage == x.regs.lineage)).map
             (fun h => ({ hdr := h, peer := m.src } : InvItem))) } } } : Rood).heard m))) ∧
     (∀ u d q f s₀ seqs, x.ckp.restore = some u → x.cmd? u.cmd = some d → u.fetching = [f] → f.peer = m.src → f.op = m.op →
       u.choose (x.shape (ctxOf s)) d.ckpSeq = (0, some s₀) → u.chain (x.shape (ctxOf s)) s₀ = some seqs →
       (Heard s 0x28 m x → shardHdrOk m.payload = true → f.data.length < (readShardHdr m.payload).shardLen →
         (∀ k ∈ seqs, u.missing k = 0 ∧ k ∉ u.bad) →
         ∃ t, exec (.shardHdr m) s = .next t ∧ Applied s t m ∧
           Becomes t m.dstRood x (({ x with ckp := { x.ckp with restore := some { u with
             chosen := s₀, fetching := [{ f with hdr := some (readShardHdr m.payload) }] } } } : Rood).heard m)) ∧
       (Heard s 0x29 m x → CanReport x d q → StepsHeld x → x.vecQueue = [] → (∀ i ∈ u.items, i.hdr.seq = s₀) → seqs = [s₀] →
         s₀ ∉ u.bad → 0 < ({ u with fetching := [] } : RestoreRun).missing s₀ →
         ({ u with fetching := [] } : RestoreRun).nextItem s₀ = none →
         ∃ t, exec (.shardNone m) s = .next t ∧ Applied s t m ∧
           Ends t m.dstRood x (({ x with ckp := { x.ckp with restore := none } } : Rood).heard m) d q (d.record stIncomplete))) ∧
     ∀ (typ : Nat) (i : Instr), (typ = 0x26 ∧ i = .invList m) ∨ (typ = 0x28 ∧ i = .shardHdr m) ∨ (typ = 0x29 ∧ i = .shardNone m) →
       Heard s typ m x →
       (x.ckp.restore = none → ∃ t, exec i s = .next t ∧ Applied s t m ∧ Becomes t m.dstRood x (x.heard m)) ∧
       (StepsHeld x → NonePosted x → x.vecQueue = [] →
         ∃ t y, exec i s = .next t ∧ Applied s t m ∧ Becomes t m.dstRood x y ∧ y.slots = x.slots ∧ y.kv = x.kv ∧ y.vecs = x.vecs ∧
           y.obj = x.obj ∧ y.flash = x.flash ∧ y.staging = x.staging ∧ y.ckp.ref = x.ckp.ref ∧ y.ckp.run = x.ckp.run))
end

