-- ==== Sys2Proof/Laws/Boot.lean ====
section
/-! SUPPORT. What a start leaves alone: counters, snapshots, the sideband, the cap and the host link. -/
namespace Sys2Proof.Machine
open Sys2Proof

/-- What no step of a start touches. -/
def StartKeeps (d e : Dev) : Prop :=
  e.snap = d.snap ∧ e.side = d.side ∧ e.counters = d.counters ∧ e.pendingLayout = d.pendingLayout ∧
    e.energy.sidebandCap = d.energy.sidebandCap ∧ e.energy.hostCap = d.energy.hostCap ∧
    e.energy.inForce = d.energy.inForce ∧ e.energy.thermTrip = d.energy.thermTrip ∧ e.regs.linkRate = d.regs.linkRate ∧
    e.regs.linkWidth = d.regs.linkWidth ∧ e.regs.msix = d.regs.msix ∧ e.chain.pairs = d.chain.pairs ∧
    e.boot.fuses = d.boot.fuses ∧ e.boot.trainWrites = d.boot.trainWrites ∧
    e.integ = { d.integ with sgFailed := e.integ.sgFailed } ∧ d.out <+: e.out

theorem StartKeeps.refl (d : Dev) : StartKeeps d d := by simp [StartKeeps]

theorem StartKeeps.trans {a b c : Dev} (h : StartKeeps a b) (k : StartKeeps b c) : StartKeeps a c := by
  unfold StartKeeps at *
  obtain ⟨h1, h2, h3, h4, h5, h6, h7, h8, h9, h10, h11, h12, h13, h14, h15, h16⟩ := h
  obtain ⟨k1, k2, k3, k4, k5, k6, k7, k8, k9, k10, k11, k12, k13, k14, k15, k16⟩ := k
  exact ⟨k1.trans h1, k2.trans h2, k3.trans h3, k4.trans h4, k5.trans h5, k6.trans h6, k7.trans h7, k8.trans h8, k9.trans h9,
    k10.trans h10, k11.trans h11, k12.trans h12, k13.trans h13, k14.trans h14, by rw [k15, h15], h16.trans k16⟩

theorem foldl_startKeeps {α : Type} (f : Dev → α → Dev) (h : ∀ d a, StartKeeps d (f d a)) (l : List α) (d : Dev) :
    StartKeeps d (l.foldl f d) := by
  induction l generalizing d with
  | nil => exact StartKeeps.refl d
  | cons a l ih => exact (h d a).trans (ih _)

theorem ite_startKeeps {c : Prop} [Decidable c] {d a b : Dev} (h : StartKeeps d a) (k : StartKeeps d b) :
    StartKeeps d (if c then a else b) := by
  split
  · exact h
  · exact k

/-- A change of the boot state alone that keeps the fuses and the queue of writes. -/
theorem boot_startKeeps (d : Dev) (b : Boot) (h : b.fuses = d.boot.fuses) (k : b.trainWrites = d.boot.trainWrites) :
    StartKeeps d { d with boot := b } := by
  simp [StartKeeps, h, k]

theorem readRecords_startKeeps (d : Dev) : StartKeeps d { d with boot := d.boot.readRecords } :=
  boot_startKeeps d _ rfl rfl

theorem flash_startKeeps (d : Dev) (f : Flash) : StartKeeps d { d with flash := f } := by simp [StartKeeps]

theorem ports_startKeeps (d : Dev) (l : List Port) : StartKeeps d { d with chain := { d.chain with ports := l } } := by
  simp [StartKeeps]

theorem roods_startKeeps (d : Dev) (l : List Rood) : StartKeeps d { d with roods := l } := by simp [StartKeeps]

theorem out_startKeeps (d : Dev) (l : List Output) : StartKeeps d { d with out := d.out ++ l } := by simp [StartKeeps]

theorem log_startKeeps (e : LogEntry) (d : Dev) : StartKeeps d (d.log e) := by simp [StartKeeps, Dev.log]

theorem giveCode_startKeeps (t : W64) (c n r : Nat) (u : Option UnitId) (d : Dev) : StartKeeps d (d.giveCode t c n r u) := by
  simp [StartKeeps, Dev.giveCode, Dev.log]

theorem bootRecord_fuses (f : BootRecord → BootRecord) (b : Boot) :
    (b.writeRecord f).fuses = b.fuses ∧ (b.writeRecord f).trainWrites = b.trainWrites := by
  exact ⟨rfl, rfl⟩

theorem writeRecord_startKeeps (f : BootRecord → BootRecord) (d : Dev) : StartKeeps d (d.writeRecord f) := by
  have h := bootRecord_fuses f d.boot
  simp [StartKeeps, Dev.writeRecord, h]

theorem closeStart_startKeeps (r : Bool) (d : Dev) : StartKeeps d (d.closeStart r) := by
  unfold Dev.closeStart
  exact (writeRecord_startKeeps _ d).trans (boot_startKeeps _ _ rfl rfl)

theorem stopStart_startKeeps (t : W64) (c n : Nat) (d : Dev) : StartKeeps d (d.stopStart t c n) := by
  unfold Dev.stopStart
  dsimp only
  have h : StartKeeps d { d.giveCode t c n 0 none with boot := { (d.giveCode t c n 0 none).boot with phase := .stopped } } :=
    (giveCode_startKeeps t c n 0 none d).trans (by simp [StartKeeps])
  split
  · exact h
  · exact h.trans (closeStart_startKeeps _ _)

theorem setFailed_startKeeps (g : Nat) (d : Dev) : StartKeeps d (d.setFailed g) := by simp [StartKeeps, Dev.setFailed]

theorem mapDefects_startKeeps (f : DefectMap → DefectMap) (d : Dev) : StartKeeps d (d.mapDefects f) := by
  simp [StartKeeps, Dev.mapDefects]

theorem failSg_startKeeps (g : Nat) (d : Dev) : StartKeeps d (d.failSg g) :=
  (setFailed_startKeeps _ _).trans (mapDefects_startKeeps _ _)

theorem bootTile_startKeeps (t : W64) (c : Nat) (d : Dev) (n : Nat) : StartKeeps d (d.bootTile t c n) := by
  unfold Dev.bootTile
  dsimp only
  refine ite_startKeeps ?_ (ite_startKeeps (ite_startKeeps ?_ ?_) (ite_startKeeps ?_ ?_))
  · exact giveCode_startKeeps _ _ _ _ _ _
  · exact (mapDefects_startKeeps _ _).trans (giveCode_startKeeps _ _ _ _ _ _)
  · exact ((mapDefects_startKeeps _ _).trans (failSg_startKeeps _ _)).trans (giveCode_startKeeps _ _ _ _ _ _)
  · exact (mapDefects_startKeeps _ _).trans (giveCode_startKeeps _ _ _ _ _ _)
  · exact giveCode_startKeeps _ _ _ _ _ _

theorem s03_startKeeps (e : StartEnv) (t : W64) (d : Dev) : StartKeeps d (d.s03 e t) := by
  unfold Dev.s03
  dsimp only
  have h : StartKeeps d { d with boot := { d.boot with image := e.image } } := by simp [StartKeeps]
  refine ite_startKeeps ?_ (ite_startKeeps ?_ (ite_startKeeps (ite_startKeeps ?_ ?_) (ite_startKeeps ?_ ?_)))
  · exact stopStart_startKeeps _ _ _ _
  · exact stopStart_startKeeps _ _ _ _
  · exact h
  · simp [StartKeeps]
  · exact h.trans (((readRecords_startKeeps _).trans (boot_startKeeps _ _ rfl rfl)).trans (stopStart_startKeeps _ _ _ _))
  · refine h.trans ((readRecords_startKeeps _).trans ?_)
    unfold Dev.openRecord
    dsimp only
    refine StartKeeps.trans ?_ (writeRecord_startKeeps _ _)
    unfold Dev.takeLimit
    split <;> simp [StartKeeps]

theorem s04_startKeeps (t : W64) (d : Dev) : StartKeeps d (d.s04 t) := by
  unfold Dev.s04
  dsimp only
  apply ite_startKeeps (StartKeeps.refl d)
  split
  · exact (foldl_startKeeps _ (fun d p => giveCode_startKeeps _ _ _ _ _ d) _ _).trans (boot_startKeeps _ _ rfl rfl)
  · exact (foldl_startKeeps _ (fun d p => giveCode_startKeeps _ _ _ _ _ d) _ _).trans (stopStart_startKeeps _ _ _ _)

theorem bootUnit_startKeeps (t : W64) (d : Dev) (u : UnitId) : StartKeeps d (d.bootUnit t u) :=
  (failSg_startKeeps _ d).trans (giveCode_startKeeps _ _ _ _ _ _)

theorem s07_startKeeps (e : StartEnv) (t : W64) (d : Dev) : StartKeeps d (d.s07 e t) := by
  have f3 : ∀ (d : Dev) (b : Nat), StartKeeps d
      ((d.mapDefects (fun m => { m with bridgeFailed := bvSet b m.bridgeFailed })).giveCode t 0x0703 0 0x08 (some (.bridge b))) :=
    fun d g => (mapDefects_startKeeps _ d).trans (giveCode_startKeeps _ _ _ _ _ _)
  have h : ∀ (k l m : List Nat) (us : List UnitId), StartKeeps d (m.foldl _ (us.foldl _ (l.foldl _ d))) := fun k l m us =>
    ((foldl_startKeeps _ (fun d n => bootTile_startKeeps t 0x0701 d n) l d).trans
      (foldl_startKeeps _ (fun d u => bootUnit_startKeeps t d u) us _)).trans (foldl_startKeeps _ f3 m _)
  unfold Dev.s07
  dsimp only
  exact ite_startKeeps (h [] _ _ _) ((h [] _ _ _).trans (stopStart_startKeeps _ _ _ _))

theorem s08_startKeeps (e : StartEnv) (t : W64) (d : Dev) : StartKeeps d (d.s08 e t) := by
  unfold Dev.s08
  dsimp only
  refine StartKeeps.trans ?_ (foldl_startKeeps _ ?_ _ _)
  · exact (foldl_startKeeps _ (fun d g => giveCode_startKeeps _ _ _ _ _ d) _ _).trans (boot_startKeeps _ _ rfl rfl)
  · intro d g
    unfold Dev.trainFails
    apply ite_startKeeps
    · exact (failSg_startKeeps _ _).trans (giveCode_startKeeps _ _ _ _ _ _)
    · exact (setFailed_startKeeps _ _).trans (giveCode_startKeeps _ _ _ _ _ _)

theorem identify_startKeeps (e : StartEnv) (t : W64) (d : Dev) : StartKeeps d (d.identify e t) := by
  unfold Dev.identify
  dsimp only
  exact ((foldl_startKeeps _ (fun d g => giveCode_startKeeps _ _ _ _ _ d) _ _).trans (mapDefects_startKeeps _ _)).trans
    (foldl_startKeeps _ (fun d g => (mapDefects_startKeeps _ d).trans (giveCode_startKeeps _ _ _ _ _ _)) _ _)

theorem s10_startKeeps (e : StartEnv) (t : W64) (d : Dev) : StartKeeps d (d.s10 e t) := by
  unfold Dev.s10
  dsimp only
  refine StartKeeps.trans ((ite_startKeeps (identify_startKeeps e t d) (StartKeeps.refl d)).trans
    (foldl_startKeeps _ (fun d g => giveCode_startKeeps _ _ _ _ _ d) _ _)) (flash_startKeeps _ _)

theorem formAll_startKeeps (d : Dev) : StartKeeps d d.formAll := by
  unfold Dev.formAll
  dsimp only
  refine StartKeeps.trans (foldl_startKeeps (fun d x => d.freePlaces x) ?_ d.roods d) (roods_startKeeps _ _)
  intro d x
  simp [StartKeeps, Dev.freePlaces]

theorem formRoods_startKeeps (d : Dev) : StartKeeps d d.formRoods := by
  have h : StartKeeps d d.setTalliesAside := by
    unfold Dev.setTalliesAside
    exact ite_startKeeps (by simp [StartKeeps]) (StartKeeps.refl d)
  unfold Dev.formRoods
  exact ite_startKeeps (roods_startKeeps _ _) (h.trans (formAll_startKeeps _))

theorem s11_startKeeps (t : W64) (d : Dev) : StartKeeps d (d.s11 t) := by
  unfold Dev.s11
  dsimp only
  apply ite_startKeeps (stopStart_startKeeps _ _ _ _)
  refine StartKeeps.trans ?_ (foldl_startKeeps _ ?_ _ _)
  · refine StartKeeps.trans ?_ (formRoods_startKeeps _)
    simp [StartKeeps]
  · intro d p
    apply ite_startKeeps _ (StartKeeps.refl d)
    exact (log_startKeeps _ d).trans (boot_startKeeps _ _ rfl rfl)

theorem s12_startKeeps (t : W64) (d : Dev) : StartKeeps d (d.s12 t) := by
  unfold Dev.s12
  dsimp only
  apply ite_startKeeps (StartKeeps.refl d)
  refine StartKeeps.trans (StartKeeps.trans ?_ (foldl_startKeeps _ (fun d g => giveCode_startKeeps _ _ _ _ _ d) _ _))
    (ports_startKeeps _ _)
  exact ite_startKeeps (StartKeeps.refl d) (giveCode_startKeeps _ _ _ _ _ _)

theorem bootPort_startKeeps (e : StartEnv) (t : W64) (d : Dev) (p : Nat) : StartKeeps d (d.bootPort t e p) := by
  unfold Dev.bootPort
  dsimp only
  refine ite_startKeeps ?_ (ite_startKeeps ?_ ?_)
  · exact ((ports_startKeeps _ _).trans (mapDefects_startKeeps _ _)).trans (giveCode_startKeeps _ _ _ _ _ _)
  · exact (mapDefects_startKeeps _ _).trans (ports_startKeeps _ _)
  · exact mapDefects_startKeeps _ _

theorem s13_startKeeps (e : StartEnv) (t : W64) (d : Dev) : StartKeeps d (d.s13 e t) := by
  unfold Dev.s13
  exact ite_startKeeps (stopStart_startKeeps _ _ _ _) (foldl_startKeeps _ (fun d p => bootPort_startKeeps e t d p) _ _)

theorem recompose_startKeeps (d : Dev) : StartKeeps d d.recompose := by
  refine foldl_startKeeps _ ?_ _ _
  intro d x
  simp [StartKeeps, Dev.resumeRood, Dev.setRood]

theorem endComposition_startKeeps (d : Dev) : StartKeeps d d.endComposition := by
  simp [StartKeeps, Dev.endComposition, Dev.uncompose, Dev.sealComposition, Dev.akSign]

theorem s14_startKeeps (d : Dev) : StartKeeps d d.s14 := by
  have h : ∀ e : Dev, StartKeeps e (if e.comp.ended then e.endComposition
      else if e.comp.composed then ({ e with roods := e.roods.map Rood.emptied } : Dev).recompose
      else e) := fun e =>
    ite_startKeeps (endComposition_startKeeps e)
      (ite_startKeeps ((roods_startKeeps _ _).trans (recompose_startKeeps _)) (StartKeeps.refl e))
  have h1 : ∀ e : Dev, StartKeeps e { e.powerDown with out := e.out ++ [.ready] } := by
    intro e
    simp [StartKeeps, Dev.powerDown]
  have h0 : StartKeeps d { d with
      energy := { d.energy with bank := List.replicate 24 0, share := 0, active := List.replicate 24 false }
      boot := { d.boot with phase := .ready, retained := true, noFast := d.boot.wasInProgress, cause := none } } := by
    simp [StartKeeps]
  unfold Dev.s14
  exact ((h0.trans (closeStart_startKeeps _ _)).trans (h _)).trans (h1 _)

theorem bootStep_startKeeps (e : StartEnv) (t : W64) (d : Dev) (n : Nat) :
    StartKeeps d (d.bootStep e t n) := by
  unfold Dev.bootStep
  split
  · apply ite_startKeeps (StartKeeps.refl d)
    refine StartKeeps.trans (b := { d with boot := { d.boot with phase := .starting n, step := n } }) (by simp [StartKeeps]) ?_
    generalize ({ d with boot := { d.boot with phase := .starting n, step := n } } : Dev) = d
    dsimp only
    split
    · unfold Dev.s01
      exact ite_startKeeps (stopStart_startKeeps _ _ _ _) (ite_startKeeps (stopStart_startKeeps _ _ _ _) (StartKeeps.refl d))
    · unfold Dev.s02
      refine ite_startKeeps ?_ (ite_startKeeps ?_ (ite_startKeeps ?_ ?_))
      · exact stopStart_startKeeps _ _ _ _
      · exact stopStart_startKeeps _ _ _ _
      · exact stopStart_startKeeps _ _ _ _
      · exact StartKeeps.refl d
    · exact s03_startKeeps _ _ _
    · exact s04_startKeeps _ _
    · unfold Dev.s05
      apply ite_startKeeps (stopStart_startKeeps _ _ _ _)
      simp [StartKeeps]
    · unfold Dev.s06
      refine StartKeeps.trans ?_ (foldl_startKeeps _ (fun d n => bootTile_startKeeps _ _ d n) _ _)
      simp [StartKeeps]
    · exact s07_startKeeps _ _ _
    · exact s08_startKeeps _ _ _
    · unfold Dev.s09
      exact foldl_startKeeps _ (fun d g => (failSg_startKeeps g d).trans (giveCode_startKeeps _ _ _ _ _ _)) _ _
    · exact s10_startKeeps _ _ _
    · exact s11_startKeeps _ _
    · exact s12_startKeeps _ _
    · exact s13_startKeeps _ _ _
    · exact s14_startKeeps _
  · exact StartKeeps.refl d

/-- A start leaves all of it alone. -/
theorem start_keeps (f : Bool) (e : StartEnv) (t : W64) (d : Dev) : StartKeeps d (d.start f e t) := by
  unfold Dev.start
  dsimp only
  refine StartKeeps.trans ?_ (foldl_startKeeps _ (fun d i => bootStep_startKeeps _ _ d _) _ _)
  simp [StartKeeps]

end Sys2Proof.Machine
end

