-- ==== Sys2Proof/Laws/Gcm.lean ====
section
/-! SUPPORT. Sealed pages: what is sealed under a key opens again under it (R383). -/
namespace Sys2Proof.Machine
open Sys2Proof

theorem listXor_twice : ∀ p s : List Byte, p.length ≤ s.length → listXor (listXor p s) s = p
  | [], s, _ => by simp [listXor]
  | a :: p, [], h => by simp at h
  | a :: p, b :: s, h => by
    have ih := listXor_twice p s (by simpa using h)
    simp only [listXor, List.zipWith_cons_cons, List.cons.injEq] at ih ⊢
    exact ⟨by rw [BitVec.xor_assoc, BitVec.xor_self, BitVec.xor_zero], ih⟩

theorem listXor_length (p s : List Byte) : (listXor p s).length = min p.length s.length := by simp [listXor]

/-- A key stream that is long enough gives the plaintext back. -/
theorem gcm_round_trip (key nonce aad p : List Byte)
    (h : p.length ≤ (gctrStream (aesKeys key) nonce 2 (ceilDiv p.length 16)).length) :
    gcmDecrypt key nonce aad (gcmEncrypt key nonce aad p).1 (gcmEncrypt key nonce aad p).2 = some p := by
  have l : (gcmEncrypt key nonce aad p).1.length = p.length := by
    simp only [gcmEncrypt, listXor_length]; omega
  unfold gcmDecrypt
  rw [l]
  simp only [gcmEncrypt, if_true]
  rw [listXor_twice _ _ h]

theorem page_round_trip (key : BitVec 256) (e : Extent) (n : Nat) (p : List Byte)
    (h : p.length ≤ (gctrStream (aesKeys (beBytes 32 key.toNat)) (pageNonce e n) 2 (ceilDiv p.length 16)).length) :
    openPage key e n (sealPage key e n p) = some p := by
  simp only [openPage, sealPage]
  exact gcm_round_trip _ _ _ _ h

end Sys2Proof.Machine
end

