-- ==== Sys2Proof/Laws/Memory.lean ====
section
/-! SUPPORT. What the operations of memory can do: a read after a write, and the canonical form. -/
namespace Sys2Proof.Machine
open Sys2Proof

/-! ## One byte after a write -/

theorem memRead_nil (a : Nat) : memRead [] a = 0 := rfl

theorem memRead_cons (c : Host.Cell) (m : Memory) (a : Nat) : memRead (c :: m) a = if c.1 = a then c.2 else memRead m a := by
  unfold memRead
  by_cases h : c.1 = a <;> simp [h]

/-- A byte of a memory in two parts: the first part's when it lists the address. -/
theorem memRead_append (m n : Memory) (a : Nat) :
    memRead (m ++ n) a = if m.any (fun c => c.1 == a) then memRead m a else memRead n a := by
  induction m with
  | nil => simp
  | cons c m ih =>
    simp only [List.cons_append, memRead_cons, List.any_cons, ih]
    by_cases h : c.1 = a <;> simp [h]

theorem memRead_of_not_any (m : Memory) (a : Nat) (h : m.any (fun c => c.1 == a) = false) : memRead m a = 0 := by
  induction m with
  | nil => rfl
  | cons c m ih =>
    simp only [List.any_cons, Bool.or_eq_false_iff, beq_eq_false_iff_ne, ne_eq] at h
    simp [memRead_cons, h.1, ih h.2]

/-- The cells of a run lie in it. -/
theorem memRun_bounds (a : Nat) (bs : List Byte) : ∀ c ∈ memRun a bs, a ≤ c.1 ∧ c.1 < a + bs.length := by
  induction bs generalizing a with
  | nil => simp [memRun]
  | cons b bs ih =>
    intro c hc
    unfold memRun at hc
    split at hc
    · have := ih (a + 1) c hc; simp only [List.length_cons]; omega
    · rcases List.mem_cons.mp hc with rfl | hc
      · simp
      · have := ih (a + 1) c hc; simp only [List.length_cons]; omega

/-- A run reads as its bytes. -/
theorem memRead_memRun (a : Nat) (bs : List Byte) (i : Nat) (h : i < bs.length) : memRead (memRun a bs) (a + i) = bs.getD i 0 := by
  induction bs generalizing a i with
  | nil => simp at h
  | cons b bs ih =>
    cases i with
    | zero =>
      unfold memRun
      split
      · rename_i hb
        rw [memRead_of_not_any]
        · simp [hb]
        · rw [List.any_eq_false]
          intro c hc
          have := memRun_bounds _ _ c hc
          simp only [beq_iff_eq]; omega
      · simp [memRead_cons]
    | succ i =>
      have h' : i < bs.length := by simpa using h
      have := ih (a + 1) i h'
      unfold memRun
      split
      · rw [show a + (i + 1) = a + 1 + i by omega, this]; simp
      · rw [memRead_cons, if_neg (by simp), show a + (i + 1) = a + 1 + i by omega, this]; simp

theorem memRead_filter (p : Nat → Bool) (m : Memory) (a : Nat) :
    memRead (m.filter (fun c => p c.1)) a = if p a then memRead m a else 0 := by
  induction m with
  | nil => simp [memRead_nil]
  | cons c m ih =>
    by_cases hc : p c.1
    · rw [List.filter_cons_of_pos (by simpa using hc), memRead_cons, memRead_cons, ih]
      by_cases h : c.1 = a
      · subst h; simp [hc]
      · simp [h]
    · rw [List.filter_cons_of_neg (by simpa using hc), ih, memRead_cons]
      by_cases h : c.1 = a
      · subst h; simp [hc]
      · simp [h]

theorem any_filter_key (p : Nat → Bool) (m : Memory) (a : Nat) (h : p a = false) :
    (m.filter (fun c => p c.1)).any (fun c => c.1 == a) = false := by
  rw [List.any_eq_false]
  intro c hc
  have := (List.mem_filter.mp hc).2
  simp only [beq_iff_eq]
  intro hca
  rw [hca, h] at this
  cases this

theorem any_memRun_false (a : Nat) (bs : List Byte) (k : Nat) (h : k < a ∨ a + bs.length ≤ k) :
    (memRun a bs).any (fun c => c.1 == k) = false := by
  rw [List.any_eq_false]
  intro c hc
  have := memRun_bounds _ _ c hc
  simp only [beq_iff_eq]; omega

/-- READ AFTER WRITE: inside the bytes written a read gives the byte written. -/
theorem memRead_memWrite_inside (m : Memory) (a : Nat) (bs : List Byte) (i : Nat) (h : i < bs.length) :
    memRead (memWrite m a bs) (a + i) = bs.getD i 0 := by
  unfold memWrite
  have h1 : (m.filter (fun c => c.1 < a)).any (fun c => c.1 == a + i) = false :=
    any_filter_key (fun n => decide (n < a)) m (a + i) (by simp)
  have h3 : (m.filter (fun c => a + bs.length ≤ c.1)).any (fun c => c.1 == a + i) = false :=
    any_filter_key (fun n => decide (a + bs.length ≤ n)) m (a + i) (by simp; omega)
  rw [List.append_assoc, memRead_append, h1, if_neg (by simp), memRead_append]
  split
  · exact memRead_memRun a bs i h
  · rename_i hn
    rw [memRead_of_not_any _ _ h3, ← memRead_memRun a bs i h, memRead_of_not_any _ _ (Bool.not_eq_true _ ▸ hn)]

/-- A write leaves every other byte as it was. -/
theorem memRead_memWrite_outside (m : Memory) (a : Nat) (bs : List Byte) (k : Nat) (h : k < a ∨ a + bs.length ≤ k) :
    memRead (memWrite m a bs) k = memRead m k := by
  unfold memWrite
  rw [List.append_assoc, memRead_append]
  by_cases hk : k < a
  · have h2 := any_memRun_false a bs k h
    have h3 : (m.filter (fun c => a + bs.length ≤ c.1)).any (fun c => c.1 == k) = false :=
      any_filter_key (fun n => decide (a + bs.length ≤ n)) m k (by simp; omega)
    have e := memRead_filter (fun n => decide (n < a)) m k
    simp only [hk, decide_true, if_true] at e
    split
    · exact e
    · rename_i hn
      rw [memRead_of_not_any _ _ (Bool.not_eq_true _ ▸ hn)] at e
      rw [memRead_append, h2, if_neg (by simp), memRead_of_not_any _ _ h3, ← e]
  · have h1 : (m.filter (fun c => c.1 < a)).any (fun c => c.1 == k) = false :=
      any_filter_key (fun n => decide (n < a)) m k (by simpa using Nat.le_of_not_lt hk)
    have h2 := any_memRun_false a bs k h
    rw [h1, if_neg (by simp), memRead_append, h2, if_neg (by simp)]
    have hk' : a + bs.length ≤ k := by omega
    simpa [hk'] using memRead_filter (fun n => decide (a + bs.length ≤ n)) m k

/-! ## The canonical form -/

theorem memRun_sorted (a : Nat) (bs : List Byte) : (memRun a bs).Pairwise (fun c d => c.1 < d.1) := by
  induction bs generalizing a with
  | nil => simp [memRun]
  | cons b bs ih =>
    unfold memRun
    split
    · exact ih (a + 1)
    · refine List.Pairwise.cons (fun c hc => ?_) (ih (a + 1))
      have := memRun_bounds _ _ c hc
      simp only; omega

theorem memRun_nonzero (a : Nat) (bs : List Byte) : ∀ c ∈ memRun a bs, c.2 ≠ 0 := by
  induction bs generalizing a with
  | nil => simp [memRun]
  | cons b bs ih =>
    intro c hc
    unfold memRun at hc
    split at hc
    · exact ih (a + 1) c hc
    · rename_i hb
      rcases List.mem_cons.mp hc with rfl | hc
      · exact hb
      · exact ih (a + 1) c hc

theorem memWf_nil : Memory.wf [] := ⟨List.Pairwise.nil, by simp⟩

/-- A write keeps the canonical form. -/
theorem memWrite_wf (m : Memory) (a : Nat) (bs : List Byte) (h : Memory.wf m) : Memory.wf (memWrite m a bs) := by
  unfold memWrite
  constructor
  · rw [List.pairwise_append, List.pairwise_append]
    refine ⟨⟨h.1.filter _, memRun_sorted a bs, ?_⟩, h.1.filter _, ?_⟩
    · intro c hc d hd
      have h1 := (List.mem_filter.mp hc).2
      have h2 := memRun_bounds _ _ d hd
      simp only [decide_eq_true_eq] at h1; omega
    · intro c hc d hd
      have h2 := (List.mem_filter.mp hd).2
      simp only [decide_eq_true_eq] at h2
      rcases List.mem_append.mp hc with hc | hc
      · have h1 := (List.mem_filter.mp hc).2
        simp only [decide_eq_true_eq] at h1; omega
      · have h1 := memRun_bounds _ _ c hc
        omega
  · intro c hc
    rcases List.mem_append.mp hc with hc | hc
    · rcases List.mem_append.mp hc with hc | hc
      · exact h.2 c (List.mem_of_mem_filter hc)
      · exact memRun_nonzero a bs c hc
    · exact h.2 c (List.mem_of_mem_filter hc)

/-- Reading the cells of a run gives the run. -/
theorem memReadRun_memRun (a : Nat) (bs : List Byte) : memReadRun bs.length a (memRun a bs) = bs := by
  induction bs generalizing a with
  | nil => rfl
  | cons b bs ih =>
    have tail : memReadRun (bs.length + 1) a (memRun (a + 1) bs) = 0 :: memReadRun bs.length (a + 1) (memRun (a + 1) bs) := by
      have hb := memRun_bounds (a + 1) bs
      cases hm : memRun (a + 1) bs with
      | nil => rfl
      | cons c m =>
        have : a + 1 ≤ c.1 := (hb c (by simp [hm])).1
        simp only [memReadRun, if_neg (show ¬ c.1 = a by omega)]
    unfold memRun
    by_cases hz : b = 0
    · rw [if_pos hz, List.length_cons, tail, ih, hz]
    · rw [if_neg hz]
      simp only [List.length_cons, memReadRun, if_true, ih]

/-- What a run of bytes leaves in an empty memory reads as the run. -/
theorem memReadN_memRun (a : Nat) (bs : List Byte) : memReadN (memRun a bs) a bs.length = bs := by
  have keep : (memRun a bs).dropWhile (fun c => decide (c.1 < a)) = memRun a bs := by
    have hb := memRun_bounds a bs
    cases hm : memRun a bs with
    | nil => rfl
    | cons c m =>
      have : a ≤ c.1 := (hb c (by simp [hm])).1
      simp [show ¬ c.1 < a by omega]
  unfold memReadN
  rw [keep, memReadRun_memRun]

end Sys2Proof.Machine
end

