-- ==== Sys2Proof/Laws/Rings.lean ====
section
/-! SUPPORT. What the host interface can do to a rood while it writes records and accepts slots: the relation
`HostSide`, under which sessions, stores, objects, moves, indexes, checkpoints and flash stay. -/
namespace Sys2Proof.Machine
open Sys2Proof

theorem HostSide.refl (x : Rood) : HostSide x x := rfl

theorem HostSide.trans {x y z : Rood} (h : HostSide x y) (k : HostSide y z) : HostSide x z := by
  unfold HostSide at *
  rw [k, h]

/-! ## Fields that stay -/

theorem HostSide.slots {x y : Rood} (h : HostSide x y) : y.slots = x.slots := by rw [h]
theorem HostSide.baseGen {x y : Rood} (h : HostSide x y) : y.baseGen = x.baseGen := by rw [h]
theorem HostSide.freeLists {x y : Rood} (h : HostSide x y) : y.freeLists = x.freeLists := by rw [h]
theorem HostSide.kv {x y : Rood} (h : HostSide x y) : y.kv = x.kv := by rw [h]
theorem HostSide.obj {x y : Rood} (h : HostSide x y) : y.obj = x.obj := by rw [h]
theorem HostSide.seqs {x y : Rood} (h : HostSide x y) : y.seqs = x.seqs := by rw [h]
theorem HostSide.crews {x y : Rood} (h : HostSide x y) : y.crews = x.crews := by rw [h]
theorem HostSide.moves {x y : Rood} (h : HostSide x y) : y.moves = x.moves := by rw [h]
theorem HostSide.holds {x y : Rood} (h : HostSide x y) : y.holds = x.holds := by rw [h]
theorem HostSide.arrivals {x y : Rood} (h : HostSide x y) : y.arrivals = x.arrivals := by rw [h]
theorem HostSide.vecs {x y : Rood} (h : HostSide x y) : y.vecs = x.vecs := by rw [h]
theorem HostSide.vecOps {x y : Rood} (h : HostSide x y) : y.vecOps = x.vecOps := by rw [h]
theorem HostSide.vecQueue {x y : Rood} (h : HostSide x y) : y.vecQueue = x.vecQueue := by rw [h]
theorem HostSide.vecReqs {x y : Rood} (h : HostSide x y) : y.vecReqs = x.vecReqs := by rw [h]
theorem HostSide.ckp {x y : Rood} (h : HostSide x y) : y.ckp = x.ckp := by rw [h]
theorem HostSide.flash {x y : Rood} (h : HostSide x y) : y.flash = x.flash := by rw [h]
theorem HostSide.num {x y : Rood} (h : HostSide x y) : y.num = x.num := by rw [h]
theorem HostSide.width {x y : Rood} (h : HostSide x y) : y.width = x.width := by rw [h]
theorem HostSide.firstSg {x y : Rood} (h : HostSide x y) : y.firstSg = x.firstSg := by rw [h]
theorem HostSide.fenced {x y : Rood} (h : HostSide x y) : y.fenced = x.fenced := by rw [h]
theorem HostSide.quiet {x y : Rood} (h : HostSide x y) : y.quiet = x.quiet := by rw [h]
theorem HostSide.powered {x y : Rood} (h : HostSide x y) : y.powered = x.powered := by rw [h]
theorem HostSide.intakeOn {x y : Rood} (h : HostSide x y) : y.intakeOn = x.intakeOn := by rw [h]
theorem HostSide.staging {x y : Rood} (h : HostSide x y) : y.staging = x.staging := by rw [h]
theorem HostSide.stagingBad {x y : Rood} (h : HostSide x y) : y.stagingBad = x.stagingBad := by rw [h]
theorem HostSide.rebuilding {x y : Rood} (h : HostSide x y) : y.rebuilding = x.rebuilding := by rw [h]
theorem HostSide.storageKey {x y : Rood} (h : HostSide x y) : y.storageKey = x.storageKey := by rw [h]
theorem HostSide.snapNumber {x y : Rood} (h : HostSide x y) : y.snapNumber = x.snapNumber := by rw [h]
theorem HostSide.idxBase {x y : Rood} (h : HostSide x y) : y.regs.idxBase = x.regs.idxBase := by rw [h]
theorem HostSide.lineage {x y : Rood} (h : HostSide x y) : y.regs.lineage = x.regs.lineage := by rw [h]
theorem HostSide.ckpCtl {x y : Rood} (h : HostSide x y) : y.regs.ckpCtl = x.regs.ckpCtl := by rw [h]

/-! ## The operations of the host interface -/

theorem ask_hostSide (f : Fx) (x : Rood) : HostSide x (x.ask f) := rfl

theorem count_hostSide (i n : Nat) (x : Rood) : HostSide x (x.count i n) := by
  unfold Rood.count; split <;> rfl

theorem msix_hostSide (v : Nat) (x : Rood) : HostSide x (x.msix v) := by
  unfold Rood.msix
  split
  · exact HostSide.refl x
  · dsimp only
    split
    · exact HostSide.trans (by rfl) (count_hostSide _ _ _)
    · rfl

theorem hostWrite_hostSide (a : Nat) (bs : List Byte) (x : Rood) : HostSide x (x.hostWrite a bs) := by
  unfold Rood.hostWrite; split <;> rfl

theorem modCring_hostSide (n : Nat) (f : CRing → CRing) (x : Rood) : HostSide x (x.modCring n f) := rfl

theorem logOwn_hostSide (e : LogEntry) (x : Rood) : HostSide x (x.logOwn e) := by
  unfold Rood.logOwn
  dsimp only
  split
  · exact HostSide.trans (by rfl) (msix_hostSide _ _)
  · rfl

theorem moderate_hostSide (t : W64) (n : Nat) (q : Bool) (x : Rood) : HostSide x (x.moderate t n q) := by
  unfold Rood.moderate
  split
  · split
    · exact (modCring_hostSide _ _ _).trans (msix_hostSide _ _)
    · exact HostSide.refl x
  · exact HostSide.refl x

theorem writeRecord_hostSide (t : W64) (n : Nat) (r : CRec) (x : Rood) : HostSide x (x.writeRecord t n r) := by
  unfold Rood.writeRecord
  split
  · exact HostSide.refl x
  · split
    · exact HostSide.refl x
    · split
      · exact modCring_hostSide _ _ _
      · exact ((hostWrite_hostSide _ _ _).trans (modCring_hostSide _ _ _)).trans
          ((count_hostSide _ _ _).trans (moderate_hostSide _ _ _ _))

theorem complete_hostSide (t : W64) (c : Cmd) (r : CRec) (x : Rood) : HostSide x (x.complete t c r) :=
  HostSide.trans (by rfl) (writeRecord_hostSide _ _ _ _)

theorem fail_hostSide (t : W64) (c : Cmd) (st : Nat) (x : Rood) : HostSide x (x.fail t c st) := complete_hostSide _ _ _ _

theorem setCmd_hostSide (c : Cmd) (x : Rood) : HostSide x (x.setCmd c) := rfl

theorem writeCons_hostSide (n : Nat) (x : Rood) : HostSide x (x.writeCons n) := by
  unfold Rood.writeCons
  split
  · exact HostSide.refl x
  · exact HostSide.trans (hostWrite_hostSide _ _ _) (by rfl)

theorem mapEvents_hostSide (n : Nat) (x : Rood) : HostSide x (x.mapTally (fun t => { t with events := t.events + n })) := rfl

theorem poisonEvent_hostSide (t : W64) (x : Rood) : HostSide x (x.poisonEvent t) :=
  ((((logOwn_hostSide _ _).trans (ask_hostSide _ _)).trans (ask_hostSide _ _)).trans (count_hostSide _ _ _)).trans (by rfl)

theorem judgeSlot_hostSide (t : W64) (c : Cmd) (x : Rood) : HostSide x (x.judgeSlot t c) := by
  unfold Rood.judgeSlot
  split
  · exact (poisonEvent_hostSide _ _).trans (fail_hostSide _ _ _ _)
  · split
    · exact fail_hostSide _ _ _ _
    · split
      · exact fail_hostSide _ _ _ _
      · exact HostSide.refl x

theorem takeSlot_hostSide (c : Cmd) (x : Rood) : HostSide x (x.takeSlot c) := rfl

theorem acceptSlot_hostSide (t : W64) (n : Nat) (i : IRing) (l : SlotLine) (x : Rood) : HostSide x (x.acceptSlot t n i l) := by
  unfold Rood.acceptSlot
  generalize (Cmd.ofLine x.nextCmd n i.cring l).accepting x.regs = c
  dsimp only
  have h : HostSide x ((x.takeSlot c).count 0 1) := (takeSlot_hostSide _ _).trans (count_hostSide _ _ _)
  split
  · exact (h.trans (writeCons_hostSide _ _)).trans (judgeSlot_hostSide _ _ _)
  · exact h.trans (judgeSlot_hostSide _ _ _)

theorem pumpAux_hostSide (t : W64) (n : Nat) (x : Rood) : HostSide x (x.pumpAux t n) := by
  induction n generalizing x with
  | zero => exact HostSide.refl x
  | succ n ih =>
    unfold Rood.pumpAux
    split
    · exact HostSide.refl x
    · exact (acceptSlot_hostSide _ _ _ _ _).trans (ih _)

/-- Accepting posted slots touches the host interface's part alone. -/
theorem pump_hostSide (t : W64) (x : Rood) : HostSide x (x.pump t) := pumpAux_hostSide _ _ _

theorem configEntry_hostSide (t : W64) (c o : Nat) (x : Rood) :
    HostSide { x with regs := { x.regs with configErr := true } } (x.configEntry t c o) := logOwn_hostSide _ _

/-! ## Rings in which no line waits -/

theorem acceptable_none {x : Rood} (h : NonePosted x) (n : Nat) : x.acceptable n = none := by
  unfold Rood.acceptable
  split
  · rfl
  · rename_i i hi
    split
    · rfl
    · rename_i hg
      have he : i.enable = true := by
        cases h : i.enable
        · simp [h] at hg
        · rfl
      have hd := h i (List.mem_of_getElem? hi) he
      unfold IRing.idle at hd
      split at hd
      · rename_i hl
        simp [hl]
      · exact absurd hd (by decide)
      · rename_i raw hl
        have hp : (dField raw 0 8 1 == 1 - (i.next >>> i.sizeLog2) % 2) = false := by
          simpa [bne] using hd
        rw [hl]
        split
        · rename_i l c hs _
          cases hs
          simp [hp]
        · rfl

/-- With no line waiting, nothing is accepted. -/
theorem pump_nonePosted {x : Rood} (h : NonePosted x) (t : W64) : x.pump t = x := by
  unfold Rood.pump Rood.pumpAux
  have hn : (List.range 8).findSome? (fun n => (x.acceptable n).map (fun p => (n, p))) = none := by
    rw [List.findSome?_eq_none_iff]
    intro n _
    simp [acceptable_none h]
  rw [hn]

/-! ## A record, exactly (R133, R150) -/

theorem moderate_host (t : W64) (n : Nat) (q : Bool) (x : Rood) :
    (x.moderate t n q).host = x.host ∧ (x.moderate t n q).cmds = x.cmds ∧ (x.moderate t n q).irings = x.irings := by
  have hm : ∀ (v : Nat) (x : Rood), (x.msix v).host = x.host ∧ (x.msix v).cmds = x.cmds ∧ (x.msix v).irings = x.irings ∧
      (x.msix v).crings = x.crings := by
    intro v x
    unfold Rood.msix
    split
    · exact ⟨rfl, rfl, rfl, rfl⟩
    · dsimp only
      split
      · unfold Rood.count
        split <;> exact ⟨rfl, rfl, rfl, rfl⟩
      · exact ⟨rfl, rfl, rfl, rfl⟩
  unfold Rood.moderate
  split
  · split
    · have := hm (by assumption : CRing).vector (x.modCring n (fun c => { c with unsignalled := 0, oldest := 0 }))
      exact ⟨this.1, this.2.1, this.2.2.1⟩
    · exact ⟨rfl, rfl, rfl⟩
  · exact ⟨rfl, rfl, rfl⟩

/-- A record written to an enabled ring of a rood that is not quiet and has CXL.cache: 32 bytes at the ring's next place. -/
theorem writeRecord_host {x : Rood} {n : Nat} {q : CRing} (t : W64) (r : CRec) (hq : x.crings[n]? = some q)
    (he : q.enable = true) (hx : x.quiet = false) (hc : x.cacheOff = false) :
    (x.writeRecord t n r).host = memWrite x.host q.place (r.bytes q.prod q.sizeLog2) ∧
      (x.writeRecord t n r).cmds = x.cmds ∧ (x.writeRecord t n r).irings = x.irings := by
  unfold Rood.writeRecord
  simp only [hq, hx, hc, he, Bool.not_true, Bool.or_false, Bool.false_eq_true, if_false]
  refine ⟨?_, ?_, ?_⟩
  · rw [(moderate_host _ _ _ _).1]
    unfold Rood.count Rood.ask Rood.modCring Rood.hostWrite
    simp [hx, hc, CRing.place]
  · rw [(moderate_host _ _ _ _).2.1]
    unfold Rood.count Rood.ask Rood.modCring Rood.hostWrite
    simp [hx, hc]
  · rw [(moderate_host _ _ _ _).2.2]
    unfold Rood.count Rood.ask Rood.modCring Rood.hostWrite
    simp [hx, hc]

/-- A completed command: its record stands in host memory, and the command is gone. -/
theorem complete_exact {x : Rood} {c : Cmd} {q : CRing} (t : W64) (r : CRec) (hq : x.crings[c.cring]? = some q)
    (he : q.enable = true) (hx : x.quiet = false) (hc : x.cacheOff = false) :
    (x.complete t c r).host = memWrite x.host q.place (r.tidy.bytes q.prod q.sizeLog2) ∧
      (x.complete t c r).cmds = x.cmds.filter (fun d => d.id != c.id) ∧ (x.complete t c r).irings = x.irings :=
  writeRecord_host (x := { x with cmds := x.cmds.filter (fun d => d.id != c.id) }) t r.tidy hq he hx hc

/-- The bytes of a record whose result has four words are 32. -/
theorem leBytes_length (n v : Nat) : (leBytes n v).length = n := by
  induction n generalizing v with
  | zero => rfl
  | succ n ih => simp [leBytes, ih]

theorem record_bytes_length (r : CRec) (p k : Nat) (h : r.result.length = 4) : (r.bytes p k).length = 32 := by
  have hf : ∀ l : List Nat, (l.flatMap (leBytes 4)).length = 4 * l.length := by
    intro l
    induction l with
    | nil => rfl
    | cons a l ih => simp [leBytes_length, ih]; omega
  unfold CRec.bytes
  simp [leBytes_length, hf, h]

theorem tidy_length (r : CRec) (h : r.result.length = 4) : r.tidy.result.length = 4 := by
  unfold CRec.tidy; split <;> simp [h]

/-- A completed command is reported. -/
theorem complete_reported {x : Rood} {c : Cmd} {q : CRing} (h : CanReport x c q) (t : W64) (r : CRec)
    (hl : r.result.length = 4) : Reported x (x.complete t c r) c q r.tidy := by
  obtain ⟨hx, hc, _, hq, he⟩ := h
  have e := complete_exact t r hq he hx hc
  have hb : (r.tidy.bytes q.prod q.sizeLog2).length = 32 := record_bytes_length _ _ _ (tidy_length _ hl)
  refine ⟨e.2.1, fun i hi => ?_, fun a ha => ?_⟩
  · rw [e.1, memRead_memWrite_inside _ _ _ _ (by rw [hb]; exact hi)]
  · rw [e.1, memRead_memWrite_outside _ _ _ _ (by rw [hb]; exact ha)]

end Sys2Proof.Machine
end

