-- ==== Sys2Proof/Laws/Lift.lean ====
section
/-! SUPPORT. What the work of one rood can do to the device: `FxOnly` bounds its requests, and `rood_after` says where the rood
and the others stand afterwards. -/
namespace Sys2Proof.Machine
open Sys2Proof

/-! ## Requests of a rood -/

/-- Only what a rood may ask for differs: chain, outputs, counters, flash blocks, supplies, the device log, and draws. -/
def FxOnly (d e : Dev) : Prop :=
  e = { d with
    chain := e.chain, out := e.out, counters := e.counters, flash := e.flash
    energy := { d.energy with supply := e.energy.supply, ran := e.energy.ran }
    regs := { d.regs with log := e.regs.log }
    boot := { d.boot with draws := e.boot.draws } }

theorem FxOnly.refl (d : Dev) : FxOnly d d := rfl

theorem FxOnly.trans {a b c : Dev} (h : FxOnly a b) (k : FxOnly b c) : FxOnly a c := by
  unfold FxOnly at *
  rw [k, h]

theorem FxOnly.roods {d e : Dev} (h : FxOnly d e) : e.roods = d.roods := by rw [h]
theorem FxOnly.comp {d e : Dev} (h : FxOnly d e) : e.comp = d.comp := by rw [h]
theorem FxOnly.layout {d e : Dev} (h : FxOnly d e) : e.layout = d.layout := by rw [h]
theorem FxOnly.pendingLayout {d e : Dev} (h : FxOnly d e) : e.pendingLayout = d.pendingLayout := by rw [h]
theorem FxOnly.side {d e : Dev} (h : FxOnly d e) : e.side = d.side := by rw [h]
theorem FxOnly.integ {d e : Dev} (h : FxOnly d e) : e.integ = d.integ := by rw [h]
theorem FxOnly.snap {d e : Dev} (h : FxOnly d e) : e.snap = d.snap := by rw [h]
theorem FxOnly.phase {d e : Dev} (h : FxOnly d e) : e.boot.phase = d.boot.phase := by rw [h]
theorem FxOnly.dik {d e : Dev} (h : FxOnly d e) : e.boot.dik = d.boot.dik := by rw [h]
theorem FxOnly.dxk {d e : Dev} (h : FxOnly d e) : e.boot.dxk = d.boot.dxk := by rw [h]
theorem FxOnly.ak {d e : Dev} (h : FxOnly d e) : e.boot.ak = d.boot.ak := by rw [h]
theorem FxOnly.licence {d e : Dev} (h : FxOnly d e) : e.boot.licence = d.boot.licence := by rw [h]
theorem FxOnly.inForce {d e : Dev} (h : FxOnly d e) : e.energy.inForce = d.energy.inForce := by rw [h]
theorem FxOnly.bank {d e : Dev} (h : FxOnly d e) : e.energy.bank = d.energy.bank := by rw [h]
theorem FxOnly.share {d e : Dev} (h : FxOnly d e) : e.energy.share = d.energy.share := by rw [h]
theorem FxOnly.image {d e : Dev} (h : FxOnly d e) : e.boot.image = d.boot.image := by rw [h]

theorem setPair_fxOnly (p : Pair) (d : Dev) : FxOnly d (d.setPair p) := rfl

theorem transmit_fxOnly (m : ChainMsg) (d : Dev) : FxOnly d (d.transmit m) := by
  unfold Dev.transmit
  split
  · exact FxOnly.refl d
  · exact FxOnly.trans (setPair_fxOnly _ _) rfl

theorem enqueue_fxOnly (m : ChainMsg) (d : Dev) : FxOnly d (d.enqueue m) := by
  unfold Dev.enqueue
  dsimp only
  split
  · exact (setPair_fxOnly _ _).trans (transmit_fxOnly _ _)
  · exact setPair_fxOnly _ _

theorem openEpoch_fxOnly (p : Nat) (d : Dev) : FxOnly d (d.openEpoch p) := by
  unfold Dev.openEpoch
  exact (FxOnly.trans (b := { d with boot := { d.boot with draws := d.boot.draws + 1 } }) rfl (setPair_fxOnly _ _)).trans
    (enqueue_fxOnly _ _)

/-- A fold of operations that stay within a transitive bound stays within it. -/
theorem foldl_fxOnly {α : Type} (f : Dev → α → Dev) (h : ∀ d a, FxOnly d (f d a)) (l : List α) (d : Dev) :
    FxOnly d (l.foldl f d) := by
  induction l generalizing d with
  | nil => exact FxOnly.refl d
  | cons a l ih => exact (h d a).trans (ih _)

theorem chainSend_fxOnly (p t r q o : Nat) (b : List Byte) (d : Dev) : FxOnly d (d.chainSend p t r q o b) := by
  unfold Dev.chainSend
  split
  · exact FxOnly.refl d
  · refine FxOnly.trans ?_ (foldl_fxOnly _ (fun d c => enqueue_fxOnly _ d) _ _)
    split
    · exact FxOnly.refl d
    · exact openEpoch_fxOnly _ _

theorem startTile_only (e : Energy) (t : Nat) :
    e.startTile t = { e with supply := (e.startTile t).supply, ran := (e.startTile t).ran } := by
  unfold Energy.startTile
  dsimp only
  split <;> rfl

theorem startTiles_only (l : List Nat) (e : Energy) :
    l.foldl Energy.startTile e =
      { e with supply := (l.foldl Energy.startTile e).supply, ran := (l.foldl Energy.startTile e).ran } := by
  induction l generalizing e with
  | nil => rfl
  | cons a l ih =>
    rw [List.foldl_cons, ih (e.startTile a), startTile_only e a]

theorem applyFx_fxOnly (r : Nat) (f : Fx) (d : Dev) : FxOnly d (d.applyFx r f) := by
  cases f with
  | chain p t q o b => exact chainSend_fxOnly _ _ _ _ _ _ _
  | start l =>
    show FxOnly d { d with energy := l.foldl Energy.startTile d.energy }
    unfold FxOnly
    rw [startTiles_only l d.energy]
  | assigned slot p i n =>
    unfold Dev.applyFx
    dsimp only
    split <;> rfl
  | _ => rfl

/-! ## A rood put back -/

/-- The rood as it stands once its requests have left. -/
def Rood.settled (x y : Rood) : Rood :=
  { y with
    num := x.num, firstSg := x.firstSg, width := x.width, fx := []
    tally := { y.tally with peakFrames := max y.tally.peakFrames y.kv.frames.length } }

theorem foldr_fxOnly (r : Nat) (l : List Fx) (d : Dev) : FxOnly d (l.foldr (fun f d => d.applyFx r f) d) := by
  induction l with
  | nil => exact FxOnly.refl d
  | cons f l ih => exact ih.trans (applyFx_fxOnly _ _ _)

/-- Everything but the roods stands within `FxOnly` of the device before. -/
theorem flushRood_bound (x : Rood) (d : Dev) :
    FxOnly { d with roods := (d.flushRood x).roods } (d.flushRood x) := by
  unfold Dev.flushRood
  have h := foldr_fxOnly x.num x.fx (d.setRood { x with
    fx := [], tally := { x.tally with peakFrames := max x.tally.peakFrames x.kv.frames.length } })
  have e := h.roods
  unfold FxOnly at *
  rw [h]
  rfl

theorem flushRood_roods (x : Rood) (d : Dev) :
    (d.flushRood x).roods = (d.setRood { x with
      fx := [], tally := { x.tally with peakFrames := max x.tally.peakFrames x.kv.frames.length } }).roods :=
  (foldr_fxOnly _ _ _).roods

/-- The first rood with a number, in a list where another is replaced by its number. -/
theorem find_setRood (l : List Rood) (y : Rood) (q : Nat) :
    (l.map (fun z => if z.num == y.num then y else z)).find? (fun z => z.num == q) =
      if q = y.num then (l.find? (fun z => z.num == q)).map (fun _ => y) else l.find? (fun z => z.num == q) := by
  induction l with
  | nil => simp
  | cons a l ih =>
    rw [List.map_cons, List.find?_cons, List.find?_cons, ih]
    by_cases ha : a.num = y.num
    · by_cases hq : q = y.num
      · subst hq; simp [ha]
      · have : (y.num == q) = false := by simpa using fun h => hq h.symm
        simp [ha, hq, this]
    · by_cases hq : q = y.num
      · subst hq
        have : (a.num == y.num) = false := by simpa using ha
        simp [this]
      · simp [ha, hq]

theorem setRood_rood? (d : Dev) (y : Rood) (q : Nat) :
    (d.setRood y).rood? q = if q = y.num then (d.rood? q).map (fun _ => y) else d.rood? q := find_setRood _ _ _

theorem rood?_num {d : Dev} {r : Nat} {x : Rood} (h : d.rood? r = some x) : x.num = r := by
  have := List.find?_some h
  simpa using this

/-- The rood that `flushRood` puts back. -/
def Rood.flushed (x : Rood) : Rood :=
  { x with fx := [], tally := { x.tally with peakFrames := max x.tally.peakFrames x.kv.frames.length } }

theorem inPlace_flushed_num (x y : Rood) : (x.inPlace y).flushed.num = x.num := rfl

theorem flushRood_rood? (d : Dev) (x : Rood) (q : Nat) : (d.flushRood x).rood? q = (d.setRood x.flushed).rood? q := by
  unfold Dev.rood?
  rw [flushRood_roods]
  rfl

/-- The rood after its work. -/
theorem rood_after {d : Dev} {r : Nat} {x : Rood} (h : d.rood? r = some x) (f : Ctx → Rood → Rood) (t : W64) :
    (d.atRood r f t).rood? r = some (x.settled (f ⟨t, d⟩ x)) := by
  have hn := rood?_num h
  unfold Dev.atRood
  rw [h]
  show (d.flushRood (x.inPlace (f ⟨t, d⟩ x))).rood? r = _
  rw [flushRood_rood?, setRood_rood?, inPlace_flushed_num, if_pos hn.symm, h]
  rfl

/-- Every other rood stays as it is. -/
theorem other_roods_stay (d : Dev) (r q : Nat) (f : Ctx → Rood → Rood) (t : W64) (hq : q ≠ r) :
    (d.atRood r f t).rood? q = d.rood? q := by
  unfold Dev.atRood
  split
  · rename_i x h
    have hn := rood?_num h
    rw [flushRood_rood?, setRood_rood?, inPlace_flushed_num, if_neg (fun e => hq (e.trans hn))]
  · rfl

/-- The rest of the device stays within the requests. -/
theorem atRood_bound (d : Dev) (r : Nat) (f : Ctx → Rood → Rood) (t : W64) :
    FxOnly { d with roods := (d.atRood r f t).roods } (d.atRood r f t) := by
  unfold Dev.atRood
  split
  · exact flushRood_bound _ _
  · exact FxOnly.refl d

/-! ## Messages of a change (R518) -/

/-- Only the MSI-X table and the outputs differ. -/
def MsgOnly (d e : Dev) : Prop := e = { d with out := e.out, regs := { d.regs with msix := e.regs.msix } }

theorem MsgOnly.trans {a b c : Dev} (h : MsgOnly a b) (k : MsgOnly b c) : MsgOnly a c := by
  unfold MsgOnly at *
  rw [k, h]

theorem pfMsix_only (v : Nat) (d : Dev) : MsgOnly d (d.pfMsix v) := rfl

theorem pfMsix_if (b : Bool) (v : Nat) (d : Dev) : MsgOnly d (if b then d.pfMsix v else d) := by
  cases b
  · rfl
  · exact pfMsix_only v d

theorem signal_only (a d : Dev) : MsgOnly d (Dev.signal a d) := by
  unfold Dev.signal
  exact (((((pfMsix_if _ 5 d).trans (pfMsix_if _ 4 _)).trans (pfMsix_if _ 3 _)).trans (pfMsix_if _ 2 _)).trans
    (pfMsix_if _ 1 _)).trans (pfMsix_if _ 0 _)

@[simp] theorem signal_boot (a d : Dev) : (Dev.signal a d).boot = d.boot := by rw [signal_only a d]
@[simp] theorem signal_comp (a d : Dev) : (Dev.signal a d).comp = d.comp := by rw [signal_only a d]
@[simp] theorem signal_layout (a d : Dev) : (Dev.signal a d).layout = d.layout := by rw [signal_only a d]
@[simp] theorem signal_pendingLayout (a d : Dev) : (Dev.signal a d).pendingLayout = d.pendingLayout := by rw [signal_only a d]
@[simp] theorem signal_side (a d : Dev) : (Dev.signal a d).side = d.side := by rw [signal_only a d]
@[simp] theorem signal_energy (a d : Dev) : (Dev.signal a d).energy = d.energy := by rw [signal_only a d]
@[simp] theorem signal_flash (a d : Dev) : (Dev.signal a d).flash = d.flash := by rw [signal_only a d]
@[simp] theorem signal_chain (a d : Dev) : (Dev.signal a d).chain = d.chain := by rw [signal_only a d]
@[simp] theorem signal_integ (a d : Dev) : (Dev.signal a d).integ = d.integ := by rw [signal_only a d]
@[simp] theorem signal_snap (a d : Dev) : (Dev.signal a d).snap = d.snap := by rw [signal_only a d]
@[simp] theorem signal_counters (a d : Dev) : (Dev.signal a d).counters = d.counters := by rw [signal_only a d]
@[simp] theorem signal_roods (a d : Dev) : (Dev.signal a d).roods = d.roods := by rw [signal_only a d]
@[simp] theorem signal_log (a d : Dev) : (Dev.signal a d).regs.log = d.regs.log := by rw [signal_only a d]
@[simp] theorem signal_misaccess (a d : Dev) : (Dev.signal a d).regs.misaccess = d.regs.misaccess := by rw [signal_only a d]
@[simp] theorem signal_linkRate (a d : Dev) : (Dev.signal a d).regs.linkRate = d.regs.linkRate := by rw [signal_only a d]
@[simp] theorem signal_linkWidth (a d : Dev) : (Dev.signal a d).regs.linkWidth = d.regs.linkWidth := by rw [signal_only a d]
@[simp] theorem signal_rood? (a d : Dev) (r : Nat) : (Dev.signal a d).rood? r = d.rood? r := by
  unfold Dev.rood?; rw [signal_roods]

theorem pfMsix_out (v : Nat) (d : Dev) (o : Output) (h : o ∈ d.out) : o ∈ (d.pfMsix v).out := by
  unfold Dev.pfMsix
  dsimp only
  split
  · exact List.mem_append_left _ h
  · exact h

/-- What left the package has left it. -/
theorem signal_out (a d : Dev) (o : Output) (h : o ∈ d.out) : o ∈ (Dev.signal a d).out := by
  have k : ∀ (b : Bool) (n : Nat) (e : Dev), o ∈ e.out → o ∈ (if b then e.pfMsix n else e).out := by
    intro b n e he
    cases b
    · exact he
    · exact pfMsix_out _ _ _ he
  unfold Dev.signal
  exact k _ _ _ (k _ _ _ (k _ _ _ (k _ _ _ (k _ _ _ (k _ _ _ h)))))

/-! ## The whole state -/

@[simp] theorem onDev_pending (f : W64 → Dev → Dev) (s : State) : (onDev f s).pending = s.pending := rfl
@[simp] theorem onDev_clock (f : W64 → Dev → Dev) (s : State) : (onDev f s).clock = s.clock := rfl
@[simp] theorem onDev_pins (f : W64 → Dev → Dev) (s : State) : (onDev f s).pins = s.pins := rfl
@[simp] theorem onDev_tap (f : W64 → Dev → Dev) (s : State) : (onDev f s).tap = s.tap := rfl
theorem onDev_dev (f : W64 → Dev → Dev) (s : State) : (onDev f s).dev = Dev.signal s.dev (f s.clock.time s.dev) := rfl

/-- The rood after a command that is its work. -/
theorem onRood_rood {s : State} {r : Nat} {x : Rood} (hl : s.dev.roodsLive = true) (h : s.dev.rood? r = some x)
    (f : Ctx → Rood → Rood) :
    (onRood r f s).dev.rood? r = some (x.settled (f ⟨s.clock.time, s.dev⟩ x)) := by
  unfold onRood
  rw [onDev_dev, signal_rood?, if_pos hl, rood_after h]

/-- A rood that takes part in work becomes what the command's work makes of it. -/
theorem onRood_becomes {s : State} {r : Nat} {x : Rood} (h : Works s r x) (f : Ctx → Rood → Rood) :
    Becomes (onRood r f s) r x (f (ctxOf s) x) := onRood_rood h.1 h.2 f

theorem onRood_other (s : State) (r q : Nat) (f : Ctx → Rood → Rood) (hq : q ≠ r) :
    (onRood r f s).dev.rood? q = s.dev.rood? q := by
  unfold onRood
  rw [onDev_dev, signal_rood?]
  split
  · exact other_roods_stay _ _ _ _ _ hq
  · rfl

/-- While the roods take no part in work, a command of a rood leaves the device's registers, stores and roods as they are. -/
theorem onRood_dead {s : State} (hl : s.dev.roodsLive = false) (r : Nat) (f : Ctx → Rood → Rood) :
    (onRood r f s).dev = Dev.signal s.dev s.dev := by
  unfold onRood
  rw [onDev_dev, hl]
  rfl

/-- A change of nothing sends nothing. -/
theorem signal_self (d : Dev) : Dev.signal d d = d := by
  have hp : ((d.boot.phase == Phase.ready && d.boot.phase != Phase.ready) ||
      (d.boot.phase == Phase.stopped && d.boot.phase != Phase.stopped)) = false := by
    cases h : (d.boot.phase == Phase.ready) <;> cases k : (d.boot.phase == Phase.stopped) <;> simp [bne, h, k]
  have ha : (d.energy.thermAlert && !d.energy.thermAlert) = false := by cases d.energy.thermAlert <;> rfl
  unfold Dev.signal
  simp only [bne_self_eq_false, Bool.false_and, hp, ha, Bool.false_eq_true, if_false]

theorem onRood_idle {s : State} (hl : s.dev.roodsLive = false) (r : Nat) (f : Ctx → Rood → Rood) : onRood r f s = s := by
  have h := onRood_dead hl r f
  rw [signal_self] at h
  show { s with dev := (onRood r f s).dev } = s
  rw [h]

/-- What the work of a rood leaves alone in the rest of the device. -/
theorem onRood_bound (s : State) (r : Nat) (f : Ctx → Rood → Rood) :
    (onRood r f s).dev.comp = s.dev.comp ∧ (onRood r f s).dev.layout = s.dev.layout ∧
      (onRood r f s).dev.pendingLayout = s.dev.pendingLayout ∧ (onRood r f s).dev.side = s.dev.side ∧
      (onRood r f s).dev.integ = s.dev.integ ∧ (onRood r f s).dev.snap = s.dev.snap ∧
      (onRood r f s).dev.boot.phase = s.dev.boot.phase := by
  unfold onRood
  rw [onDev_dev]
  split
  · have h := atRood_bound s.dev r f s.clock.time
    simp only [signal_comp, signal_layout, signal_pendingLayout, signal_side, signal_integ, signal_snap, signal_boot]
    exact ⟨h.comp, h.layout, h.pendingLayout, h.side, h.integ, h.snap, h.phase⟩
  · simp

/-! ## An accepted command -/

theorem onCmd_runs {x : Rood} {c : Nat} {d : Cmd} {ops : List Nat} (hc : x.cmd? c = some d) (ho : ops.contains d.opcode = true)
    (hs : d.stage = .accepted) (f : Cmd → Rood → Rood) : x.onCmd c ops f = f d x := by
  have h : (ops.contains d.opcode && d.stage == .accepted) = true := by rw [ho, hs]; rfl
  unfold Rood.onCmd
  rw [hc]
  exact if_pos h

end Sys2Proof.Machine
end

