-- ==== Sys2Proof/Laws/Residue.lean ====
section
/-! SUPPORT. The residue checks of R200 pass for every block product that the model computes. -/
namespace Sys2Proof.Machine
open Sys2Proof

theorem residue3_mul (x y : Int) : residue3 (residue3 x * residue3 y) = residue3 (x * y) := by
  simp [residue3, Int.mul_emod]

theorem residue3_add (x y : Int) : residue3 (residue3 x + residue3 y) = residue3 (x + y) := by
  simp [residue3, Int.add_emod]

theorem residueOk_always (cw ca : List Int) : residueOk cw ca = true := by
  simp only [residueOk, beq_iff_eq]
  induction cw generalizing ca with
  | nil => rfl
  | cons x cw ih =>
    cases ca with
    | nil => rfl
    | cons y ca =>
      simp only [List.zipWith_cons_cons, List.sum_cons]
      rw [← residue3_add, residue3_mul, ih, residue3_add]

theorem addResidueOk_always (x y : Int) : addResidueOk x y = true := by
  simp [addResidueOk, residue3_add]

theorem zipWith_true {a b : List Nat} (h : false ∈ a.zipWith (fun _ _ => true) b) : false = true := by
  induction a generalizing b with
  | nil => simp at h
  | cons x a ih =>
    cases b with
    | nil => simp at h
    | cons y b => simp only [List.zipWith_cons_cons, List.mem_cons] at h; exact h.elim id (fun h => ih h)

/-- R200: no block product of the model's own arithmetic is a mismatch. -/
theorem blkResidueOk_always (w a : Blk) : blkResidueOk w a = true := by
  cases w <;> cases a <;> simp [blkResidueOk, residueOk_always]
  exact fun h => by simpa using zipWith_true h

end Sys2Proof.Machine
end

