-- ==== Sys2Proof/Laws/State.lean ====
section
/-! SUPPORT. What each named update of a rood and of the device leaves alone, field by field; simp takes the parts of each
conjunction as rewrite rules, so that no proof unfolds an update. -/
namespace Sys2Proof.Machine
open Sys2Proof

/-- `Rood.ask` changes `fx` alone. -/
@[simp] theorem Rood.ask_keeps (f : Fx) (y : Rood) :
    (y.ask f).num = y.num ∧ (y.ask f).firstSg = y.firstSg ∧ (y.ask f).width = y.width ∧
    (y.ask f).flashShare = y.flashShare ∧ (y.ask f).fenced = y.fenced ∧ (y.ask f).intakeOn = y.intakeOn ∧
    (y.ask f).quiet = y.quiet ∧ (y.ask f).cacheOff = y.cacheOff ∧ (y.ask f).scrubbing = y.scrubbing ∧
    (y.ask f).powered = y.powered ∧ (y.ask f).storageKey = y.storageKey ∧ (y.ask f).regs = y.regs ∧
    (y.ask f).irings = y.irings ∧ (y.ask f).crings = y.crings ∧ (y.ask f).cmds = y.cmds ∧ (y.ask f).nextCmd = y.nextCmd ∧
    (y.ask f).slots = y.slots ∧ (y.ask f).baseGen = y.baseGen ∧ (y.ask f).freeLists = y.freeLists ∧ (y.ask f).kv = y.kv ∧
    (y.ask f).obj = y.obj ∧ (y.ask f).seqs = y.seqs ∧ (y.ask f).nextOrder = y.nextOrder ∧ (y.ask f).crews = y.crews ∧
    (y.ask f).moves = y.moves ∧ (y.ask f).holds = y.holds ∧ (y.ask f).arrivals = y.arrivals ∧ (y.ask f).vecs = y.vecs ∧
    (y.ask f).vecOps = y.vecOps ∧ (y.ask f).vecQueue = y.vecQueue ∧ (y.ask f).vecReqs = y.vecReqs ∧ (y.ask f).ckp = y.ckp ∧
    (y.ask f).flash = y.flash ∧ (y.ask f).nextObj = y.nextObj ∧ (y.ask f).nextChan = y.nextChan ∧
    (y.ask f).freedExts = y.freedExts ∧ (y.ask f).snapNumber = y.snapNumber ∧ (y.ask f).tally = y.tally ∧
    (y.ask f).carried = y.carried ∧ (y.ask f).rebuilding = y.rebuilding ∧ (y.ask f).wins = y.wins ∧ (y.ask f).lex = y.lex ∧
    (y.ask f).hdm = y.hdm ∧ (y.ask f).staging = y.staging ∧ (y.ask f).stagingBad = y.stagingBad ∧
    (y.ask f).host = y.host := by
  and_intros <;> rfl

/-- `Rood.mapTally` changes `tally` alone. -/
@[simp] theorem Rood.mapTally_keeps (f : Tally → Tally) (y : Rood) :
    (y.mapTally f).num = y.num ∧ (y.mapTally f).firstSg = y.firstSg ∧ (y.mapTally f).width = y.width ∧
    (y.mapTally f).flashShare = y.flashShare ∧ (y.mapTally f).fenced = y.fenced ∧ (y.mapTally f).intakeOn = y.intakeOn ∧
    (y.mapTally f).quiet = y.quiet ∧ (y.mapTally f).cacheOff = y.cacheOff ∧ (y.mapTally f).scrubbing = y.scrubbing ∧
    (y.mapTally f).powered = y.powered ∧ (y.mapTally f).storageKey = y.storageKey ∧ (y.mapTally f).regs = y.regs ∧
    (y.mapTally f).irings = y.irings ∧ (y.mapTally f).crings = y.crings ∧ (y.mapTally f).cmds = y.cmds ∧
    (y.mapTally f).nextCmd = y.nextCmd ∧ (y.mapTally f).slots = y.slots ∧ (y.mapTally f).baseGen = y.baseGen ∧
    (y.mapTally f).freeLists = y.freeLists ∧ (y.mapTally f).kv = y.kv ∧ (y.mapTally f).obj = y.obj ∧
    (y.mapTally f).seqs = y.seqs ∧ (y.mapTally f).nextOrder = y.nextOrder ∧ (y.mapTally f).crews = y.crews ∧
    (y.mapTally f).moves = y.moves ∧ (y.mapTally f).holds = y.holds ∧ (y.mapTally f).arrivals = y.arrivals ∧
    (y.mapTally f).vecs = y.vecs ∧ (y.mapTally f).vecOps = y.vecOps ∧ (y.mapTally f).vecQueue = y.vecQueue ∧
    (y.mapTally f).vecReqs = y.vecReqs ∧ (y.mapTally f).ckp = y.ckp ∧ (y.mapTally f).flash = y.flash ∧
    (y.mapTally f).nextObj = y.nextObj ∧ (y.mapTally f).nextChan = y.nextChan ∧ (y.mapTally f).freedExts = y.freedExts ∧
    (y.mapTally f).snapNumber = y.snapNumber ∧ (y.mapTally f).carried = y.carried ∧
    (y.mapTally f).rebuilding = y.rebuilding ∧ (y.mapTally f).wins = y.wins ∧ (y.mapTally f).lex = y.lex ∧
    (y.mapTally f).hdm = y.hdm ∧ (y.mapTally f).staging = y.staging ∧ (y.mapTally f).stagingBad = y.stagingBad ∧
    (y.mapTally f).host = y.host ∧ (y.mapTally f).fx = y.fx := by
  and_intros <;> rfl

/-- `Rood.modCring` changes `crings` alone. -/
@[simp] theorem Rood.modCring_keeps (n : Nat) (f : CRing → CRing) (y : Rood) :
    (y.modCring n f).num = y.num ∧ (y.modCring n f).firstSg = y.firstSg ∧ (y.modCring n f).width = y.width ∧
    (y.modCring n f).flashShare = y.flashShare ∧ (y.modCring n f).fenced = y.fenced ∧
    (y.modCring n f).intakeOn = y.intakeOn ∧ (y.modCring n f).quiet = y.quiet ∧ (y.modCring n f).cacheOff = y.cacheOff ∧
    (y.modCring n f).scrubbing = y.scrubbing ∧ (y.modCring n f).powered = y.powered ∧
    (y.modCring n f).storageKey = y.storageKey ∧ (y.modCring n f).regs = y.regs ∧ (y.modCring n f).irings = y.irings ∧
    (y.modCring n f).cmds = y.cmds ∧ (y.modCring n f).nextCmd = y.nextCmd ∧ (y.modCring n f).slots = y.slots ∧
    (y.modCring n f).baseGen = y.baseGen ∧ (y.modCring n f).freeLists = y.freeLists ∧ (y.modCring n f).kv = y.kv ∧
    (y.modCring n f).obj = y.obj ∧ (y.modCring n f).seqs = y.seqs ∧ (y.modCring n f).nextOrder = y.nextOrder ∧
    (y.modCring n f).crews = y.crews ∧ (y.modCring n f).moves = y.moves ∧ (y.modCring n f).holds = y.holds ∧
    (y.modCring n f).arrivals = y.arrivals ∧ (y.modCring n f).vecs = y.vecs ∧ (y.modCring n f).vecOps = y.vecOps ∧
    (y.modCring n f).vecQueue = y.vecQueue ∧ (y.modCring n f).vecReqs = y.vecReqs ∧ (y.modCring n f).ckp = y.ckp ∧
    (y.modCring n f).flash = y.flash ∧ (y.modCring n f).nextObj = y.nextObj ∧ (y.modCring n f).nextChan = y.nextChan ∧
    (y.modCring n f).freedExts = y.freedExts ∧ (y.modCring n f).snapNumber = y.snapNumber ∧
    (y.modCring n f).tally = y.tally ∧ (y.modCring n f).carried = y.carried ∧ (y.modCring n f).rebuilding = y.rebuilding ∧
    (y.modCring n f).wins = y.wins ∧ (y.modCring n f).lex = y.lex ∧ (y.modCring n f).hdm = y.hdm ∧
    (y.modCring n f).staging = y.staging ∧ (y.modCring n f).stagingBad = y.stagingBad ∧ (y.modCring n f).host = y.host ∧
    (y.modCring n f).fx = y.fx := by
  and_intros <;> rfl

/-- `Rood.setSlot` changes `slots` alone. -/
@[simp] theorem Rood.setSlot_keeps (i : Nat) (s : Slot) (y : Rood) :
    (y.setSlot i s).num = y.num ∧ (y.setSlot i s).firstSg = y.firstSg ∧ (y.setSlot i s).width = y.width ∧
    (y.setSlot i s).flashShare = y.flashShare ∧ (y.setSlot i s).fenced = y.fenced ∧ (y.setSlot i s).intakeOn = y.intakeOn ∧
    (y.setSlot i s).quiet = y.quiet ∧ (y.setSlot i s).cacheOff = y.cacheOff ∧ (y.setSlot i s).scrubbing = y.scrubbing ∧
    (y.setSlot i s).powered = y.powered ∧ (y.setSlot i s).storageKey = y.storageKey ∧ (y.setSlot i s).regs = y.regs ∧
    (y.setSlot i s).irings = y.irings ∧ (y.setSlot i s).crings = y.crings ∧ (y.setSlot i s).cmds = y.cmds ∧
    (y.setSlot i s).nextCmd = y.nextCmd ∧ (y.setSlot i s).baseGen = y.baseGen ∧ (y.setSlot i s).freeLists = y.freeLists ∧
    (y.setSlot i s).kv = y.kv ∧ (y.setSlot i s).obj = y.obj ∧ (y.setSlot i s).seqs = y.seqs ∧
    (y.setSlot i s).nextOrder = y.nextOrder ∧ (y.setSlot i s).crews = y.crews ∧ (y.setSlot i s).moves = y.moves ∧
    (y.setSlot i s).holds = y.holds ∧ (y.setSlot i s).arrivals = y.arrivals ∧ (y.setSlot i s).vecs = y.vecs ∧
    (y.setSlot i s).vecOps = y.vecOps ∧ (y.setSlot i s).vecQueue = y.vecQueue ∧ (y.setSlot i s).vecReqs = y.vecReqs ∧
    (y.setSlot i s).ckp = y.ckp ∧ (y.setSlot i s).flash = y.flash ∧ (y.setSlot i s).nextObj = y.nextObj ∧
    (y.setSlot i s).nextChan = y.nextChan ∧ (y.setSlot i s).freedExts = y.freedExts ∧
    (y.setSlot i s).snapNumber = y.snapNumber ∧ (y.setSlot i s).tally = y.tally ∧ (y.setSlot i s).carried = y.carried ∧
    (y.setSlot i s).rebuilding = y.rebuilding ∧ (y.setSlot i s).wins = y.wins ∧ (y.setSlot i s).lex = y.lex ∧
    (y.setSlot i s).hdm = y.hdm ∧ (y.setSlot i s).staging = y.staging ∧ (y.setSlot i s).stagingBad = y.stagingBad ∧
    (y.setSlot i s).host = y.host ∧ (y.setSlot i s).fx = y.fx := by
  and_intros <;> rfl

/-- `Rood.setEntry` changes `slots` alone. -/
@[simp] theorem Rood.setEntry_keeps (i : Nat) (e : Entry) (y : Rood) :
    (y.setEntry i e).num = y.num ∧ (y.setEntry i e).firstSg = y.firstSg ∧ (y.setEntry i e).width = y.width ∧
    (y.setEntry i e).flashShare = y.flashShare ∧ (y.setEntry i e).fenced = y.fenced ∧
    (y.setEntry i e).intakeOn = y.intakeOn ∧ (y.setEntry i e).quiet = y.quiet ∧ (y.setEntry i e).cacheOff = y.cacheOff ∧
    (y.setEntry i e).scrubbing = y.scrubbing ∧ (y.setEntry i e).powered = y.powered ∧
    (y.setEntry i e).storageKey = y.storageKey ∧ (y.setEntry i e).regs = y.regs ∧ (y.setEntry i e).irings = y.irings ∧
    (y.setEntry i e).crings = y.crings ∧ (y.setEntry i e).cmds = y.cmds ∧ (y.setEntry i e).nextCmd = y.nextCmd ∧
    (y.setEntry i e).baseGen = y.baseGen ∧ (y.setEntry i e).freeLists = y.freeLists ∧ (y.setEntry i e).kv = y.kv ∧
    (y.setEntry i e).obj = y.obj ∧ (y.setEntry i e).seqs = y.seqs ∧ (y.setEntry i e).nextOrder = y.nextOrder ∧
    (y.setEntry i e).crews = y.crews ∧ (y.setEntry i e).moves = y.moves ∧ (y.setEntry i e).holds = y.holds ∧
    (y.setEntry i e).arrivals = y.arrivals ∧ (y.setEntry i e).vecs = y.vecs ∧ (y.setEntry i e).vecOps = y.vecOps ∧
    (y.setEntry i e).vecQueue = y.vecQueue ∧ (y.setEntry i e).vecReqs = y.vecReqs ∧ (y.setEntry i e).ckp = y.ckp ∧
    (y.setEntry i e).flash = y.flash ∧ (y.setEntry i e).nextObj = y.nextObj ∧ (y.setEntry i e).nextChan = y.nextChan ∧
    (y.setEntry i e).freedExts = y.freedExts ∧ (y.setEntry i e).snapNumber = y.snapNumber ∧
    (y.setEntry i e).tally = y.tally ∧ (y.setEntry i e).carried = y.carried ∧ (y.setEntry i e).rebuilding = y.rebuilding ∧
    (y.setEntry i e).wins = y.wins ∧ (y.setEntry i e).lex = y.lex ∧ (y.setEntry i e).hdm = y.hdm ∧
    (y.setEntry i e).staging = y.staging ∧ (y.setEntry i e).stagingBad = y.stagingBad ∧ (y.setEntry i e).host = y.host ∧
    (y.setEntry i e).fx = y.fx := by
  and_intros <;> rfl

/-- `Rood.setCmd` changes `cmds` alone. -/
@[simp] theorem Rood.setCmd_keeps (c : Cmd) (y : Rood) :
    (y.setCmd c).num = y.num ∧ (y.setCmd c).firstSg = y.firstSg ∧ (y.setCmd c).width = y.width ∧
    (y.setCmd c).flashShare = y.flashShare ∧ (y.setCmd c).fenced = y.fenced ∧ (y.setCmd c).intakeOn = y.intakeOn ∧
    (y.setCmd c).quiet = y.quiet ∧ (y.setCmd c).cacheOff = y.cacheOff ∧ (y.setCmd c).scrubbing = y.scrubbing ∧
    (y.setCmd c).powered = y.powered ∧ (y.setCmd c).storageKey = y.storageKey ∧ (y.setCmd c).regs = y.regs ∧
    (y.setCmd c).irings = y.irings ∧ (y.setCmd c).crings = y.crings ∧ (y.setCmd c).nextCmd = y.nextCmd ∧
    (y.setCmd c).slots = y.slots ∧ (y.setCmd c).baseGen = y.baseGen ∧ (y.setCmd c).freeLists = y.freeLists ∧
    (y.setCmd c).kv = y.kv ∧ (y.setCmd c).obj = y.obj ∧ (y.setCmd c).seqs = y.seqs ∧ (y.setCmd c).nextOrder = y.nextOrder ∧
    (y.setCmd c).crews = y.crews ∧ (y.setCmd c).moves = y.moves ∧ (y.setCmd c).holds = y.holds ∧
    (y.setCmd c).arrivals = y.arrivals ∧ (y.setCmd c).vecs = y.vecs ∧ (y.setCmd c).vecOps = y.vecOps ∧
    (y.setCmd c).vecQueue = y.vecQueue ∧ (y.setCmd c).vecReqs = y.vecReqs ∧ (y.setCmd c).ckp = y.ckp ∧
    (y.setCmd c).flash = y.flash ∧ (y.setCmd c).nextObj = y.nextObj ∧ (y.setCmd c).nextChan = y.nextChan ∧
    (y.setCmd c).freedExts = y.freedExts ∧ (y.setCmd c).snapNumber = y.snapNumber ∧ (y.setCmd c).tally = y.tally ∧
    (y.setCmd c).carried = y.carried ∧ (y.setCmd c).rebuilding = y.rebuilding ∧ (y.setCmd c).wins = y.wins ∧
    (y.setCmd c).lex = y.lex ∧ (y.setCmd c).hdm = y.hdm ∧ (y.setCmd c).staging = y.staging ∧
    (y.setCmd c).stagingBad = y.stagingBad ∧ (y.setCmd c).host = y.host ∧ (y.setCmd c).fx = y.fx := by
  and_intros <;> rfl

/-- `Rood.setSeq` changes `seqs` alone. -/
@[simp] theorem Rood.setSeq_keeps (q : Seq) (y : Rood) :
    (y.setSeq q).num = y.num ∧ (y.setSeq q).firstSg = y.firstSg ∧ (y.setSeq q).width = y.width ∧
    (y.setSeq q).flashShare = y.flashShare ∧ (y.setSeq q).fenced = y.fenced ∧ (y.setSeq q).intakeOn = y.intakeOn ∧
    (y.setSeq q).quiet = y.quiet ∧ (y.setSeq q).cacheOff = y.cacheOff ∧ (y.setSeq q).scrubbing = y.scrubbing ∧
    (y.setSeq q).powered = y.powered ∧ (y.setSeq q).storageKey = y.storageKey ∧ (y.setSeq q).regs = y.regs ∧
    (y.setSeq q).irings = y.irings ∧ (y.setSeq q).crings = y.crings ∧ (y.setSeq q).cmds = y.cmds ∧
    (y.setSeq q).nextCmd = y.nextCmd ∧ (y.setSeq q).slots = y.slots ∧ (y.setSeq q).baseGen = y.baseGen ∧
    (y.setSeq q).freeLists = y.freeLists ∧ (y.setSeq q).kv = y.kv ∧ (y.setSeq q).obj = y.obj ∧
    (y.setSeq q).nextOrder = y.nextOrder ∧ (y.setSeq q).crews = y.crews ∧ (y.setSeq q).moves = y.moves ∧
    (y.setSeq q).holds = y.holds ∧ (y.setSeq q).arrivals = y.arrivals ∧ (y.setSeq q).vecs = y.vecs ∧
    (y.setSeq q).vecOps = y.vecOps ∧ (y.setSeq q).vecQueue = y.vecQueue ∧ (y.setSeq q).vecReqs = y.vecReqs ∧
    (y.setSeq q).ckp = y.ckp ∧ (y.setSeq q).flash = y.flash ∧ (y.setSeq q).nextObj = y.nextObj ∧
    (y.setSeq q).nextChan = y.nextChan ∧ (y.setSeq q).freedExts = y.freedExts ∧ (y.setSeq q).snapNumber = y.snapNumber ∧
    (y.setSeq q).tally = y.tally ∧ (y.setSeq q).carried = y.carried ∧ (y.setSeq q).rebuilding = y.rebuilding ∧
    (y.setSeq q).wins = y.wins ∧ (y.setSeq q).lex = y.lex ∧ (y.setSeq q).hdm = y.hdm ∧ (y.setSeq q).staging = y.staging ∧
    (y.setSeq q).stagingBad = y.stagingBad ∧ (y.setSeq q).host = y.host ∧ (y.setSeq q).fx = y.fx := by
  and_intros <;> rfl

/-- `Rood.setCrew` changes `crews` alone. -/
@[simp] theorem Rood.setCrew_keeps (k : Crew) (y : Rood) :
    (y.setCrew k).num = y.num ∧ (y.setCrew k).firstSg = y.firstSg ∧ (y.setCrew k).width = y.width ∧
    (y.setCrew k).flashShare = y.flashShare ∧ (y.setCrew k).fenced = y.fenced ∧ (y.setCrew k).intakeOn = y.intakeOn ∧
    (y.setCrew k).quiet = y.quiet ∧ (y.setCrew k).cacheOff = y.cacheOff ∧ (y.setCrew k).scrubbing = y.scrubbing ∧
    (y.setCrew k).powered = y.powered ∧ (y.setCrew k).storageKey = y.storageKey ∧ (y.setCrew k).regs = y.regs ∧
    (y.setCrew k).irings = y.irings ∧ (y.setCrew k).crings = y.crings ∧ (y.setCrew k).cmds = y.cmds ∧
    (y.setCrew k).nextCmd = y.nextCmd ∧ (y.setCrew k).slots = y.slots ∧ (y.setCrew k).baseGen = y.baseGen ∧
    (y.setCrew k).freeLists = y.freeLists ∧ (y.setCrew k).kv = y.kv ∧ (y.setCrew k).obj = y.obj ∧
    (y.setCrew k).seqs = y.seqs ∧ (y.setCrew k).nextOrder = y.nextOrder ∧ (y.setCrew k).moves = y.moves ∧
    (y.setCrew k).holds = y.holds ∧ (y.setCrew k).arrivals = y.arrivals ∧ (y.setCrew k).vecs = y.vecs ∧
    (y.setCrew k).vecOps = y.vecOps ∧ (y.setCrew k).vecQueue = y.vecQueue ∧ (y.setCrew k).vecReqs = y.vecReqs ∧
    (y.setCrew k).ckp = y.ckp ∧ (y.setCrew k).flash = y.flash ∧ (y.setCrew k).nextObj = y.nextObj ∧
    (y.setCrew k).nextChan = y.nextChan ∧ (y.setCrew k).freedExts = y.freedExts ∧ (y.setCrew k).snapNumber = y.snapNumber ∧
    (y.setCrew k).tally = y.tally ∧ (y.setCrew k).carried = y.carried ∧ (y.setCrew k).rebuilding = y.rebuilding ∧
    (y.setCrew k).wins = y.wins ∧ (y.setCrew k).lex = y.lex ∧ (y.setCrew k).hdm = y.hdm ∧
    (y.setCrew k).staging = y.staging ∧ (y.setCrew k).stagingBad = y.stagingBad ∧ (y.setCrew k).host = y.host ∧
    (y.setCrew k).fx = y.fx := by
  and_intros <;> rfl

/-- `Rood.setMove` changes `moves` alone. -/
@[simp] theorem Rood.setMove_keeps (m : Move) (y : Rood) :
    (y.setMove m).num = y.num ∧ (y.setMove m).firstSg = y.firstSg ∧ (y.setMove m).width = y.width ∧
    (y.setMove m).flashShare = y.flashShare ∧ (y.setMove m).fenced = y.fenced ∧ (y.setMove m).intakeOn = y.intakeOn ∧
    (y.setMove m).quiet = y.quiet ∧ (y.setMove m).cacheOff = y.cacheOff ∧ (y.setMove m).scrubbing = y.scrubbing ∧
    (y.setMove m).powered = y.powered ∧ (y.setMove m).storageKey = y.storageKey ∧ (y.setMove m).regs = y.regs ∧
    (y.setMove m).irings = y.irings ∧ (y.setMove m).crings = y.crings ∧ (y.setMove m).cmds = y.cmds ∧
    (y.setMove m).nextCmd = y.nextCmd ∧ (y.setMove m).slots = y.slots ∧ (y.setMove m).baseGen = y.baseGen ∧
    (y.setMove m).freeLists = y.freeLists ∧ (y.setMove m).kv = y.kv ∧ (y.setMove m).obj = y.obj ∧
    (y.setMove m).seqs = y.seqs ∧ (y.setMove m).nextOrder = y.nextOrder ∧ (y.setMove m).crews = y.crews ∧
    (y.setMove m).holds = y.holds ∧ (y.setMove m).arrivals = y.arrivals ∧ (y.setMove m).vecs = y.vecs ∧
    (y.setMove m).vecOps = y.vecOps ∧ (y.setMove m).vecQueue = y.vecQueue ∧ (y.setMove m).vecReqs = y.vecReqs ∧
    (y.setMove m).ckp = y.ckp ∧ (y.setMove m).flash = y.flash ∧ (y.setMove m).nextObj = y.nextObj ∧
    (y.setMove m).nextChan = y.nextChan ∧ (y.setMove m).freedExts = y.freedExts ∧ (y.setMove m).snapNumber = y.snapNumber ∧
    (y.setMove m).tally = y.tally ∧ (y.setMove m).carried = y.carried ∧ (y.setMove m).rebuilding = y.rebuilding ∧
    (y.setMove m).wins = y.wins ∧ (y.setMove m).lex = y.lex ∧ (y.setMove m).hdm = y.hdm ∧
    (y.setMove m).staging = y.staging ∧ (y.setMove m).stagingBad = y.stagingBad ∧ (y.setMove m).host = y.host ∧
    (y.setMove m).fx = y.fx := by
  and_intros <;> rfl

/-- `Rood.dropMove` changes `moves` alone. -/
@[simp] theorem Rood.dropMove_keeps (slot : Nat) (y : Rood) :
    (y.dropMove slot).num = y.num ∧ (y.dropMove slot).firstSg = y.firstSg ∧ (y.dropMove slot).width = y.width ∧
    (y.dropMove slot).flashShare = y.flashShare ∧ (y.dropMove slot).fenced = y.fenced ∧
    (y.dropMove slot).intakeOn = y.intakeOn ∧ (y.dropMove slot).quiet = y.quiet ∧ (y.dropMove slot).cacheOff = y.cacheOff ∧
    (y.dropMove slot).scrubbing = y.scrubbing ∧ (y.dropMove slot).powered = y.powered ∧
    (y.dropMove slot).storageKey = y.storageKey ∧ (y.dropMove slot).regs = y.regs ∧ (y.dropMove slot).irings = y.irings ∧
    (y.dropMove slot).crings = y.crings ∧ (y.dropMove slot).cmds = y.cmds ∧ (y.dropMove slot).nextCmd = y.nextCmd ∧
    (y.dropMove slot).slots = y.slots ∧ (y.dropMove slot).baseGen = y.baseGen ∧ (y.dropMove slot).freeLists = y.freeLists ∧
    (y.dropMove slot).kv = y.kv ∧ (y.dropMove slot).obj = y.obj ∧ (y.dropMove slot).seqs = y.seqs ∧
    (y.dropMove slot).nextOrder = y.nextOrder ∧ (y.dropMove slot).crews = y.crews ∧ (y.dropMove slot).holds = y.holds ∧
    (y.dropMove slot).arrivals = y.arrivals ∧ (y.dropMove slot).vecs = y.vecs ∧ (y.dropMove slot).vecOps = y.vecOps ∧
    (y.dropMove slot).vecQueue = y.vecQueue ∧ (y.dropMove slot).vecReqs = y.vecReqs ∧ (y.dropMove slot).ckp = y.ckp ∧
    (y.dropMove slot).flash = y.flash ∧ (y.dropMove slot).nextObj = y.nextObj ∧ (y.dropMove slot).nextChan = y.nextChan ∧
    (y.dropMove slot).freedExts = y.freedExts ∧ (y.dropMove slot).snapNumber = y.snapNumber ∧
    (y.dropMove slot).tally = y.tally ∧ (y.dropMove slot).carried = y.carried ∧
    (y.dropMove slot).rebuilding = y.rebuilding ∧ (y.dropMove slot).wins = y.wins ∧ (y.dropMove slot).lex = y.lex ∧
    (y.dropMove slot).hdm = y.hdm ∧ (y.dropMove slot).staging = y.staging ∧ (y.dropMove slot).stagingBad = y.stagingBad ∧
    (y.dropMove slot).host = y.host ∧ (y.dropMove slot).fx = y.fx := by
  and_intros <;> rfl

/-- `Rood.setVec` changes `vecs` alone. -/
@[simp] theorem Rood.setVec_keeps (v : VecIndex) (y : Rood) :
    (y.setVec v).num = y.num ∧ (y.setVec v).firstSg = y.firstSg ∧ (y.setVec v).width = y.width ∧
    (y.setVec v).flashShare = y.flashShare ∧ (y.setVec v).fenced = y.fenced ∧ (y.setVec v).intakeOn = y.intakeOn ∧
    (y.setVec v).quiet = y.quiet ∧ (y.setVec v).cacheOff = y.cacheOff ∧ (y.setVec v).scrubbing = y.scrubbing ∧
    (y.setVec v).powered = y.powered ∧ (y.setVec v).storageKey = y.storageKey ∧ (y.setVec v).regs = y.regs ∧
    (y.setVec v).irings = y.irings ∧ (y.setVec v).crings = y.crings ∧ (y.setVec v).cmds = y.cmds ∧
    (y.setVec v).nextCmd = y.nextCmd ∧ (y.setVec v).slots = y.slots ∧ (y.setVec v).baseGen = y.baseGen ∧
    (y.setVec v).freeLists = y.freeLists ∧ (y.setVec v).kv = y.kv ∧ (y.setVec v).obj = y.obj ∧ (y.setVec v).seqs = y.seqs ∧
    (y.setVec v).nextOrder = y.nextOrder ∧ (y.setVec v).crews = y.crews ∧ (y.setVec v).moves = y.moves ∧
    (y.setVec v).holds = y.holds ∧ (y.setVec v).arrivals = y.arrivals ∧ (y.setVec v).vecOps = y.vecOps ∧
    (y.setVec v).vecQueue = y.vecQueue ∧ (y.setVec v).vecReqs = y.vecReqs ∧ (y.setVec v).ckp = y.ckp ∧
    (y.setVec v).flash = y.flash ∧ (y.setVec v).nextObj = y.nextObj ∧ (y.setVec v).nextChan = y.nextChan ∧
    (y.setVec v).freedExts = y.freedExts ∧ (y.setVec v).snapNumber = y.snapNumber ∧ (y.setVec v).tally = y.tally ∧
    (y.setVec v).carried = y.carried ∧ (y.setVec v).rebuilding = y.rebuilding ∧ (y.setVec v).wins = y.wins ∧
    (y.setVec v).lex = y.lex ∧ (y.setVec v).hdm = y.hdm ∧ (y.setVec v).staging = y.staging ∧
    (y.setVec v).stagingBad = y.stagingBad ∧ (y.setVec v).host = y.host ∧ (y.setVec v).fx = y.fx := by
  and_intros <;> rfl

/-- `Rood.setVecOp` changes `vecOps` alone. -/
@[simp] theorem Rood.setVecOp_keeps (o : VecOp) (y : Rood) :
    (y.setVecOp o).num = y.num ∧ (y.setVecOp o).firstSg = y.firstSg ∧ (y.setVecOp o).width = y.width ∧
    (y.setVecOp o).flashShare = y.flashShare ∧ (y.setVecOp o).fenced = y.fenced ∧ (y.setVecOp o).intakeOn = y.intakeOn ∧
    (y.setVecOp o).quiet = y.quiet ∧ (y.setVecOp o).cacheOff = y.cacheOff ∧ (y.setVecOp o).scrubbing = y.scrubbing ∧
    (y.setVecOp o).powered = y.powered ∧ (y.setVecOp o).storageKey = y.storageKey ∧ (y.setVecOp o).regs = y.regs ∧
    (y.setVecOp o).irings = y.irings ∧ (y.setVecOp o).crings = y.crings ∧ (y.setVecOp o).cmds = y.cmds ∧
    (y.setVecOp o).nextCmd = y.nextCmd ∧ (y.setVecOp o).slots = y.slots ∧ (y.setVecOp o).baseGen = y.baseGen ∧
    (y.setVecOp o).freeLists = y.freeLists ∧ (y.setVecOp o).kv = y.kv ∧ (y.setVecOp o).obj = y.obj ∧
    (y.setVecOp o).seqs = y.seqs ∧ (y.setVecOp o).nextOrder = y.nextOrder ∧ (y.setVecOp o).crews = y.crews ∧
    (y.setVecOp o).moves = y.moves ∧ (y.setVecOp o).holds = y.holds ∧ (y.setVecOp o).arrivals = y.arrivals ∧
    (y.setVecOp o).vecs = y.vecs ∧ (y.setVecOp o).vecQueue = y.vecQueue ∧ (y.setVecOp o).vecReqs = y.vecReqs ∧
    (y.setVecOp o).ckp = y.ckp ∧ (y.setVecOp o).flash = y.flash ∧ (y.setVecOp o).nextObj = y.nextObj ∧
    (y.setVecOp o).nextChan = y.nextChan ∧ (y.setVecOp o).freedExts = y.freedExts ∧
    (y.setVecOp o).snapNumber = y.snapNumber ∧ (y.setVecOp o).tally = y.tally ∧ (y.setVecOp o).carried = y.carried ∧
    (y.setVecOp o).rebuilding = y.rebuilding ∧ (y.setVecOp o).wins = y.wins ∧ (y.setVecOp o).lex = y.lex ∧
    (y.setVecOp o).hdm = y.hdm ∧ (y.setVecOp o).staging = y.staging ∧ (y.setVecOp o).stagingBad = y.stagingBad ∧
    (y.setVecOp o).host = y.host ∧ (y.setVecOp o).fx = y.fx := by
  and_intros <;> rfl

/-- `Dev.log` changes `regs` alone. -/
@[simp] theorem Dev.log_keeps (e : LogEntry) (d : Dev) :
    (d.log e).boot = d.boot ∧ (d.log e).comp = d.comp ∧ (d.log e).layout = d.layout ∧
    (d.log e).pendingLayout = d.pendingLayout ∧ (d.log e).side = d.side ∧ (d.log e).energy = d.energy ∧
    (d.log e).flash = d.flash ∧ (d.log e).chain = d.chain ∧ (d.log e).integ = d.integ ∧ (d.log e).snap = d.snap ∧
    (d.log e).counters = d.counters ∧ (d.log e).roods = d.roods ∧ (d.log e).out = d.out := by
  and_intros <;> rfl

/-- `Dev.count` changes `counters` alone. -/
@[simp] theorem Dev.count_keeps (set : CtrSet) (unit idx n : Nat) (d : Dev) :
    (d.count set unit idx n).boot = d.boot ∧ (d.count set unit idx n).comp = d.comp ∧
    (d.count set unit idx n).layout = d.layout ∧ (d.count set unit idx n).pendingLayout = d.pendingLayout ∧
    (d.count set unit idx n).side = d.side ∧ (d.count set unit idx n).energy = d.energy ∧
    (d.count set unit idx n).flash = d.flash ∧ (d.count set unit idx n).chain = d.chain ∧
    (d.count set unit idx n).integ = d.integ ∧ (d.count set unit idx n).regs = d.regs ∧
    (d.count set unit idx n).snap = d.snap ∧ (d.count set unit idx n).roods = d.roods ∧
    (d.count set unit idx n).out = d.out := by
  and_intros <;> rfl

/-- `Dev.setPair` changes `chain` alone. -/
@[simp] theorem Dev.setPair_keeps (p : Pair) (d : Dev) :
    (d.setPair p).boot = d.boot ∧ (d.setPair p).comp = d.comp ∧ (d.setPair p).layout = d.layout ∧
    (d.setPair p).pendingLayout = d.pendingLayout ∧ (d.setPair p).side = d.side ∧ (d.setPair p).energy = d.energy ∧
    (d.setPair p).flash = d.flash ∧ (d.setPair p).integ = d.integ ∧ (d.setPair p).regs = d.regs ∧
    (d.setPair p).snap = d.snap ∧ (d.setPair p).counters = d.counters ∧ (d.setPair p).roods = d.roods ∧
    (d.setPair p).out = d.out := by
  and_intros <;> rfl

/-- `Dev.modPort` changes `chain` alone. -/
@[simp] theorem Dev.modPort_keeps (p : Nat) (f : Port → Port) (d : Dev) :
    (d.modPort p f).boot = d.boot ∧ (d.modPort p f).comp = d.comp ∧ (d.modPort p f).layout = d.layout ∧
    (d.modPort p f).pendingLayout = d.pendingLayout ∧ (d.modPort p f).side = d.side ∧ (d.modPort p f).energy = d.energy ∧
    (d.modPort p f).flash = d.flash ∧ (d.modPort p f).integ = d.integ ∧ (d.modPort p f).regs = d.regs ∧
    (d.modPort p f).snap = d.snap ∧ (d.modPort p f).counters = d.counters ∧ (d.modPort p f).roods = d.roods ∧
    (d.modPort p f).out = d.out := by
  and_intros <;> rfl

/-- `Dev.setRood` changes `roods` alone. -/
@[simp] theorem Dev.setRood_keeps (x : Rood) (d : Dev) :
    (d.setRood x).boot = d.boot ∧ (d.setRood x).comp = d.comp ∧ (d.setRood x).layout = d.layout ∧
    (d.setRood x).pendingLayout = d.pendingLayout ∧ (d.setRood x).side = d.side ∧ (d.setRood x).energy = d.energy ∧
    (d.setRood x).flash = d.flash ∧ (d.setRood x).chain = d.chain ∧ (d.setRood x).integ = d.integ ∧
    (d.setRood x).regs = d.regs ∧ (d.setRood x).snap = d.snap ∧ (d.setRood x).counters = d.counters ∧
    (d.setRood x).out = d.out := by
  and_intros <;> rfl

end Sys2Proof.Machine
end

