-- ==== Sys2Proof/Safety.lean ====
section
/-! DEFINITION. A safe run: no command stops the block. -/
namespace Sys2Proof.Safety
open Sys2Proof Sys2Proof.Machine

/-- The step answers a next state. -/
def Runs (s : State) : Prop := ∃ t, step s = .next t

/-- The block takes `n` commands from its queue without a stop. -/
def RunsFor : Nat → State → Prop
  | 0, _ => True
  | n + 1, s => ∃ t, step s = .next t ∧ RunsFor n t

end Sys2Proof.Safety
end

