-- ==== Sys2Proof/Tests/Slice0.lean ====
section
/-! SUPPORT. Tests of the model: small states, a witness for the hypotheses of each statement, ill-formed commands that the
check refuses, and worked examples of the manual. -/
namespace Sys2Proof.Tests
set_option Elab.async false
open Sys2Proof Sys2Proof.Machine

/-! ## Small states: a READY, composed device of one rood of one stack group -/

def tRing : CRing := { CRing.reset with enable := true, sizeLog2 := 6 }

def tRood : Rood :=
  { Rood.form 0 0 1 0 with quiet := false, cacheOff := false, intakeOn := true, crings := List.replicate 8 tRing }

def tDev (x : Rood) : Dev :=
  { Dev.reset with
    boot := { Boot.reset with phase := .ready, step := 14 }
    comp := { Comp.reset with composed := true, nextSerial := 1, serialLimit := 65536 }
    regs := { Dev.reset.regs with linkRate := 5, linkWidth := 4 }
    layout := [⟨0, 1, 0⟩], side := { usable := true, running := none, queue := [] }, roods := [x] }

def tState (x : Rood) : State :=
  { State.reset with pins := { vaux := true, pwrgd := true, warmRst := false }, clock := { time := 1000, armed := false }, dev := tDev x }

/-- A descriptor: opcode, handle, and further bits in place. -/
def tRaw (op handle rest : Nat) : BitVec 512 := BitVec.ofNat 512 (op + handle <<< 32 + rest)

def tCmd (op handle rest : Nat) : Cmd := Cmd.ofLine 1 0 0 (.clean (tRaw op handle rest))

/-- The rood with one accepted command, whose record is reserved. -/
def tWith (c : Cmd) (x : Rood) : Rood :=
  { x with cmds := x.cmds ++ [c], nextCmd := 2, crings := modIdx 0 (fun q => { q with reserved := 1 }) x.crings }

/-- Completion ring 0 of such a rood. -/
def tRing1 : CRing := { tRing with reserved := 1 }

def tParams : Params :=
  { hidden := 64, layers := 1, qHeads := 1, kvHeads := 1, headDim := 64, normOffset := 0, act := 0, mlpWidth := 64, vocab := 300
    normEps := 0, qkvBias := 0, qkNorm := 0, ropePairing := 0, ropeScaling := 0, ropeBase := 0, ropeFactor := 0
    ropeOrigLen := 0, ropeBetaFast := 0, ropeBetaSlow := 0, attnScale := 0, embMult := 0, logitCap := 0, tieEmbed := 1
    pairAttn := 1, pairMlp := 1, pairEmbed := 1, pairOut := 1, ctxLimit := 1000 }

def tPlace : Placement :=
  { width := 1, stepTokens := 16, workBytes := 0, sgBytes := 0, maxTileBytes := 0, slices := [], prices := [⟨0, 1, 1, 1⟩] }

def tImage : Image :=
  { kind := .placement tParams tPlace, loadSeq := 1, loadTime := 0, digest := [], cek := 0, weights := [], freqs := [], frames := [] }

/-- A session in slot 0 of model slot 0. -/
def tEntry (st : SesState) (length : Nat) : Entry :=
  { state := st, moveKind := 0, latClass := 2, retrieval := false, kv4 := false, modelSlot := 0, adapterSlot := 0xFFFF
    listSet := 0xFF, lastYield := 0, carry := [], modelSeq := 1, length := length, contextLimit := 1000, pendingToken := 7
    pecks := 0, dirRoot := 0, streamBytes := 0, seed := 1, rng := 0, openTime := 0, lastTime := 0, bushel := 0, parent := 0
    genCount := 0, grains := 0, geo := { layers := 1, kvHeads := 1, headDim := 64, digest := [] } }

/-- The rood with an image in model slot 0 and a session in slot 0, whose handle is 2^24. -/
def tHold (e : Entry) : Rood :=
  { tRood with
    obj := { Objects.reset with models := [(0, tImage)], loadSeq := 1 }
    slots := [(0, { gen := 1, entry := some e, taken := false })], freeLists := [⟨[], 1, [], []⟩] }

def tHandle : Nat := 2 ^ 24

/-! ## Witnesses: the hypotheses of each statement hold together somewhere -/

theorem witness_PowerLimitsStayLegal : CapsLegal (tState tRood) ∧ ∃ t, step (tState tRood) = .next t := by
  refine ⟨by dsimp only [CapsLegal]; decide, tState tRood, rfl⟩

theorem witness_UnpoweredIsKept : Unpowered State.reset ∧ ∃ t, exec .vauxValid State.reset = .next t := by
  refine ⟨fun _ => by and_intros <;> decide, _, rfl⟩

theorem witness_TimePinsAndTestPortMoveAlone : ∃ t, exec (.nop 0 1) (tState tRood) = .next t := ⟨_, rfl⟩

theorem witness_RoodCommandsStayInTheirRood :
    roodOf (.nop 3 1) = some 3 ∧ State.reset.dev.roodsLive = false ∧ (tState tRood).dev.roodsLive = true := by decide

/-- Conditions of a start in which all is well until the step at which it is interrupted. -/
def tEnv (runTo : Nat) : StartEnv := { StartEnv.none with runTo := runTo }

theorem witness_PowerBeginsAndEndsTheDevice :
    let thermal := { State.reset with dev := { State.reset.dev with energy := { Energy.reset with thermTrip := true } } }
    (State.reset.pins.pwrgd = false ∧ thermal.pins.pwrgd = false ∧ thermal.dev.energy.thermTrip = true) ∧
      State.reset.pins.warmRst = false ∧ State.reset.dev.energy.thermTrip = false ∧ 2 ≤ (tEnv 2).runTo ∧
      ({ tEnv 2 with railsOk := false } : StartEnv).railsOk = false ∧
      (({ tEnv 2 with railsOk := true, refOk := false } : StartEnv).railsOk = true) ∧
      (tState tRood).pins.pwrgd = true := by decide

theorem witness_WarmResetsStartTheDeviceAgain :
    let waiting := fun p => { State.reset with dev := { State.reset.dev with boot := { Boot.reset with phase := p } } }
    (tState tRood).pins.warmRst = false ∧ (tState tRood).dev.boot.phase = .ready ∧ State.reset.pins.warmRst = false ∧
      State.reset.dev.boot.phase = .off ∧ (waiting .inReset).dev.boot.phase = .inReset ∧
      (waiting .held).dev.boot.phase = .held ∧ (waiting .stopped).dev.boot.phase = .stopped ∧ (waiting .held).dev.energy.thermTrip = false ∧ 1 ≤ (tEnv 1).runTo ∧
      ({ tEnv 1 with railsOk := false } : StartEnv).railsOk = false := by decide

/-- A request on the sideband (Table 2.12), and how it is read. -/
def tMsg (code : Nat) (payload : List Byte) : List Byte := [0x7E, 0x1D, 0x7A, byteOf code, 0, 0x33, 0, 0] ++ payload
def tReq (code : Nat) (payload : List Byte) : SbReq := { code := code, inst := 0x33, msg := tMsg code payload }

theorem witness_ResetCausesResetTheDevice :
    let s := tState tRood
    let lost := { s with dev := { s.dev with integ := { s.dev.integ with clockLost := true } } }
    let linked := { s with dev := { s.dev with regs := { s.dev.regs with linkRate := 6, linkWidth := 16 } } }
    let stopped := { s with dev := { s.dev with boot := { s.dev.boot with phase := .stopped } } }
    s.dev.boot.phase = .ready ∧ stopped.dev.boot.phase = .stopped ∧ lost.dev.boot.phase = .ready ∧ lost.dev.integ.clockLost = true ∧
      linked.dev.boot.phase = .ready ∧ linked.dev.regs.linkRate ≠ 0 ∧
      s.dev.side.usable = true ∧ sbRequest (tMsg 7 (zeros 4)) = some (tReq 7 (zeros 4)) ∧ (tReq 7 (zeros 4)).code = 0x07 ∧
      (tReq 7 (zeros 4)).formatOk = true := by and_intros <;> decide +kernel

theorem witness_ThermalTripActsFromVaux :
    let aux := { State.reset with pins := { State.reset.pins with vaux := true } }
    aux.pins.vaux = true ∧ aux.dev.energy.thermTrip = false ∧ aux.dev.boot.phase = .off ∧ (tState tRood).pins.vaux = true ∧
      (tState tRood).dev.energy.thermTrip = false ∧ (tState tRood).dev.boot.phase = .ready := by decide

theorem witness_TimeFollowsTheReferenceClock :
    let armed := { tState tRood with clock := { time := 77, armed := true } }
    let last := { tState tRood with clock := { time := BitVec.ofNat 64 (2 ^ 64 - 16), armed := false } }
    armed.pins.pwrgd = true ∧ armed.clock.armed = true ∧ last.pins.pwrgd = true ∧ last.clock.armed = false ∧
      last.clock.time.toNat % 10 = 0 ∧ last.clock.time.toNat + 10 < 2 ^ 64 ∧ last.clock.time.toNat + 20 ≥ 2 ^ 64 ∧
      last.dev.boot.phase = .ready ∧ last.dev.integ.clockLost = false := by decide +kernel

theorem witness_LinkTrainingIsShown :
    (tState tRood).pins.pwrgd = true ∧ (1 ≤ 1 ∧ 1 ≤ 7 ∧ 1 ∈ [1, 2, 4, 8, 16]) ∧ (1 ≤ 7 ∧ 7 ≤ 7 ∧ 16 ∈ [1, 2, 4, 8, 16]) ∧
      (tState tRood).dev.roodsLive = true ∧ State.reset.dev.roodsLive = false ∧
      ∀ x ∈ (tState tRood).dev.roods, x.fx = [] ∧ ∀ q ∈ x.crings, q.held = [] := by
  decide

theorem witness_TestPortReachesOnlyItsCells : (tState tRood).pins.pwrgd = true := by decide

/-- Readings of a device at 40 degrees. -/
def tReadings : Readings :=
  { sharedUsed := 5, used := [7], tileTemp := List.replicate 104 (some 320, some 320), stackTemp := List.replicate 24 (some 320)
    roCounts := [], tileEnergy := [] }

theorem witness_BudgetIntervalGrantsEnergy :
    let s := tState tRood
    let stopped := { s with dev := { s.dev with boot := { s.dev.boot with phase := .stopped } } }
    s.dev.boot.phase = .ready ∧ stopped.dev.boot.phase = .stopped ∧
      (stopped.dev.energy.read (fun g => stopped.dev.sgOff g) tReadings).trips = false ∧ (∀ n, n < 104 → tileSensorsOk (tileOf n tReadings) = true) ∧
      (∀ g, g < 24 → (stackOf g tReadings).isSome = true) ∧ (s.dev.energy.read (fun g => s.dev.sgOff g) tReadings).trips = false := by
  and_intros <;> decide +kernel

/-- The session command of this opcode in rood 0, judged in session 0 or opening one. -/
def tJob (op : Nat) (e : Entry) (rest : Nat) (f : Rood → Rood := id) : Rood := tWith (tCmd op tHandle rest) (f (tHold e))

theorem witness_InvalidHandlesAreRefused :
    let x := tWith (tCmd 8 (tHandle + 1) 0) (tHold (tEntry .resident 1))
    let d := tCmd 8 (tHandle + 1) 0
    Works (tState x) 0 x ∧ Accepted x 1 8 d ∧ CanReport x d tRing1 ∧ Passes (tState x) x d (bufsFor 8 noBufs) ∧
      x.validHandle d.handle = false ∧ x.validHandle tHandle = true := by
  dsimp only [Works, Accepted, CanReport, NonePosted, Passes]; and_intros <;> decide +kernel

/-- A session command's hypotheses. -/
def Judged (op : Nat) (e : Entry) (rest : Nat) (f : Rood → Rood) : Prop :=
  let x := tJob op e rest f
  let d := tCmd op tHandle rest
  Works (tState x) 0 x ∧ Accepted x 1 op d ∧ CanReport x d tRing1 ∧ InSession (tState x) x d (bufsFor op noBufs) 0 e

theorem witness_CellsWithoutActionEndTheCommand :
    Judged 7 (tEntry .resident 1) 0 id ∧ Judged 0x0B (tEntry .resident 1) 0 id ∧ Judged 6 (tEntry .resident 0) 0 id ∧
      Judged 6 (tEntry .parked 1) 0 id ∧ Judged 0x0B (tEntry .suspect 1) 0 id ∧ Judged 2 (tEntry .suspect 0) 0 id ∧
      Judged 7 (tEntry .suspect 1) 0 id ∧ Judged 8 (tEntry .queued 2) 0 id ∧ Judged 2 (tEntry .moving 1) 0 id ∧
      Judged 3 (tEntry .resident 0) (4096 <<< 160 + 8 <<< 192) id ∧ Judged 5 (tEntry .resident 0) 0 id := by
  dsimp only [Judged, Works, Accepted, CanReport, NonePosted, Passes, InSession]; and_intros <;> decide +kernel

/-- SES_OPEN of a model slot, with no adapter and no list set. -/
def tOpen (rest : Nat) (free : FreeList) : Rood :=
  { tWith (tCmd 1 0 rest) (tHold (tEntry .resident 1)) with freeLists := [free] }

/-- SES_OPEN's hypotheses. -/
def Opens (rest : Nat) (free : FreeList) : Prop :=
  let x := tOpen rest free
  let d := tCmd 1 0 rest
  Works (tState x) 0 x ∧ Accepted x 1 0x01 d ∧ CanReport x d tRing1 ∧ Passes (tState x) x d noBufs

theorem witness_OpeningASession :
    let noneAt := 5 <<< 128
    let none2 := 0xFFFF <<< 160 + 0xFF <<< 176
    let free : FreeList := ⟨[], 1, [], []⟩
    let full : FreeList := ⟨[], 10 ^ 9, [], []⟩
    Opens noneAt free ∧ (tOpen noneAt free).placed ((tCmd 1 0 noneAt).f 16 0 8) = none ∧
      Opens none2 full ∧ (tOpen none2 full).placed ((tCmd 1 0 none2).f 16 0 8) = some (tImage, tParams, tPlace) ∧
      (tOpen none2 full).adapterOk tParams ((tCmd 1 0 none2).f 20 0 16) = true ∧
      (tOpen none2 full).listOk tParams.vocab ((tCmd 1 0 none2).f 20 16 8) = true ∧ (tOpen none2 full).popSlot = none ∧
      Opens none2 free ∧ (tOpen none2 free).placed ((tCmd 1 0 none2).f 16 0 8) = some (tImage, tParams, tPlace) ∧
      (tOpen none2 free).adapterOk tParams ((tCmd 1 0 none2).f 20 0 16) = true ∧
      (tOpen none2 free).listOk tParams.vocab ((tCmd 1 0 none2).f 20 16 8) = true ∧
      (tOpen none2 free).popSlot = some (1, { tOpen none2 free with freeLists := [⟨[], 2, [], []⟩] }) := by
  dsimp only [Opens, Works, Accepted, CanReport, NonePosted, Passes]; and_intros <;> decide +kernel

theorem witness_ClosingAndQueryingASession :
    (Judged 8 (tEntry .resident 1) 0 id ∧ Judged 8 (tEntry .parked 1) 0 id ∧ Judged 8 (tEntry .suspect 1) 0 id) ∧
    (let d := { tCmd 8 tHandle 0 with stage := .waiting }
     let x := tWith d (tHold (tEntry .parked 1))
     Works (tState x) 0 x ∧ x.cmd? 1 = some d ∧ d.opcode = 0x08 ∧ CanReport x d tRing1 ∧
       InSession (tState x) x d noBufs 0 (tEntry .parked 1) ∧ d.stage = .waiting) ∧
    Judged 9 (tEntry .moving 1) (128 <<< 160 + 4096 <<< 192) id ∧
    (let e := tEntry .resident 1
     let d := tCmd 9 tHandle (128 <<< 160 + 4096 <<< 192)
     let x := tWith d (tHold e)
     Works (tState x) 0 x ∧ Accepted x 1 0x09 d ∧ CanReport x d tRing1 ∧ InSession (tState x) x d { noBufs with out := .lost 5 } 0 e) := by
  dsimp only [Judged, Works, Accepted, CanReport, NonePosted, Passes, InSession]; and_intros <;> decide +kernel

/-- A NAND that stays as it is. -/
def tCalm : Wear := Wear.none

/-- A command that runs. -/
def tRun (op rest : Nat) : Cmd := { tCmd op tHandle rest with stage := .running }

theorem witness_ParkingAndRevivingASession :
    (let x := tJob 6 (tEntry .resident 1) 0
     Judged 6 (tEntry .resident 1) 0 id ∧ x.mirrors (ctxOf (tState x)) = false) ∧
    (let e := tEntry .parked 1
     Judged 7 e 0 id ∧ (tJob 7 e 0).memoryTest (tCmd 7 tHandle 0).floor e.latClass 0 e.revivalNeeds.1 e.revivalNeeds.2 = true) ∧
    (let e := tEntry .parked 100
     let d := { tCmd 7 tHandle 0 with floor := 2 ^ 25 }
     let x := tWith d (tHold e)
     Works (tState x) 0 x ∧ Accepted x 1 0x07 d ∧ CanReport x d tRing1 ∧ InSession (tState x) x d noBufs 0 e ∧
       x.memoryTest d.floor e.latClass 0 e.revivalNeeds.1 e.revivalNeeds.2 = false) ∧
    (let e := tEntry .moving 1
     let d := tRun 6 0
     let m := Move.plain 0 1 1 .resident
     let x := { tWith d (tHold e) with moves := [m] }
     Works (tState x) 0 x ∧ CanReport x d tRing1 ∧ x.move? 0 = some m ∧ x.entry? 0 = some e ∧ e.state = .moving ∧
       x.cmd? m.cmd = some d ∧ m.cancel = none ∧ m.kind = 1 ∧ m.durable = false ∧ m.mirrored = false ∧
       (x.writeObject (ctxWorn tCalm (tState x)) (.bushel 0) m.bushel).isSome = true) ∧
    (let e := tEntry .moving 1
     let d := tRun 7 0
     let m := Move.plain 0 2 1 .parked
     let x := { tWith d (tHold e) with moves := [m] }
     Works (tState x) 0 x ∧ CanReport x d tRing1 ∧ x.move? 0 = some m ∧ x.entry? 0 = some e ∧ e.state = .moving ∧
       x.cmd? m.cmd = some d ∧ m.cancel = none ∧ m.kind = 2 ∧ (x.readObject (ctxWorn tCalm (tState x)) m.obj).2 = none) := by
  dsimp only [Judged, Works, Accepted, CanReport, NonePosted, Passes, InSession]; and_intros <;> decide +kernel

/-- The bushel of a session of one token: its header alone. -/
def tHead : List Byte := (tEntry .resident 1).bushelHead 1 (zeros 48) (zeros 48)

theorem tHead_length : tHead.length = 512 := by decide +kernel

/-- An extent with that bushel in one page. -/
def tExtent : Extent :=
  let e : Extent := { chan := 0, lun := 0, block := 9, erases := 0, rood := 0, number := 0, pages := [] }
  { e with pages := [sealPage 0 e 0 tHead] }

theorem tExtent_opens (f : Flash) (h : (f.block 0 0 9).lost = false) : f.readExtent 0 tExtent = some tHead := by
  have p : ∀ e : Extent, pageNonce e 0 = pageNonce tExtent 0 → pageAad e 0 = pageAad tExtent 0 →
      openPage 0 tExtent 0 (sealPage 0 e 0 tHead) = some tHead := by
    intro e h1 h2
    simp only [openPage, sealPage, h1, h2]
    exact gcm_round_trip _ _ _ _ (by rw [tHead_length]; decide +kernel)
  have q := p { chan := 0, lun := 0, block := 9, erases := 0, rood := 0, number := 0, pages := [] } rfl rfl
  have o : openExtent 0 tExtent = some tHead := by
    simp only [openExtent, tExtent] at q ⊢
    simp only [List.zipIdx_cons, List.zipIdx_nil, List.mapM_cons, List.mapM_nil, q]
    simp
  have h' : (f.block tExtent.chan tExtent.lun tExtent.block).lost = false := h
  rw [Flash.readExtent, if_neg (by simp [h']), o]

/-- A rood whose flash holds it as object 1. -/
def tStored (x : Rood) : Rood := { x with flash := [{ id := 1, kind := .bushel 0, size := 512, exts := [tExtent] }] }

/-- The reviving session's rood. -/
def tReviving : Rood := tStored { tWith (tRun 7 0) (tHold (tEntry .moving 1)) with
  moves := [{ Move.plain 0 2 1 .parked with obj := 1 }] }

set_option maxRecDepth 200000 in
theorem witness_ParkingAndRevivingASession_read :
    (tReviving.readObject (ctxWorn tCalm (tState tReviving)) 1).2 = some tHead ∧
      bushelOk (bushelParts tHead).1 (bushelParts tHead).2.1 (bushelParts tHead).2.2 = true ∧
      (tReviving.kv.install tReviving.width 0 (tEntry .moving 1).geom (tEntry .moving 1).stored (bushelParts tHead).2.2).isSome = true ∧
      tReviving.move? 0 = some { Move.plain 0 2 1 .parked with obj := 1 } ∧ tReviving.entry? 0 = some (tEntry .moving 1) ∧
      tReviving.cmd? 1 = some (tRun 7 0) ∧ Works (tState tReviving) 0 tReviving ∧ CanReport tReviving (tRun 7 0) tRing1 := by
  refine ⟨?_, ?_⟩
  · have r := tExtent_opens (ctxWorn tCalm (tState tReviving)).dev.flash (by decide +kernel)
    have o : tReviving.object? 1 = some { id := 1, kind := .bushel 0, size := 512, exts := [tExtent] } := rfl
    have k : tReviving.storageKey = 0 := rfl
    simp only [Rood.readObject, o, k]
    simp only [List.mapM_cons, List.mapM_nil, r]
    simp [List.take_of_length_le (Nat.le_of_eq tHead_length)]
  · refine ⟨?_, ?_, rfl, rfl, rfl, ⟨rfl, rfl⟩, ?_⟩
    · decide +kernel
    · decide +kernel
    · have c : CanReport (tWith (tRun 7 0) (tHold (tEntry .moving 1))) (tRun 7 0) tRing1 := by
        dsimp only [CanReport, NonePosted]; and_intros <;> decide +kernel
      exact c

/-- A licence of everything. -/
def tLicence : Licence :=
  { serial := 0, variant := 3, roods := 16, chainPorts := 0xFF, vector := true, retrieval := true, flashTB := 16
    indexes := 4, minSecver := 0, bytes := [] }

/-- The device with a chain port that leads to device 5 and beyond it to device 6. -/
def tChained (up : Bool) (s : State) : State :=
  { s with dev := { s.dev with
    boot := { s.dev.boot with licence := some tLicence, image := List.replicate 8192 0 }
    chain := { ports := [{ up := up, training := false, neighbour := 5, reach := [6] }], pairs := [], nextOp := 1 } } }

theorem witness_MigratingASession :
    let rest := 5 <<< 128 + 3 <<< 136
    let e := tEntry .resident 1
    let x := tJob 0x0A e rest
    let d := tCmd 0x0A tHandle rest
    (∀ up, Works (tChained up (tState x)) 0 x ∧ Accepted x 1 0x0A d ∧ CanReport x d tRing1 ∧
      InSession (tChained up (tState x)) x d noBufs 0 e ∧ e.state = .resident) ∧
      (tChained false (tState x)).dev.reaches (d.f 16 0 5) = false ∧
      (tChained true (tState x)).dev.reaches (d.f 16 0 5) = true ∧ x.fx = [] ∧
    (let e := { tEntry .parked 1 with bushel := 1 }
     let x := tJob 0x0A e rest
     let y := { x with flash := [{ id := 1, kind := .bushel 0, size := 0, exts := [] }] }
     Works (tChained true (tState x)) 0 x ∧ InSession (tChained true (tState x)) x d noBufs 0 e ∧ e.state = .parked ∧
       (x.readObject (ctxWorn tCalm (tChained true (tState x))) e.bushel).2 = none ∧
       InSession (tChained true (tState y)) y d noBufs 0 e ∧
       (y.readObject (ctxWorn tCalm (tChained true (tState y))) e.bushel).2 = some []) := by
  dsimp only
  refine ⟨fun up => ?_, ?_⟩
  · cases up <;> (dsimp only [Works, Accepted, CanReport, NonePosted, Passes, InSession]; and_intros <;> decide +kernel)
  · dsimp only [Works, Accepted, CanReport, NonePosted, Passes, InSession]; and_intros <;> decide +kernel

/-- The frames and lines of a session of this length in slot 0: the pointer of its layer table, and the store. -/
def tGrow (length : Nat) : Nat × Kv :=
  (tRood.kv.grow 1 0 (tEntry .resident length).geom 0 0 (length - 1)).getD (0, tRood.kv)

/-- A RESIDENT session of this length with its frames. -/
def tEntryOf (length : Nat) : Entry := { tEntry .resident length with dirRoot := BitVec.ofNat 32 (tGrow length).1 }

theorem witness_ForkingASession :
    let rest := 2 <<< 128 + 9 <<< 192
    let d := tCmd 5 tHandle rest
    let much := tEntryOf 600
    let shared := fun (x : Rood) => ({ x with
      kv := { (tGrow 600).2 with frames := (tGrow 600).2.frames.map (fun p => (p.1, { p.2 with refs := 65535 })) } } : Rood)
    let full := fun (x : Rood) => ({ x with freeLists := [⟨[], 10 ^ 9, [], []⟩] } : Rood)
    let e := tEntryOf 20
    let one := fun (x : Rood) => ({ x with kv := (tGrow 20).2 } : Rood)
    (Judged 5 much rest shared ∧ (tJob 5 much rest shared).objectsOk d much = true ∧
      (tJob 5 much rest shared).refsFull 0 much = true) ∧
      (Judged 5 (tEntry .resident 1) rest full ∧ (tJob 5 (tEntry .resident 1) rest full).objectsOk d (tEntry .resident 1) = true ∧
        (tJob 5 (tEntry .resident 1) rest full).refsFull 0 (tEntry .resident 1) = false ∧
        (tJob 5 (tEntry .resident 1) rest full).popSlot = none) ∧
      Judged 5 e rest one ∧ (tJob 5 e rest one).objectsOk d e = true ∧ (tJob 5 e rest one).refsFull 0 e = false ∧
      (let x := tJob 5 e rest one
       let y := { x with freeLists := [⟨[], 2, [], []⟩] }
       x.popSlot = some (1, y) ∧ y.forkFits (tCmd 5 tHandle rest).floor e 0 1 (0, 0) = true ∧
         (y.kv.forkAll x.width 1 e.geom e.stored (y.kv.sessionFrames (0 % x.width) e.geom e.dirRoot.toNat e.stored)).isSome =
           true) := by
  dsimp only [Judged, Works, Accepted, CanReport, NonePosted, Passes, InSession]; and_intros <;> decide +kernel

/-- A tokenizer table of 300 tokens. -/
def tTable : TokTable := { loadSeq := 2, loadTime := 0, bytes := leBytes 8 0 ++ leBytes 4 300, digest := [] }
def tWords (x : Rood) : Rood := { x with obj := { x.obj with tables := [tTable] } }

theorem witness_TextIsConvertedAndAppended :
    (let e := tEntry .resident 1
     let some2 := 3 <<< 416
     let some4 := 3 <<< 416 + 16 <<< 160
     let carried := { e with carry := [0xE2] }
     Judged 2 e some2 tWords ∧ (tJob 2 e some2 tWords).objectsOk (tCmd 2 tHandle some2) e = true ∧
       (tCmd 2 tHandle some2).isText = true ∧ (tCmd 2 tHandle some2).inputLen ≠ 0 ∧
       Judged 4 e some4 tWords ∧ (tJob 4 e some4 tWords).objectsOk (tCmd 4 tHandle some4) e = true ∧
       (tCmd 4 tHandle some4).isText = true ∧
       Judged 2 carried 0 tWords ∧ (tJob 2 carried 0 tWords).objectsOk (tCmd 2 tHandle 0) carried = true ∧
       (tCmd 2 tHandle 0).inputLen = 0 ∧ (tCmd 2 tHandle 0).isText = true) ∧
    (let d := { tCmd 2 tHandle (2 <<< 416) with stage := .converting, tokSeq := 2 }
     let e := tEntry .resident 1
     let x := tWith d (tWords (tHold e))
     Works (tState x) 0 x ∧ x.cmd? 1 = some d ∧ d.stage = .converting ∧ x.rebuilding = [] ∧ CanReport x d tRing1 ∧
       x.entry? (handleSlot d.handle) = some e ∧ 0 = handleSlot d.handle ∧ d.opcode = 0x02 ∧ e.state = .resident ∧
       1 ≤ e.length ∧ e.length ≤ e.contextLimit ∧ x.seq? d.id = none ∧ x.stillBound e = true ∧ StepsHeld x ∧
       (convertText (x.tableOf d) true e.carry (padTo d.inputLen [0xE2, 0x82])).tokens = [] ∧
       (convertText (x.tableOf d) true e.carry (padTo d.inputLen [0xE2, 0x82])).carry = [0xE2, 0x82]) := by
  dsimp only [Judged, Works, Accepted, CanReport, NonePosted, Passes, InSession, StepsHeld]; and_intros <;> decide +kernel

/-- A sequence of session 0 that runs in a step of the first crew. -/
def tSeq : Machine.Seq :=
  { seqFor (tCmd 3 tHandle (10 <<< 128)) 0 (tEntry .running 1) { tokens := [], byteTokens := 0, carry := [] } with
    cmd := 9, running := true }

def tStep : Machine.Step :=
  { prefillDuty := false, parts := [{ cmd := 9, slot := 0, first := 0, count := 1, decode := true, inject := false }]
    price := 0, grains := 0, energyBound := false, limits := [0, 0, 0], ending := none }

def tCrew : Crew := { Crew.fresh 0 0 0 with step := some tStep }

/-- SES_CANCEL's hypotheses. -/
def Cancels (x : Rood) (e : Entry) : Prop :=
  Works (tState x) 0 x ∧ Accepted x 1 0x0B (tCmd 0x0B tHandle 0) ∧ CanReport x (tCmd 0x0B tHandle 0) tRing1 ∧
    InSession (tState x) x (tCmd 0x0B tHandle 0) noBufs 0 e

theorem witness_GeneratingAndCancelling :
    (let rest := 10 <<< 128 + 4096 <<< 160 + 8 <<< 192
     let e := tEntry .resident 1
     let x := tJob 3 e rest tWords
     let d := tCmd 3 tHandle rest
     Judged 3 e rest tWords ∧ e.carry = [] ∧ x.objectsOk d e = true ∧ x.seq? d.id = none ∧ StepsHeld x ∧
       (let k : Cmd := { x.takeObjects noBufs d e with conv := some { tokens := [], byteTokens := 0, carry := [] } }
        (x.setCmd k).admission (ctxOf (tState x)) k 0 e { tokens := [], byteTokens := 0, carry := [] } (0, 0) = (0, 1, 2))) ∧
    (let e := tEntry .running 1
     let x := { tJob 0x0B e 0 with seqs := [tSeq], crews := [tCrew] }
     Cancels x e ∧ x.seqOfSlot 0 = some tSeq ∧ tSeq.cancel = none ∧ x.inStep tSeq = true) ∧
    (let e := tEntry .running 1
     let g := { tSeq with cancel := some 5 }
     let x := { tJob 0x0B e 0 with seqs := [g], crews := [tCrew] }
     Cancels x e ∧ x.seqOfSlot 0 = some g ∧ g.cancel.isSome = true) ∧
    (let e := tEntry .moving 1
     let m := Move.plain 0 3 4 .parked
     let y := tJob 0x0B e 0
     let x := { y with cmds := y.cmds ++ [{ tCmd 3 tHandle 0 with id := 4, stage := .reviving }], moves := [m] }
     Cancels x e ∧ x.seqOfSlot 0 = none ∧ x.move? 0 = some m ∧ m.kind = 3 ∧ m.cancel = none ∧ (x.cmd? m.cmd).isSome = true) ∧
    (let e := tEntry .moving 1
     let m := Move.plain 0 1 4 .resident
     let x := { tJob 0x0B e 0 with moves := [m] }
     Cancels x e ∧ x.seqOfSlot 0 = none ∧ x.move? 0 = some m ∧ m.kind ≠ 3) := by
  dsimp only [Judged, Cancels, Works, Accepted, CanReport, NonePosted, Passes, InSession, StepsHeld]
  and_intros <;> decide +kernel

/-- The rood with intake ring 0 enabled. -/
def tIntake : IRing := { IRing.reset with enable := true, sizeLog2 := 6 }
def tTaking (fenced : Bool) : Rood := { tRood with irings := tIntake :: List.replicate 7 IRing.reset, fenced := fenced }

theorem taking_alone (f : Bool) : ∀ m j, m ≠ 0 → (tTaking f).irings[m]? = some j → j.enable = true → j.idle = true := by
  intro m j hm hj he
  match m, hm with
  | m + 1, _ =>
    have : j = IRing.reset := by
      have h := List.mem_of_getElem? (show (List.replicate 7 IRing.reset)[m]? = some j from hj)
      exact (List.mem_replicate.mp h).2
    subst this; exact absurd he (by decide)

theorem witness_IntakeLinesBecomeCommands :
    (∀ f, Works (tState (tTaking f)) 0 (tTaking f) ∧ (tState (tTaking f)).dev.linkFull = true ∧ (tTaking f).cacheOff = false ∧ (tTaking f).intakeOn = true ∧ (tTaking f).quiet = false ∧
      (tTaking f).irings[0]? = some tIntake ∧ tIntake.enable = true ∧ 1 ≤ tIntake.sizeLog2 ∧ tIntake.sizeLog2 ≤ 32 ∧
      (tTaking f).crings[tIntake.cring]? = some tRing ∧ tRing.canReserve = true ∧
      (∀ m j, m ≠ 0 → (tTaking f).irings[m]? = some j → j.enable = true → j.idle = true) ∧
      lookKey ((tIntake.next + 1) % 2 ^ tIntake.sizeLog2) tIntake.lines = none ∧
      ((tIntake.next + 1) % 2 ^ 32 + 2 ^ 32 - tIntake.consWritten) % 2 ^ 32 < 16 ∧
      (∀ d ∈ (tTaking f).cmds, d.id ≠ (tTaking f).nextCmd ∧ d.ring ≠ 0)) ∧
      (let phase := 1 - (tIntake.next >>> tIntake.sizeLog2) % 2
       dField (tRaw 0x3F 0 0) 0 8 1 ≠ phase ∧ dField (tRaw 0x3F 0 256) 0 8 1 = phase ∧
         (bodyFields (dField (tRaw 0x3F 0 256) 0 0 8)).isSome = true ∧ dField (tRaw 0x77 0 256) 0 8 1 = phase ∧
         bodyFields (dField (tRaw 0x77 0 256) 0 0 8) = none ∧ dField (tRaw 8 tHandle 256) 0 8 1 = phase ∧
         (bodyFields (dField (tRaw 8 tHandle 256) 0 0 8)).isSome = true ∧ dField (tRaw 8 tHandle 256) 0 0 8 ≠ 0x3F) ∧
      (tTaking true).fenced = true ∧ (tTaking false).fenced = false ∧ tRing.enable = true ∧ State.reset.dev.linkFull = false ∧
      (NonePosted (tTaking false) ∧ 1 ≠ tIntake.next % 2 ^ tIntake.sizeLog2) ∧
      (let x := tWith (tCmd 0x3F 0 0) tRood
       Works (tState x) 0 x ∧ Accepted x 1 0x3F (tCmd 0x3F 0 0) ∧ CanReport x (tCmd 0x3F 0 0) tRing1) := by
  refine ⟨fun f => ⟨?_, ?_, ?_, ?_, ?_, ?_, ?_, ?_, ?_, ?_, ?_, taking_alone f, ?_, ?_, ?_⟩, ?_⟩
  all_goals try dsimp only [Works, Accepted, CanReport, NonePosted]
  all_goals try cases f
  all_goals (and_intros <;> decide +kernel)

theorem witness_IndexLinesAndSignals :
    let q := { tRing with unsignalled := 3, vector := 5 }
    let x : Rood := { tRood with crings := (List.replicate 8 tRing).set 2 q }
    let e : MsixEntry := ⟨0, 0, true, false⟩
    let y : Rood := { x with regs := { x.regs with msix := x.regs.msix.set 5 { e with masked := false } } }
    Works (tState x) 0 x ∧ NonePosted x ∧ (tState x).dev.linkFull = true ∧ x.cacheOff = false ∧ x.irings[2]? = some IRing.reset ∧ x.quiet = false ∧ x.crings[2]? = some q ∧
      0 < q.unsignalled ∧ x.regs.msix[q.vector]? = some e ∧
      Works (tState y) 0 y ∧ y.crings[2]? = some q ∧ y.regs.msix[q.vector]? = some { e with masked := false } := by
  dsimp only [Works, NonePosted]; and_intros <;> decide +kernel

theorem witness_HeldSignalsAndLostTranslations :
    let e : MsixEntry := ⟨0, 0, true, true⟩
    let d := { tCmd 2 tHandle 0 with stage := .converting }
    let y := tWith d (tHold (tEntry .resident 1))
    let x : Rood := { y with regs := { y.regs with msix := y.regs.msix.set 5 e } }
    State.reset.dev.regs.msix[7]? = some ⟨0, 0, true, false⟩ ∧ Works (tState x) 0 x ∧ x.quiet = false ∧
      x.regs.msix[5]? = some e ∧ e.pend = true ∧ x.cmd? 1 = some d ∧ d.opcode = 0x02 ∧ d.stage = .converting ∧
      CanReport x d tRing1 := by
  dsimp only [Works, CanReport, NonePosted]; and_intros <;> decide +kernel

theorem witness_BulkWindowHoldsItsBytes :
    let x : Rood := { tRood with staging := [(5, 1), (70, 2)], stagingBad := [(0, true), (1, false)] }
    let bytes := List.replicate 128 (3 : Byte)
    Works (tState x) 0 x ∧ (tState x).dev.linkFull = true ∧ State.reset.dev.linkFull = false ∧ bytes ≠ [] ∧
      2 ^ 40 + 0 + bytes.length ≤ 2 ^ 40 + 2 ^ 33 ∧ Memory.wf x.staging ∧ (0 ≤ 64 * 1 ∧ 64 * 1 + 64 ≤ 0 + bytes.length) ∧
      2 ^ 40 + 2 ^ 33 < 2 ^ 40 + (2 ^ 33 - 127) + bytes.length ∧ 2 ^ 40 + (2 ^ 33 - 128) + bytes.length ≤ 2 ^ 40 + 2 ^ 33 ∧
      2 ^ 40 - 1 < 2 ^ 40 := by
  dsimp only [Works]; and_intros <;> decide +kernel

/-- A record that waits for its ring. -/
def tRecord : CRec :=
  { status := 0, yield := 0, implicitRevival := false, nothingDone := false, flagged := false, byteTokens := false
    carried := false, opcode := 8, handle := 5, tag := 9, result := [1, 2, 3, 4], irqNow := false }

theorem witness_RingsAreEnabled :
    let off : Rood := { tRood with crings := List.replicate 8 CRing.reset }
    let h := { CRing.reset with sizeLog2 := 7, held := [tRecord], base := 0x1000 }
    let held : Rood := { tRood with crings := h :: List.replicate 7 CRing.reset }
    let six : W32 := 0x80060300
    let five : W32 := 0x80050300
    let seven : W32 := 0x80070300
    (bitAt six.toNat 31 = true ∧ bitsOf six.toNat 16 4 = 6) ∧ (bitAt five.toNat 31 = true ∧ bitsOf five.toNat 16 4 = 5) ∧
      (bitAt seven.toNat 31 = true ∧ bitsOf seven.toNat 16 4 = 7) ∧
      Works (tState off) 0 off ∧ NonePosted off ∧ off.quiet = false ∧ off.irings[7]? = some IRing.reset ∧
      IRing.reset.enable = false ∧ off.crings[7]? = some CRing.reset ∧ CRing.reset.enable = false ∧ CRing.reset.held = [] ∧
      Works (tState (tTaking false)) 0 (tTaking false) ∧ NonePosted (tTaking false) ∧
      (tTaking false).irings[0]? = some tIntake ∧ tIntake.enable = true ∧ 7 ≠ tIntake.sizeLog2 ∧
      Works (tState held) 0 held ∧ NonePosted held ∧ held.crings[0]? = some h ∧ h.enable = false ∧ h.held = [tRecord] ∧
      tRecord.result.length = 4 ∧ h.sizeLog2 = 7 ∧ held.cacheOff = false := by
  dsimp only [Works, NonePosted]; and_intros <;> decide +kernel

theorem witness_WritesThatRoodsJudge :
    let off : Rood := { tRood with crings := List.replicate 8 CRing.reset }
    let restoring : Rood := { tRood with ckp := { tRood.ckp with queue := [3] } }
    Works (tState off) 0 off ∧ off.ringsActive = false ∧ Works (tState tRood) 0 tRood ∧ tRood.ringsActive = true ∧
      bitsOf (0x10 : W64).toNat 4 2 ≤ 1 ∧ 2 ≤ bitsOf (0x20 : W64).toNat 4 2 ∧ (1 : W64) ≠ 0 ∧ tRood.ckpBusy = false ∧
      tRood.ckpPending = false ∧ Works (tState restoring) 0 restoring ∧ restoring.ckpBusy = true ∧
      (let x := tWith (tCmd 0x30 0 0) tRood
       Works (tState x) 0 x ∧ x.ckpPending = true) := by
  dsimp only [Works]; and_intros <;> decide +kernel

theorem witness_RegistersTakeWhatTheirMapsGive :
    let small := { tChained true (tState tRood) with dev := { (tChained true (tState tRood)).dev with
      boot := { (tState tRood).dev.boot with licence := some { tLicence with variant := 1 } } } }
    Works (tChained true (tState tRood)) 0 tRood ∧ (tChained true (tState tRood)).dev.variant ≠ 1 ∧
      Works small 0 tRood ∧ small.dev.variant = 1 := by
  dsimp only [Works]; and_intros <;> decide +kernel

theorem witness_WindowAccessesAreJudged :
    let s := tState tRood
    Works s 0 tRood ∧ inMsix 32 0x08 = false ∧ accessCause roodRegAt 0x08 4 = 1 ∧ s.dev.windowOpen = true ∧
      inMsix 8 0x10 = false ∧ accessCause devRegAt 0x10 4 = 1 ∧ State.reset.dev.roodsLive = false ∧
      (0x80000000 : W64).getLsbD 31 = true ∧ s.dev.boot.phase = .ready := by
  dsimp only [Works]; and_intros <;> decide +kernel

/-- A command of this opcode that names no session, and its range of the bulk window. -/
def tPlain (op rest : Nat) : Cmd := tCmd op 0 rest
def tBulk (off len : Nat) : Nat := off <<< 192 + len <<< 256

/-- The hypotheses of a command of the load queue. -/
def Loading (op : Nat) (x : Rood) (d : Cmd) (s : State) : Prop :=
  Works s 0 x ∧ Accepted x 1 op d ∧ CanReport x d tRing1

theorem witness_LoadsWaitTheirTurn :
    (let d := tPlain 0x12 (tBulk 0 4)
     Loading 0x12 (tWith d tRood) d (tState (tWith d tRood)) ∧ d.loadCheck ≠ 0 ∧ (tWith d tRood).unjudgedBefore loadOps d = false) ∧
    (let d := tPlain 0x13 (tBulk 0 64)
     let y := tWith d tRood
     let x : Rood := { y with cmds := { tPlain 0x11 0 with id := 0 } :: y.cmds }
     Works (tState x) 0 x ∧ Accepted x 1 0x13 d ∧ x.unjudgedBefore loadOps d = true ∧
       ∃ k ∈ x.cmds, k.id < d.id ∧ k.stage = .accepted ∧ 0x10 ≤ k.opcode ∧ k.opcode ≤ 0x13) ∧
    (∀ op, op ∈ [0x11, 0x12, 0x13] →
      let d := tPlain op (if op = 0x11 then 0 else tBulk 0 64)
      let y := tWith d tRood
      let x : Rood := { y with obj := { y.obj with queue := [77] } }
      Loading op x d (tState x) ∧ d.loadCheck = 0 ∧ x.unjudgedBefore loadOps d = false ∧ x.partCheck d = 0 ∧ x.obj.queue ≠ []) := by
  dsimp only [Loading, Works, Accepted, CanReport, NonePosted]
  refine ⟨by and_intros <;> decide +kernel, by and_intros <;> decide +kernel, fun op h => ?_⟩
  simp only [List.mem_cons, List.not_mem_nil, or_false] at h
  rcases h with rfl | rfl | rfl <;> (and_intros <;> decide +kernel)

/-- The clear part of an adapter image of two empty tensors, and its envelope under the device exchange key 1. -/
def tSection (typ off len : Nat) : List Byte := leBytes 8 typ ++ leBytes 8 off ++ leBytes 8 len ++ zeros 8
def tHeader : List Byte :=
  leBytes 4 0x4D494C50 ++ leBytes 2 1 ++ leBytes 1 2 ++ leBytes 1 3 ++ zeros 12 ++ leBytes 4 1 ++ leBytes 8 32 ++ zeros 96 ++
    tSection 1 224 256 ++ tSection 5 0 16 ++ tSection 4 16 16

/-- The rood with a whole file in the bulk window, its MDL_LOAD into adapter slot 5, and the load that is open. -/
def tImgCmd (len : Nat) : Cmd := tPlain 0x10 (1 <<< 16 + 5 <<< 128 + tBulk 0 len)
def tImgRood (file : List Byte) (l : Option OpenLoad) : Rood :=
  let y := tWith (tImgCmd file.length) tRood
  { y with staging := memRun 0 file, obj := { y.obj with openLoad := l } }
def tKeyed (s : State) : State := { s with dev := { s.dev with boot := { s.dev.boot with dxk := 1 } } }

/-- The envelope of the key 0x1234, from a sender whose exchange key is 1 too. -/
def tEnvelope : List Byte :=
  leBytes 4 0x564E454B ++ leBytes 2 1 ++ zeros 2 ++
    beBytes 145 0x8c4f262412b7f9ed867606705a130de5212fd048fbaf8c3842f4a240f4b45ba0c90f82194ccdda3ed89c96b0afe1d51d04aa87ca22be8b05378eb1c71ef320ad746e1d3b628ba79b9859f741e082542a385502f25dbf55296c3a545e3872760ab73617de4a96262c6f5d9e98bf9292dc29f8f41dbd289a147ce9da3113b5f0b8c00a60b1ce1d7e819d7a431d7c90ea0e5f ++
    zeros 7 ++ zeros 12 ++ zeros 4 ++
    beBytes 48 0x957dc27e9cc24ebbea5b701826a3a6e805468b167f46235ee5af2d3209d179f09a105944e4b6b6a69da92c8f52a4bd56 ++ zeros 32
def tFile : List Byte := tHeader ++ tEnvelope

def tOpenLoad (slot : Nat) (file : List Byte) : OpenLoad :=
  { kind := 1, slot := slot, file := file, chunks := 0, body := [], cek := 0x1234, image := none, frames := [] }

/-- The hypotheses of a part of an image. -/
def Parted (file : List Byte) (l : Option OpenLoad) (s : State) : Prop :=
  Loading 0x10 (tImgRood file l) (tImgCmd file.length) s ∧ (tImgCmd file.length).loadCheck = 0 ∧
    (tImgRood file l).unjudgedBefore loadOps (tImgCmd file.length) = false ∧ (tImgRood file l).obj.queue = []

/-- A part in its turn behind another load command: allowed by check 2, and not. -/
theorem witness_LoadsWaitTheirTurn_parts :
    let d := tImgCmd tFile.length
    let y := tImgRood tFile none
    let x : Rood := { y with obj := { y.obj with queue := [77] } }
    let bad := tImgCmd 48
    let z := tImgRood (zeros 48) none
    Loading 0x10 x d (tState x) ∧ d.loadCheck = 0 ∧ x.unjudgedBefore loadOps d = false ∧ x.partCheck d = 0 ∧ x.obj.queue ≠ [] ∧
      Loading 0x10 z bad (tState z) ∧ bad.loadCheck = 0 ∧ z.unjudgedBefore loadOps bad = false ∧ z.partCheck bad ≠ 0 := by
  dsimp only [Loading, Works, Accepted, CanReport, NonePosted]; and_intros <;> decide +kernel

theorem witness_PartsOfAnImageAreCollected :
    (let x := tImgRood tFile none
     let d := tImgCmd tFile.length
     Parted tFile none (tState x) ∧ Parted tFile none (tKeyed (tState x)) ∧ x.obj.openLoad = none ∧ CleanBulk x d tFile ∧
       imgCutOk tFile tFile.length = true ∧ imgHeaderOk d.kind tFile = true ∧ wholeChunks tFile = 0 ∧
       tFile.length < imgFileLen tFile) ∧
    (let bad := zeros 48
     Parted bad none (tState (tImgRood bad none)) ∧ CleanBulk (tImgRood bad none) (tImgCmd 48) bad ∧
       (imgCutOk bad bad.length = false ∨ imgHeaderOk (tImgCmd 48).kind bad = false)) ∧
    (let rest := zeros 48
     let d := tImgCmd 48
     let l := tOpenLoad 5 tFile
     let x := tImgRood rest (some l)
     let y : Rood := { x with stagingBad := [(0, true)] }
     Parted rest (some l) (tState x) ∧ x.obj.openLoad = some l ∧ l.file.length < imgFileLen l.file ∧
       imgCutOk l.file (l.file.length + d.bulkLen) = true ∧
       imgCutOk tHeader (tHeader.length + d.bulkLen) = false ∧ tHeader.length < imgFileLen tHeader ∧
       Parted rest (some (tOpenLoad 5 tHeader)) (tState (tImgRood rest (some (tOpenLoad 5 tHeader)))) ∧ l.kind = d.kind ∧ l.slot = d.objSlot ∧ d.bulkLen ≠ 0 ∧
       CleanBulk x d rest ∧ imgCutOk (l.file ++ rest) (l.file ++ rest).length = true ∧ l.chunks < wholeChunks (l.file ++ rest) ∧
       Loading 0x10 y d (tState y) ∧ (∃ k ∈ touchedLines d.bulkOff d.bulkLen, lookKey k y.stagingBad = some true) ∧
       Parted rest (some (tOpenLoad 6 tFile)) (tState (tImgRood rest (some (tOpenLoad 6 tFile)))) ∧
       (tOpenLoad 6 tFile).slot ≠ d.objSlot) := by
  dsimp only [Parted, Loading, Works, Accepted, CanReport, NonePosted, CleanBulk]; and_intros <;> decide +kernel

theorem witness_envelope_refused : imgUnwrap (tState tRood).dev.boot.dxk tFile = none := by decide +kernel

theorem witness_envelope_opens : imgUnwrap 1 tFile = some 0x1234 := by decide +kernel
theorem witness_chunk_refused : imgChunk 0x1234 (tFile ++ zeros 48) 0 = none := by decide +kernel

/-- A collected load of model slot `slot`, and MDL_LOAD of slot 2 whose load is closed. -/
def tClosed (slot : Nat) : OpenLoad :=
  { kind := 0, slot := slot, file := [1, 2], chunks := 1, body := [], cek := 3, image := some (.placement tParams tPlace), frames := [] }
def tReady (op rest : Nat) : Cmd := { tPlain op rest with stage := .ready }
def tClosing (busy : Bool) : Rood :=
  let y := tWith (tReady 0x10 (2 <<< 128)) (tHold (tEntry .resident 1))
  { y with obj := { y.obj with openLoad := some (tClosed 2), queue := [1] }, crews := if busy then [tCrew] else [] }
def tLeaving : Rood :=
  let y := tWith (tReady 0x11 0) (tHold (tEntry .resident 1))
  { y with crews := [Crew.fresh 0 0 0], obj := { y.obj with queue := [1] } }

theorem witness_ImagesComeAndGoBetweenSteps :
    (∀ busy, let x := tClosing busy
      let d := tReady 0x10 (2 <<< 128)
      Works (tState x) 0 x ∧ x.readyLoad 0x10 = some d ∧ CanReport x d tRing1 ∧ x.obj.openLoad = some (tClosed 2) ∧
        (tClosed 2).image = some (.placement tParams tPlace) ∧ x.betweenSteps = !busy ∧ x.seqs = [] ∧ StepsHeld x ∧
        x.heldImage (tClosed 2).kind (tClosed 2).slot = none) ∧
    (let x := tLeaving
     let d := tReady 0x11 0
     Works (tState x) 0 x ∧ x.readyLoad 0x11 = some d ∧ CanReport x d tRing1 ∧ x.heldImage d.kind d.objSlot = some tImage ∧
       x.betweenSteps = true ∧ x.seqs = [] ∧ StepsHeld x ∧ d.kind = 0) := by
  dsimp only [Works, CanReport, NonePosted, StepsHeld]
  refine ⟨fun busy => ?_, ?_⟩
  · cases busy <;> (and_intros <;> decide +kernel)
  · and_intros <;> decide +kernel

/-- The hypotheses of MDL_UNLOAD. -/
def Unloads (x : Rood) (d : Cmd) : Prop :=
  Works (tState x) 0 x ∧ x.cmd? 1 = some d ∧ d.opcode = 0x11 ∧ CanReport x d tRing1 ∧ d.loadCheck = 0 ∧
    x.unjudgedBefore loadOps d = false

theorem witness_UnloadsBegin :
    let held := tPlain 0x11 0
    let other := tPlain 0x11 (2 <<< 128)
    let base := fun d => tWith d (tHold (tEntry .resident 1))
    (let y := base other
     let x : Rood := { y with obj := { y.obj with openLoad := some (tClosed 2) } }
     Unloads x other ∧ other.stage = .accepted ∧ x.obj.queue = [] ∧ x.obj.openLoad = some (tClosed 2) ∧
       (tClosed 2).kind = other.kind ∧ (tClosed 2).slot = other.objSlot) ∧
    (Unloads (base other) other ∧ (base other).obj.openLoad = none ∧ (base other).heldImage other.kind other.objSlot = none) ∧
    (Unloads (base held) held ∧ (base held).obj.openLoad = none ∧ ((base held).heldImage held.kind held.objSlot).isSome = true) ∧
    (let d := { held with stage := .waiting }
     let x : Rood := { base d with obj := { (base d).obj with queue := [1] } }
     Unloads x d ∧ d.stage = .waiting ∧ x.obj.queue.head? = some 1 ∧ x.obj.openLoad = none ∧
       (x.heldImage d.kind d.objSlot).isSome = true) := by
  dsimp only [Unloads, Works, CanReport, NonePosted]; and_intros <;> decide +kernel

/-- A tokenizer table of the 256 single bytes, and a list set of one forced sequence. -/
def tTokFile : List Byte :=
  leBytes 4 0x4E4B4F54 ++ leBytes 2 1 ++ leBytes 2 0 ++ leBytes 4 256 ++ leBytes 4 0 ++ leBytes 4 0 ++ leBytes 4 256 ++ zeros 40 ++
    (List.range 256).flatMap (fun i => leBytes 4 0 ++ leBytes 4 i ++ leBytes 4 257 ++ zeros 4) ++
    (List.range 256).map (BitVec.ofNat 8)
def tListFile : List Byte :=
  leBytes 4 0x5453494C ++ leBytes 2 1 ++ zeros 2 ++ leBytes 4 1 ++ leBytes 4 0 ++ leBytes 4 2 ++ zeros 12 ++ leBytes 4 0 ++ leBytes 4 2 ++
    leBytes 4 5 ++ leBytes 4 6

/-- TOK_LOAD or LST_SET of a file that stands at the start of the bulk window. -/
def tLoading (op rest : Nat) (file : List Byte) : Rood :=
  { tWith (tPlain op (rest + tBulk 0 file.length)) (tHold (tEntry .resident 1)) with staging := memRun 0 file }

/-- The hypotheses of TOK_LOAD or LST_SET, but for the bytes of the file. -/
def FileLoads (op rest : Nat) (file : List Byte) (f : Rood → Rood) : Prop :=
  let d := tPlain op (rest + tBulk 0 file.length)
  let x := f (tLoading op rest file)
  Works (tState x) 0 x ∧ Accepted x 1 op d ∧ CanReport x d tRing1 ∧ d.loadCheck = 0 ∧ x.unjudgedBefore loadOps d = false ∧ x.obj.queue = [] ∧ d.bulkLen = file.length ∧
    d.bulkOff = 0 ∧ x.stagingBad = []

/-- The bytes of the file are what the command reads. -/
theorem staged_clean (x : Rood) (d : Cmd) (file : List Byte) (hs : x.staging = memRun 0 file) (hn : d.bulkLen = file.length)
    (ho : d.bulkOff = 0) (hb : x.stagingBad = []) (hz : file ≠ []) : CleanBulk x d file := by
  refine ⟨?_, ?_, ?_⟩
  · rw [hn]; exact fun h => hz (List.eq_nil_of_length_eq_zero h)
  · rw [hs, hn, ho, memReadN_memRun]
  · intro k _; rw [hb]; rfl

/-- The older of the two tables is in use by a command. -/
def tTwoTables (x : Rood) : Rood :=
  { x with
    obj := { x.obj with tables := [{ tTable with loadSeq := 5 }, { tTable with loadSeq := 4 }] }
    cmds := x.cmds ++ [{ tCmd 2 tHandle 0 with id := 9, tokSeq := 4 }] }

theorem witness_TablesAndListSetsAreLoaded :
    (FileLoads 0x12 0 (zeros 80) id ∧ tokTableOk (zeros 80) 80 = false) ∧
    (FileLoads 0x12 0 tTokFile id ∧ (tLoading 0x12 0 tTokFile).obj.tables = []) ∧
    (FileLoads 0x12 0 tTokFile tTwoTables ∧ 2 ≤ (tTwoTables (tLoading 0x12 0 tTokFile)).releaseTables.obj.tables.length) ∧
    (FileLoads 0x13 (7 <<< 128) (zeros 48) id ∧ lstOk (zeros 48) 48 = false) ∧
    (FileLoads 0x13 (7 <<< 128) tListFile id ∧ lstOk tListFile tListFile.length = true ∧
      (tHold (tEntry .resident 1)).obj.lists = [] ∧ (tHold (tEntry .resident 1)).roomFor (automatonNeeds tListFile) = true) ∧
    ({ tHold (tEntry .resident 1) with holds := [{ cmd := 8, slot := 0, frames := 10 ^ 9, lines := 0 }] } : Rood).roomFor
      (automatonNeeds tListFile) = false := by
  dsimp only [FileLoads, Works, Accepted, CanReport, NonePosted]; and_intros <;> decide +kernel

theorem witness_table_passes : tokTableOk tTokFile 4416 = true := by decide +kernel

theorem witness_ReplacedObjectsAreReleased :
    let y := tTwoTables (tHold (tEntry .resident 1))
    let set : ListSet :=
      { num := 1, loadSeq := 6, loadTime := 0, banned := [], forced := [], pool := [], bytes := [], digest := [], frames := [] }
    let x : Rood := { y with
      obj := { y.obj with lists := [set, { set with loadSeq := 3 }], tables := y.obj.tables ++ [{ tTable with loadSeq := 2 }] }
      kv := { y.kv with zeroing := [5, 6] } }
    Works (tState x) 0 x ∧ x.waitingLoad 0x12 = none ∧ x.waitingLoad 0x13 = none ∧ x.ckp.run = none ∧
      x.newest { set with loadSeq := 3 } = false ∧
      (let d := { tCmd 0x12 0 0 with stage := .running, object := [1] }
       let z := tWith d (tHold (tEntry .resident 1))
       let w : Rood := { z with obj := { z.obj with queue := [1], tables := [tTable, { tTable with loadSeq := 1 }] } }
       Works (tState w) 0 w ∧ w.waitingLoad 0x12 = some d ∧ CanReport w d tRing1 ∧ w.releaseTables.obj.tables.length < 2) := by
  dsimp only [Works, CanReport, NonePosted]; and_intros <;> decide +kernel

/-- The device under a licence of everything, whose rood is `x`. -/
def tFull (x : Rood) : State := tChained true (tState x)

/-- The hypotheses of a vector command. -/
def VecJob (op : Nat) (x : Rood) (d : Cmd) : Prop :=
  Works (tFull x) 0 x ∧ VecTurn (tFull x) x op 1 true d ∧ CanReport x d tRing1

/-- An empty index of number 1, with 10 places for vectors of 32 elements. -/
def tRoot : RootImage := { commit := 4, entry := none, live := 0, tombs := 0, free := 10, serial := 3 }
def tIndex : VecIndex :=
  { num := 1, elemFmt := 0, metric := 2, dim := 32, degree := 8, capacity := 10, rootA := tRoot
    rootB := { tRoot with serial := 2 }, nodes := [], nodeFrames := [3], tableFrames := [4], rootFrame := 5, damaged := false
    damagedFrames := [] }
def tIndexed (d : Cmd) (v : VecIndex) : Rood := { tWith d tRood with vecs := [v] }

/-- VEC_CREATE of index 1. -/
def tCreate : Cmd := tPlain 0x20 (1 <<< 128 + 2 <<< 136 + 32 <<< 160 + 8 <<< 176 + 10 <<< 192)

/-- A sweep or a mutation of command 1. -/
def tVecOp (sweep : Bool) : VecOp :=
  { cmd := 1, index := 1, sweep := sweep, commit := 5, count := 1, answers := [], nans := [], rounds := 0, scores := 0, op := 7
    waiting := [], joined := [], lists := [], damaged := false }

theorem witness_VectorCommandsTakeTheirTurn :
    (let x := tWith tCreate tRood
     Works (tState x) 0 x ∧ Accepted x 1 0x20 tCreate ∧ CanReport x tCreate tRing1 ∧
       x.vecCheck (ctxOf (tState x)) tCreate (vecBuf 0x20 true) ≠ 0) ∧
    (let d := tPlain 0x23 (1 <<< 128)
     let x := tIndexed d { tIndex with damaged := true }
     Works (tState x) 0 x ∧ Accepted x 1 0x23 d ∧ CanReport x d tRing1 ∧
       x.vecCheck (ctxOf (tState x)) d (vecBuf 0x23 true) ≠ 0) ∧
    (let y := tWith tCreate tRood
     let x : Rood := { y with cmds := y.cmds ++ [{ tPlain 0x25 (1 <<< 128) with id := 0 }] }
     Works (tFull x) 0 x ∧ Accepted x 1 0x20 tCreate ∧ CanReport x tCreate tRing1 ∧
       x.vecCheck (ctxOf (tFull x)) tCreate (vecBuf 0x20 true) = 0 ∧ x.vecWaits tCreate = true) := by
  dsimp only [Works, Accepted, CanReport, NonePosted]; and_intros <;> decide +kernel

theorem witness_IndexesAreCreatedAndDropped :
    let drop := tPlain 0x25 (1 <<< 128)
    let n := vecFrameCounts (tCreate.f 16 4 4) (tCreate.f 20 0 16) (tCreate.f 20 16 16) (tCreate.f 24 0 32)
    (VecJob 0x20 (tIndexed tCreate tIndex) tCreate ∧ ((tIndexed tCreate tIndex).vec? tCreate.index).isSome = true) ∧
    (let x : Rood := { tWith tCreate tRood with holds := [{ cmd := 8, slot := 0, frames := 10 ^ 9, lines := 0 }] }
     VecJob 0x20 x tCreate ∧ x.vec? tCreate.index = none ∧ x.framesOpen < n.1 + n.2 + 1) ∧
    (let x := tWith tCreate tRood
     VecJob 0x20 x tCreate ∧ x.vec? tCreate.index = none ∧ n.1 + n.2 + 1 ≤ x.framesOpen) ∧
    (let x := tIndexed drop tIndex
     VecJob 0x25 x drop ∧ drop.opcode = 0x25 ∧ x.vec? drop.index = some tIndex) ∧
    (let d := { drop with stage := .waiting }
     let x : Rood := { tIndexed d tIndex with vecQueue := [1] }
     Works (tFull x) 0 x ∧ x.cmd? 1 = some d ∧ CanReport x d tRing1 ∧ x.vec? d.index = some tIndex ∧
       x.vecNext d.index = some d) ∧
    (let d := { tPlain 0x23 (1 <<< 128) with stage := .running }
     let o := { tVecOp true with waiting := [3] }
     let x : Rood := { tIndexed d tIndex with vecOps := [o] }
     Works (tFull x) 0 x ∧ x.cmd? 1 = some d ∧ CanReport x d tRing1 ∧ x.vecOp? 1 = some o ∧ o.cmd = 1 ∧ o.sweep = true ∧
       o.waiting ≠ [] ∧
       (tIndexed drop tIndex).ckp.run = none) := by
  dsimp only [VecJob, VecTurn, Works, Accepted, CanReport, NonePosted]; and_intros <;> decide +kernel

/-- A vector item (Table 12.5): given in the batch, or the embedding of session 0. -/
def tItem (id : Nat) (session : Bool) : List Byte :=
  leBytes 4 id ++ leBytes 4 (if session then 1 else 0) ++ leBytes 8 77 ++
    (if session then leBytes 4 tHandle ++ zeros 124 else (List.range 32).flatMap (fun _ => leBytes 4 0x3F800000))

/-- A batch in the bulk window. -/
def tBatch (d : Cmd) (v : VecIndex) (batch : List Byte) : Rood :=
  let y := tHold (tEntry .resident 1)
  { tWith d { y with obj := { y.obj with models :=
      [(0, { tImage with kind := .placement { tParams with hidden := 32 } tPlace })] } } with vecs := [v], staging := memRun 0 batch }

theorem witness_MutationsBeginAndEnd :
    (let batch := tItem 5 false ++ tItem 9 true
     let items := chunks (itemBytes tIndex.dim) batch
     let d := tPlain 0x21 (1 <<< 128 + 2 <<< 160 + tBulk 0 288)
     let x := tBatch d tIndex batch
     VecJob 0x21 x d ∧ x.vec? d.index = some tIndex ∧ tIndex.damaged = false ∧ CleanBulk x d batch ∧
       d.bulkLen = d.items * itemBytes tIndex.dim ∧ 0 < d.items ∧ d.items ≤ tIndex.freeSlots ∧
       items.all (itemOk tIndex.dim) = true ∧ d.failed = 0 ∧ x.itemsCheck tIndex.dim items = 0 ∧
       (chunks (itemBytes tIndex.dim) (tItem 5 false)).all (fun b => u32At 4 b == 0) = true) ∧
    (let ids := leBytes 4 5 ++ leBytes 4 9
     let d := tPlain 0x22 (1 <<< 128 + 2 <<< 160 + tBulk 0 8)
     let x := tBatch d tIndex ids
     VecJob 0x22 x d ∧ x.vec? d.index = some tIndex ∧ CleanBulk x d ids ∧ 0 < d.items) ∧
    (let d := tPlain 0x22 (1 <<< 128)
     VecJob 0x22 (tIndexed d tIndex) d ∧ d.items = 0 ∧ d.bulkLen = 0 ∧ (tIndexed d tIndex).vec? d.index = some tIndex) ∧
    (let d := tPlain 0x24 (1 <<< 128)
     VecJob 0x24 (tIndexed d tIndex) d ∧ (tIndexed d tIndex).vecOps = [] ∧ (tIndexed d tIndex).vec? d.index = some tIndex) ∧
    (let d := { tPlain 0x22 (1 <<< 128) with stage := .running }
     let x : Rood := { tIndexed d tIndex with vecOps := [tVecOp false] }
     Works (tFull x) 0 x ∧ x.mutation tIndex.num = some (tVecOp false) ∧ x.vec? tIndex.num = some tIndex ∧
       x.cmd? (tVecOp false).cmd = some d ∧ d.opcode ≠ 0x23 ∧ CanReport x d tRing1 ∧ (tVecOp false).damaged = false) := by
  dsimp only [VecJob, VecTurn, Works, Accepted, CanReport, NonePosted, CleanBulk]; and_intros <;> decide +kernel

theorem witness_QueriesSweepTheirIndex :
    let ask := fun n => tPlain 0x23
      (1 <<< 128 + 2 <<< 160 + 4 <<< 176 + n <<< 192 + 1000 <<< 224 + 0 <<< 256 + 0x1000 <<< 320 + (128 * n) <<< 384)
    (VecJob 0x23 (tWith (ask 1) tRood) (ask 1) ∧ (tWith (ask 1) tRood).dropAhead (ask 1) = false ∧
      (tWith (ask 1) tRood).vec? (ask 1).index = none) ∧
    (let x := tIndexed (ask 0) tIndex
     VecJob 0x23 x (ask 0) ∧ x.dropAhead (ask 0) = false ∧ x.vec? (ask 0).index = some tIndex ∧
       (ask 0).queryLen = (ask 0).queries * (4 * tIndex.dim) ∧ (ask 0).sharded = false ∧ (ask 0).queries = 0) ∧
    (let x := tIndexed (ask 1) tIndex
     VecJob 0x23 x (ask 1) ∧ x.dropAhead (ask 1) = false ∧ x.vec? (ask 1).index = some tIndex ∧
       (ask 1).queryLen = (ask 1).queries * (4 * tIndex.dim) ∧ (ask 1).sharded = false ∧ (ask 1).queries ≠ 0 ∧
       (ask 1).queryLen ≠ 0 ∧ ∀ k ∈ touchedLines (ask 1).queryOff (ask 1).queryLen, lookKey k x.stagingBad = none) ∧
    (let d := { ask 1 with stage := .running }
     let x : Rood := { tIndexed d tIndex with vecOps := [tVecOp true] }
     Works (tFull x) 0 x ∧ x.vecOp? 1 = some (tVecOp true) ∧ x.cmd? 1 = some d ∧ d.opcode = 0x23 ∧ d.index = (tVecOp true).index ∧ CanReport x d tRing1 ∧
       (tVecOp true).sweep = true ∧ (tVecOp true).waiting = [] ∧ x.vec? (tVecOp true).index = some tIndex ∧ d.sharded = false) := by
  dsimp only [VecJob, VecTurn, Works, Accepted, CanReport, NonePosted]; and_intros <;> decide +kernel

/-- A checkpoint of nothing, running for command 1. -/
def tRef (target : Nat) : CkpRef :=
  { seq := 3, baseSeq := 3, deltas := 0, target := target, peers := 0, numbers := [], nextNumber := 0
    image := { baseGen := 1, gens := [], sessions := [], frames := [], vectors := [], tally := Tally.fresh 0 0 0 0 } }
def tShardHdr (shape : List Byte) (payload : List Byte) : ShardHdr :=
  { index := 0, k := 1, parity := 0, lean := false, base := true, lineage := 5, seq := 7, prevSeq := 0, baseSeq := 7
    cutTime := 0, payloadLen := payload.length, shardLen := payload.length, shape := shape, payloadCrc := crc32c payload
    shardCrc := crc32c payload, srcDevice := 0, srcRood := 0 }
def tShard (durable : Bool) : ShardRun :=
  { peer := 5, rood := 3, op := 4, accepted := false, durable := durable, hdr := tShardHdr [] [1], data := [1] }
def tCkp (target : Nat) (suspect : Bool) (shards : List ShardRun) : CkpRun :=
  { cmd := 1, lean := false, base := true, prevSeq := 0, cutTime := 0, next := tRef target, shards := shards, suspect := suspect }
def tCopying (u : CkpRun) : Rood :=
  let y := tWith { tPlain 0x30 0 with stage := .running } (tHold (tEntry .resident 1))
  { y with ckp := { y.ckp with run := some u } }

/-- The hypotheses of a running checkpoint. -/
def Copies (u : CkpRun) : Prop :=
  Works (tState (tCopying u)) 0 (tCopying u) ∧ (tCopying u).ckp.run = some u ∧
    (tCopying u).cmd? u.cmd = some { tPlain 0x30 0 with stage := .running } ∧
    CanReport (tCopying u) { tPlain 0x30 0 with stage := .running } tRing1

/-- The hypotheses of CKP_TAKE to the rood's own flash. -/
def Takes (x : Rood) (d : Cmd) : Prop :=
  Works (tState x) 0 x ∧ x.cmd? 1 = some d ∧ d.opcode = 0x30 ∧ CanReport x d tRing1 ∧ d.ckpTarget = 0 ∧ x.ckpRuns = false

theorem witness_CheckpointsAreCutAndComplete :
    (let d := tPlain 0x30 (8 <<< 128)
     let bad := tPlain 0x30 (16 <<< 128)
     let base := fun d => tWith d (tHold (tEntry .resident 1))
     let short : Rood := { base d with holds := [{ cmd := 8, slot := 0, frames := 10 ^ 9, lines := 0 }] }
     let behind : Rood := { base d with ckp := { (base d).ckp with queue := [77] } }
     (Takes (base bad) bad ∧ bad.stage = .accepted ∧ (base bad).unjudgedBefore [0x30, 0x31] bad = false ∧ bad.ckpCheck (ctxOf (tState (base bad))) ≠ 0) ∧
       (Takes (base d) d ∧ d.stage = .accepted ∧ (base d).unjudgedBefore [0x30, 0x31] d = false ∧ d.ckpCheck (ctxOf (tState (base d))) = 0 ∧ (base d).ckp.queue = [] ∧
         (base d).roomFor (base d).copyNeeds = true ∧ (base d).ckp.ref = none) ∧
       (Takes short d ∧ short.unjudgedBefore [0x30, 0x31] d = false ∧ short.roomFor short.copyNeeds = false) ∧
       (Takes behind d ∧ behind.unjudgedBefore [0x30, 0x31] d = false ∧ behind.ckp.queue ≠ []) ∧
       (let x : Rood := { base d with cmds := { tPlain 0x31 0 with id := 0 } :: (base d).cmds }
        Takes x d ∧ x.unjudgedBefore [0x30, 0x31] d = true) ∧
       (let w := { d with stage := .waiting }
        let x : Rood := { base w with ckp := { (base w).ckp with queue := [1, 77] } }
        Takes x w ∧ w.stage = .waiting ∧ x.ckp.queue = 1 :: [77] ∧ x.roomFor x.copyNeeds = true)) ∧
    (Copies (tCkp 1 false [tShard true]) ∧ (∀ k ∈ (tCkp 1 false [tShard true]).shards, k.durable = true)) ∧
    (Copies (tCkp 1 false [tShard false]) ∧ (∃ k ∈ (tCkp 1 false [tShard false]).shards, k.durable = false)) ∧
    (Copies (tCkp 0 false []) ∧ (tCkp 0 false []).next.target = 0) ∧ Copies (tCkp 0 true []) := by
  dsimp only [Takes, Copies, Works, CanReport, NonePosted]; and_intros <;> decide +kernel

/-- A rood whose ROOD_CKP_CTL holds `v`. -/
def tTimed (v : W64) : Rood :=
  let y := tHold (tEntry .resident 1)
  { y with regs := { y.regs with ckpCtl := v } }

theorem witness_TriggersCutCheckpoints :
    let v : W64 := 0x000003E800000083
    let busy : Rood := { tTimed v with ckp := { (tTimed v).ckp with queue := [1] } }
    (Works (tState (tTimed 0)) 0 (tTimed 0) ∧ NonePosted (tTimed 0) ∧ bitsOf (tTimed 0).regs.ckpCtl.toNat 7 1 = 0) ∧
      (Works (tState busy) 0 busy ∧ NonePosted busy ∧ bitsOf busy.regs.ckpCtl.toNat 7 1 = 1 ∧
        bitsOf busy.regs.ckpCtl.toNat 32 32 ≠ 0 ∧ busy.fenced = false ∧ busy.ckpBusy = true) ∧
      (let x := tWith (tCmd 0x31 0 0) (tTimed v)
       Works (tState x) 0 x ∧ NonePosted x ∧ x.fenced = false ∧ x.ckpPending = true) ∧
      Works (tState (tTimed v)) 0 (tTimed v) ∧ NonePosted (tTimed v) ∧ bitsOf (tTimed v).regs.ckpCtl.toNat 4 2 = 0 ∧
      (tTimed v).fenced = false ∧ (tTimed v).ckpBusy = false ∧ (tTimed v).ckpPending = false ∧ (tState (tTimed v)).dev.integ.recovery = false ∧
      (tTimed v).crings[bitsOf (tTimed v).regs.ckpCtl.toNat 0 3]? = some tRing ∧ tRing.canReserve = true ∧
      (tTimed v).roomFor (tTimed v).copyNeeds = true := by
  dsimp only [Works, NonePosted]; and_intros <;> decide +kernel

/-- A restore for command 1 in hand of one whole shard, and the rood that it is for. -/
def tPayload : List Byte := gensRecord 0 [3, 4] ++ ckpRecord 6 []
def tRestore : RestoreRun :=
  let h := tShardHdr (tRood.shape (ctxOf (tFull tRood))) tPayload
  { cmd := 1, source := 1, waiting := [], lists := [], more := [], items := [{ hdr := h, peer := 5 }], chosen := 7, tried := [], fetching := []
    parts := [{ seq := 7, hdr := h, data := tPayload }], bad := [], resFrames := 3, resLines := [(0, 4)], resExts := 0 }
def tRestoring (busy : Bool) : Rood :=
  let y := tWith { tPlain 0x31 (1 <<< 128) with stage := .ready } (tHold (tEntry .suspect 3))
  { y with ckp := { y.ckp with restore := some tRestore, nextSeq := 9 }, crews := if busy then [tCrew] else [] }
def tSeqs : List Nat := (tRestore.chain (tRood.shape (ctxOf (tFull tRood))) tRestore.chosen).getD []
def tRebuilt : Rebuilt :=
  match tRestore.rebuild tSeqs with
  | .ok b => b
  | .error _ => Rebuilt.empty

theorem witness_restore_rebuilds : tRestore.rebuild tSeqs = .ok tRebuilt ∧ tRebuilt.gens = [3, 4] := by
  have h : (match tRestore.rebuild tSeqs with | .ok b => decide (b.gens = [3, 4]) | .error _ => false) = true := by
    decide +kernel
  unfold tRebuilt
  cases hr : tRestore.rebuild tSeqs with
  | ok b => rw [hr] at h; exact ⟨rfl, of_decide_eq_true h⟩
  | error e => rw [hr] at h; simp at h

theorem witness_RestoresReplaceTheRood :
    (let own := tPlain 0x31 0
     let chain := tPlain 0x31 (1 <<< 128)
     let base := fun d st => tWith d (tHold (tEntry st 1))
     let peers := fun (x : Rood) => ({ x with regs := { x.regs with
       ckpPeers := BitVec.ofNat 64 (0x1E0 + 3 <<< 32 + 2 <<< 40) } } : Rood)
     let asks := fun (x : Rood) (d : Cmd) => Works (tFull x) 0 x ∧ CanReport x d tRing1 ∧ Accepted x 1 0x31 d ∧ x.unjudgedBefore [0x30, 0x31] d = false ∧
       d.ckpCheck (ctxOf (tFull x)) = 0 ∧ x.ckpBusy = false
     (asks (base own .queued) own ∧ (base own .queued).restoreBlocked = true) ∧
       (asks (base own .resident) own ∧ (base own .resident).restoreBlocked = false ∧ own.ckpTarget = 0 ∧
         (base own .resident).flash = [] ∧ (base own .resident).vecQueue = [] ∧ (base own .resident).ckp.restore = none ∧
         StepsHeld (base own .resident)) ∧
       (asks (peers (base chain .resident)) chain ∧ (peers (base chain .resident)).restoreBlocked = false ∧
         chain.ckpTarget = 1 ∧ (peers (base chain .resident)).peersOk (ctxOf (tFull (peers (base chain .resident)))) = true) ∧
       (let u := { tRestore with waiting := [(5, 1)], items := [], parts := [] }
        let d := { chain with stage := .running }
        let x : Rood := { base d .resident with ckp := { (base d .resident).ckp with restore := some u } }
        Works (tFull x) 0 x ∧ CanReport x d tRing1 ∧ x.cmd? 1 = some d ∧ u.cmd = 1 ∧ u.waiting ≠ [] ∧ u.items = [] ∧
          u.fetching = [] ∧ x.vecQueue = [] ∧ StepsHeld x)) ∧
    (∀ busy, let x := tRestoring busy
      let d := { tPlain 0x31 (1 <<< 128) with stage := .ready }
      Works (tFull x) 0 x ∧ x.ckp.restore = some tRestore ∧ x.cmd? tRestore.cmd = some d ∧ CanReport x d tRing1 ∧
        x.shape (ctxOf (tFull x)) = tRood.shape (ctxOf (tFull tRood)) ∧ x.betweenSteps = !busy ∧ d.stage = .ready ∧
        x.arrivals = [] ∧ x.vecQueue = [] ∧ StepsHeld x ∧
        ((x.setRestore { tRestore with resFrames := 0, resLines := [], resExts := 0 }).rebuildBeside (ctxOf (tFull x))
          (tRestore.leanChain tSeqs) tRebuilt).isSome = true) := by
  dsimp only [Works, Accepted, CanReport, NonePosted, StepsHeld]
  refine ⟨by and_intros <;> decide +kernel, fun busy => ?_⟩
  refine ⟨⟨?_, ?_⟩, ?_, ?_, ⟨?_, ?_, ?_, ?_⟩, ?_, ?_, ?_, ?_, ?_, ?_, ?_⟩
  all_goals (cases busy <;> decide +kernel)

/-- The hypotheses of CNT_SNAPSHOT. -/
def Snaps (out : OutBuf) (ok : Bool) (d : Cmd) : Prop :=
  let x := tWith d (tHold (tEntry .resident 40))
  Works (tState x) 0 x ∧ Accepted x 1 0x38 d ∧ CanReport x d tRing1 ∧ x.unjudgedBefore [0x38] d = false ∧
    (x.snapCheck d out = 0 ↔ ok = true)

theorem witness_SnapshotsAreTaken :
    let d := tPlain 0x38 (0x4000 <<< 192 + 5824 <<< 160)
    let x : Rood := { tWith d (tHold (tEntry .resident 40)) with cmds := [{ tPlain 0x38 0 with id := 0 }, d] }
    Snaps .ok true d ∧ Snaps .fault false d ∧ Snaps (.lost 700) true d ∧
      Works (tState x) 0 x ∧ Accepted x 1 0x38 d ∧ CanReport x d tRing1 ∧ x.unjudgedBefore [0x38] d = true := by
  dsimp only [Snaps, Works, Accepted, CanReport, NonePosted]; and_intros <;> decide +kernel

/-- A session that runs, with the frames of the position of its step. -/
def tStepper : Entry := { tEntryOf 2 with length := 1, state := .running }

/-- The rood with a step of session 0 in its crew. -/
def tStepping : Rood :=
  { tHold tStepper with
    kv := (tGrow 2).2
    seqs := [tSeq], crews := [tCrew], cmds := [{ tCmd 3 tHandle (10 <<< 128) with id := 9, stage := .running, tokSeq := 2 }] }
def tStepEnv : StepEnv :=
  { time := 1000, sNum := 1, sDen := 1, hits := [], chosen := [], visible := [], streamFault := [], assay := [] }
def tPart : Part := { cmd := 9, slot := 0, first := 0, count := 1, decode := true, inject := false }

theorem witness_StepsEndAtTheirBoundary :
    let x := tStepping
    Works (tState x) 0 x ∧ StepsWait x ∧ NonePosted x ∧ tStepEnv.hits = [] ∧ x.walkHits 0 0 = [] ∧ tStepEnv.assay = [] ∧ x.crew? 0 0 = some tCrew ∧
      tCrew.step = some tStep ∧ x.placed 0 = some (tImage, tParams, tPlace) ∧ (tState x).dev.sgDown x.firstSg = false ∧
      x.obj.emptying = [] ∧ bitsOf x.regs.ckpCtl.toNat 7 1 = 0 ∧
      (∀ pt ∈ tStep.parts, ∀ q ∈ x.seqs, q.cmd = pt.cmd → q.slot = pt.slot) ∧ tStep.parts = [tPart] ∧
      x.entry? tPart.slot = some tStepper := by
  dsimp only [Works, StepsWait, StepsHeld, NonePosted]; and_intros <;> decide +kernel

/-- A detected failure of a unit. -/
def tHit (u : UnitId) : Hit := { cls := 8, unit := u, layer := 0, obj := none, corrected := false, env := StartEnv.none }

theorem witness_EventsTouchTheStepsTheyMeet :
    let x := tStepping
    let s := tState x
    Works s 0 x ∧ (tHit (.tile 0)).unit = .tile 0 ∧ s.dev.roodOf (0 / 4) = some x ∧ s.dev.unitOff (.tile 0) = false ∧ s.dev.integ.resets = [] ∧ StepsWait x ∧
      NonePosted x ∧ s.dev.tileAgain s.clock.time 0 = false ∧ x.crews = [tCrew] ∧ tCrew.step = some tStep ∧
      tStep.parts = [tPart] ∧ tPart.slot = 0 ∧ tPart.cmd = tSeq.cmd ∧ x.usesTile 0 tCrew = true ∧ x.moves = [] ∧
      x.ckp.run = none ∧ x.entry? 0 = some tStepper ∧ x.seqs = [tSeq] ∧ tSeq.slot = 0 := by
  dsimp only [Works, StepsWait, StepsHeld, NonePosted]; and_intros <;> decide +kernel

/-- The device with a rood at rest and these resets in progress. -/
def tUnder (resets : List ResetLevel) : State :=
  let s := tFull tRood
  { s with dev := { s.dev with
    integ := { s.dev.integ with resets := resets }
    chain := { s.dev.chain with ports := List.replicate 8 { up := true, training := false, neighbour := 5, reach := [] } } } }

theorem under_rests (l : List ResetLevel) : AtRest (tUnder l) :=
  ⟨rfl, rfl, List.nodup_singleton (0 : Nat), by
    intro x hx
    have : x = tRood := List.mem_singleton.mp hx
    subst this
    dsimp only [Rood.Rests, StepsHeld, NonePosted]; and_intros <;> decide +kernel⟩

theorem witness_IntegrityEventsResetTheirUnits :
    let s := tUnder []
    let again := { s with dev := { s.dev with integ := { s.dev.integ with tileResetAt := [(3, 500)] } } }
    s.dev.integ.resets = [] ∧ (tHit (.tile 103)).unit = .tile 103 ∧ s.dev.tileAgain s.clock.time 103 = false ∧
      (again.dev.tileAgain again.clock.time 3 = true ∧ again.dev.integ.standIns = [] ∧
        again.dev.boot.defects.spareOf 3 = none ∧ again.dev.boot.defects.freeSpare (3 / 24) = some 0) ∧
      (s.dev.unitOff (.tile 103) = false ∧ s.dev.unitOff (.tile 3) = false ∧ s.dev.sgOff 0 = false) ∧
      (tHit (.slice 0 6)).unit = .slice 0 6 ∧ (tHit (.bridge 3)).unit = .bridge 3 ∧ s.dev.boot.defects.bridgeFailed = 0 ∧
      Works s 0 tRood := by
  dsimp only [Works]; and_intros <;> decide +kernel

theorem witness_ResetsEnd :
    let s := tUnder [.tile 3, .sg 0 (.slice 0 1), .rood 0, .quad 3 (.bridge 0)]
    let x : Rood := { tRood with rebuilding := [.staging 0 5] }
    ResetLevel.tile 3 ∈ s.dev.integ.resets ∧ s.dev.integ.standIns = [] ∧ s.dev.boot.defects.spareOf 3 = none ∧
      s.dev.boot.defects.freeSpare (3 / 24) = some 0 ∧ s.dev.sgCause 0 = some (.slice 0 1) ∧ sgOf (.slice 0 1) = 0 ∧
      s.dev.integ.sgFailed.getLsbD 0 = false ∧ s.dev.markedNear s.clock.time 0 = false ∧ s.dev.roodOf 0 = some tRood ∧
      s.dev.rood? tRood.num = some tRood ∧ ResetLevel.rood 0 ∈ s.dev.integ.resets ∧ s.dev.quadDown 3 = true ∧ 7 / 2 = 3 ∧
      (s.dev.chain.ports[7]?).isSome = true ∧ Works (tState x) (objRood (.staging 0 5)) x := by
  dsimp only [Works]; and_intros <;> decide +kernel

theorem witness_AssaysRunAndEnd :
    let s := tUnder []
    let assaying := { s with dev := { s.dev with integ := { s.dev.integ with
      assaying := [.bank 0 63, .tile 0], standIns := [(96, 0)] } } }
    let full := { s with dev := { s.dev with boot := { s.dev.boot with defects := { s.dev.boot.defects with
      spares := [5, 5, 5, 5, 5, 5, 5, 5] } } } }
    State.reset.dev.boot.phase ≠ .ready ∧ s.dev.boot.phase = .ready ∧ unitGap (.bank 0 63) = true ∧ s.dev.unitOff (.bank 0 63) = false ∧
      s.dev.unitOff (.tile 0) = false ∧ assaying.dev.sgOff 0 = false ∧
      UnitId.bank 0 63 ∉ s.dev.integ.assaying ∧
      (s.dev.rotation (0 / 24) = 0 ∧ s.dev.tileInStep 0 = false ∧ s.dev.tileDown 0 = false ∧ s.dev.sgDown (0 / 4) = false ∧
        (s.dev.idleSpare (0 / 24)).isSome = true) ∧
      s.dev.lateExempt (.bank 0 63) = false ∧ full.dev.boot.phase = .ready ∧ full.dev.boot.defects.freeSpare (95 / 24) = none ∧
      AtRest assaying ∧ UnitId.bank 0 63 ∈ assaying.dev.integ.assaying ∧ UnitId.tile 0 ∈ assaying.dev.integ.assaying ∧
      assaying.dev.integ.resets = [] := by
  refine ⟨?_, ?_, ?_, ?_, ?_, ?_, ?_, ?_, ?_, ?_, ?_, ⟨rfl, rfl, List.nodup_singleton (0 : Nat), (under_rests []).2.2.2⟩, ?_, ?_, ?_⟩ <;> decide +kernel

/-- A flash of one LUN with two blocks that have been erased, and a bushel in the second. -/
def tFlash : Flash :=
  { limit := 16000000000000
    luns := [{ chan := 1, ce := 0, lun := 0, blocks := 8, joined := true, rebuilding := false },
      { chan := 1, ce := 0, lun := 1, blocks := 8, joined := false, rebuilding := true }]
    blocks := [{ chan := 1, lun := 0, block := 2, erases := 3, reads := 9, bad := false, lost := false, worn := true },
      { chan := 1, lun := 0, block := 0, erases := 4, reads := 9, bad := false, lost := false, worn := false }]
    freed := [(1, 0, 2), (1, 0, 4)] }
def tKept : Rood :=
  { tHold (tEntry .parked 3) with
    flash := [{ id := 1, kind := .bushel 0, size := 5, exts := [{ chan := 1, lun := 0, block := 1, erases := 4, rood := 0, number := 0, pages := [] }] }] }
def tFlashed : State := { tFull tKept with dev := { (tFull tKept).dev with flash := tFlash } }

/-- The device with a boot record that names training set A. -/
def tRecord0 : BootRecord :=
  { inProgress := false, lastReady := true, devSerial := 5, writeCount := 7, serialLimit := 9, imageDigest := zeros 48, lastCode := 0
    trainSet := 1, trainCrc := 4, hist := [], defects := DefectMap.none }
def tTrained : State :=
  let s := tFull tRood
  { s with dev := { s.dev with boot := { s.dev.boot with
    inForce := some tRecord0, inA := true, trainedInFull := true, fuses := { s.dev.boot.fuses with devSerial := 5 } } } }

/-- The extent of that bushel. -/
def tKeptExt : Extent := { chan := 1, lun := 0, block := 1, erases := 4, rood := 0, number := 0, pages := [] }

/-- The NAND whose block 1 of LUN 0 of channel 1 reads weakly. -/
def tWeak : Wear := { Wear.none with weak := [(1, 0, 1)] }

theorem witness_FlashAndTrainingSetsAreLookedAfter :
    (let f := tFlashed.dev.flash.wear tWeak
     let d : Dev := { tFlashed.dev with flash := f }
     let p := programBlock (fun u => f.freeBlock u 1) f.tries (tKept.usedPlaces (ctxWorn tWeak tFlashed))
     d.relocationDue (1, 0, 1) (tCalm.weak.contains (1, 0, 1)) = false ∧
       d.relocationDue (1, 0, 1) (tWeak.weak.contains (1, 0, 1)) = true ∧ d.extentOwner (1, 0, 2) = none ∧
       d.extentOwner (1, 0, 1) = some tKept ∧ tFlashed.dev.rood? tKept.num = some tKept ∧ tKept.extentAt (1, 0, 1) = some tKeptExt ∧
       (∀ o ∈ tKept.flash, ∀ k ∈ o.exts, k.place = (1, 0, 1) → k = tKeptExt) ∧
       p.map (fun n => (n.1.chan, n.1.lun, n.1.block)) = some (1, 0, 3) ∧
       p.map (fun n => n.2.map (fun k => k.block)) = some [] ∧
       (f.readExtent tKept.storageKey tKeptExt).isSome = true ∧
       d.erasable (1, 0, 1) = false ∧ d.erasable (1, 0, 2) = true ∧ d.erasable (1, 0, 4) = true ∧
       (f.block 1 0 2).worn = true ∧ (f.block 1 0 4).worn = false) ∧
    (let w : Wear := { lost := [(1, 0, 1)], worn := [(1, 0, 3)], weak := [(1, 0, 1)] }
     let f := tFlashed.dev.flash.wear w
     let p := programBlock (fun u => f.freeBlock u 1) f.tries (tKept.usedPlaces (ctxWorn w tFlashed))
     f.readExtent tKept.storageKey tKeptExt = none ∧ p.map (fun n => n.2.map (fun k => k.block)) = some [3]) ∧
    State.reset.dev.ready = false ∧ tTrained.dev.ready = true ∧ tTrained.dev.boot.trainedInFull = true ∧
    tTrained.dev.boot.inForce = some tRecord0 := by
  and_intros <;> decide +kernel

/-- The device before its composition, and the same device composed with rood 0 under release. -/
def tFree : State :=
  let s := tFull tRood
  { s with dev := { s.dev with comp := { s.dev.comp with composed := false, nextSerial := 5, serialLimit := 6 } } }
def tScrub (sgs : List Nat) : State :=
  let s := tFull { tRood with scrubbing := sgs }
  { s with dev := { s.dev with
    comp := { s.dev.comp with releasing := true }, side := { s.dev.side with running := some (tReq 2 []) } } }

/-- A control request in its turn. -/
def Turns (s : State) (code : Nat) (payload : List Byte) : Prop := HasTurn s (tMsg code payload) code (tReq code payload)

theorem witness_CompositionsBeginAndEnd :
    tFree.dev.boot.phase = .ready ∧ Turns tFree 1 (zeros 32) ∧ tFree.dev.integ.recovery = false ∧
      tFree.dev.comp.nextSerial < tFree.dev.comp.serialLimit ∧ tFree.dev.comp.composed = false ∧
      Turns (tFull tRood) 1 (zeros 32) ∧ (tFull tRood).dev.comp.nextSerial < (tFull tRood).dev.comp.serialLimit ∧
      (tFull tRood).dev.comp.composed = true ∧ Turns tFree 2 [] ∧ Turns (tFull tRood) 2 [] ∧
      (tScrub [0]).dev.boot.phase = .ready ∧ (∃ x ∈ (tScrub [0]).dev.roods, 0 ∈ x.scrubbing) ∧
      (tScrub [0]).dev.comp.releasing = true ∧ (tScrub [0]).dev.side.running = some (tReq 2 []) ∧
      (∀ x ∈ (tScrub [0]).dev.roods, ∀ h ∈ x.scrubbing, h = 0) ∧
      (∃ x ∈ (tScrub [0, 23]).dev.roods, ∃ h ∈ x.scrubbing, h ≠ 0) ∧ (tScrub [0]).dev.sgOff 0 = false ∧
      (tScrub [0]).dev.meets (.stack 0) ≠ .wholeUp ∧ tFree.dev.comp.releasing = false ∧
      (tFull tRood).dev.comp.releasing = false ∧
      (Asks (tScrub [0]) (tMsg 1 (zeros 32)) 0x01 (tReq 1 (zeros 32)) ∧ (tReq 1 (zeros 32)).formatOk = true) := by
  dsimp only [Turns, HasTurn, Asks, SideFree]; and_intros <;> decide +kernel

/-- The device in the recovery state, with stack groups 5 and 9 marked. -/
def tRecovery (pending : Option (List LayoutEntry)) : State :=
  let s := tFull tRood
  { s with dev := { s.dev with
    integ := { s.dev.integ with recovery := true, sgFailed := 0x220, sgFailedAt := [(9, 5), (5, 4)] }, pendingLayout := pending } }

/-- The payload of SET_LAYOUT. -/
def tLayout (l : List LayoutEntry) : List Byte :=
  leBytes 1 l.length ++ zeros 7 ++
    l.flatMap (fun e => leBytes 1 e.firstSg ++ leBytes 1 e.width ++ leBytes 1 e.flashShare ++ zeros 13)

theorem witness_ControlRequestsTakeTheirTurn :
    let cap := leBytes 2 500 ++ zeros 2
    let low := leBytes 2 299 ++ zeros 2
    let s := tFull tRood
    let running := { s with dev := { s.dev with side := { s.dev.side with running := some (tReq 3 []) } } }
    let waiting := { s with dev := { s.dev with side := { s.dev.side with queue := [tReq 6 cap, tReq 2 []] } } }
    let good : List LayoutEntry := [⟨1, 1, 0⟩, ⟨4, 1, 0⟩]
    (Asks running (tMsg 2 []) 2 (tReq 2 []) ∧ running.dev.side.running.isSome = true) ∧
      (waiting.dev.side.running = none ∧ waiting.dev.side.queue = tReq 6 cap :: [tReq 2 []] ∧ (tReq 6 cap).formatOk = true) ∧
      Turns s 6 cap ∧ (Asks s (tMsg 6 low) 6 (tReq 6 low) ∧ SideFree s ∧ (tReq 6 low).capOutside = true) ∧
      Turns s 3 [] ∧ s.dev.integ.recovery = false ∧ Turns (tRecovery none) 3 [] ∧ Turns (tUnder [.rood 0]) 3 [] ∧
      (tUnder [.rood 0]).dev.integ.resets ≠ [] ∧ s.dev.integ.resets = [] ∧ s.dev.entering = false ∧
      running.dev.side.running = some (tReq 3 []) ∧ (tReq 3 []).code = 0x03 ∧
      (Turns (tRecovery none) 5 (tLayout good) ∧ (tRecovery none).dev.sbLayoutCheck (tReq 5 (tLayout good)) = 0) ∧
      (Turns (tRecovery none) 5 (tLayout [⟨9, 1, 0⟩, ⟨9, 1, 0⟩]) ∧
        (tRecovery none).dev.sbLayoutCheck (tReq 5 (tLayout [⟨9, 1, 0⟩, ⟨9, 1, 0⟩])) ≠ 0) ∧
      (Turns (tRecovery none) 8 [5, 0, 0, 0] ∧
        (tRecovery none).dev.integ.sgFailed.getLsbD (u8At 0 (tReq 8 [5, 0, 0, 0]).payload) = true) ∧
      Turns s 4 [] ∧ Turns (tRecovery none) 4 [] ∧ (tRecovery none).dev.pendingLayout = none ∧
      (let l : List LayoutEntry := [⟨4, 1, 0⟩, ⟨0, 1, 0⟩]
       Turns (tRecovery (some l)) 4 [] ∧ (l.map (fun e => e.firstSg)).Nodup ∧ l[1]? = some ⟨0, 1, 0⟩ ∧
         (tRecovery (some l)).dev.keptRood ⟨0, 1, 0⟩ = some tRood) := by
  dsimp only [Turns, HasTurn, Asks, SideFree]; and_intros <;> decide +kernel

theorem witness_rests_with_a_request : ∀ x ∈ (tFull tRood).dev.roods, x.Rests := (under_rests []).2.2.2

theorem witness_MisformedRequestsHaveNoEffect :
    let bad : List Byte := [0x7E, 0x1D, 0x7A, 2, 0, 0x33, 0, 1]
    let q : SbReq := { code := 2, inst := 0x33, msg := bad }
    let long := tReq 7 [1, 0, 0, 0]
    let s := tFull tRood
    (u16At 6 q.msg ≠ 0 ∧ Asks s bad 2 q ∧ SideFree s) ∧ Asks s (tMsg 7 [1, 0, 0, 0]) 7 long ∧ long.code = 0x07 ∧
      long.payload.getD 0 0 ≠ 0 ∧ (tReq 1 (zeros 31)).payload.length ≠ 32 := by
  dsimp only [Asks, SideFree]; and_intros <;> decide +kernel

theorem witness_SidebandRequestsAreAnswered :
    let s := tFull tRood
    let snapping := { s with dev := { s.dev with snap := { DevSnap.reset with busy := true, waiting := [tReq 0x11 []] } } }
    s.dev.side.usable = true ∧ sbRequest [1, 2] = none ∧ sbRequest (tMsg 0x77 []) = some (tReq 0x77 []) ∧
      Asks s (tMsg 0x10 []) 0x10 (tReq 0x10 []) ∧ (tReq 0x10 []).formatOk = true ∧ Asks s (tMsg 0x11 []) 0x11 (tReq 0x11 []) ∧
      (tReq 0x11 []).formatOk = true ∧ s.dev.ready = true ∧ s.dev.snap.busy = false ∧ snapping.dev.snap.busy = true ∧
      Asks s (tMsg 0x12 (zeros 8)) 0x12 (tReq 0x12 (zeros 8)) ∧ (tReq 0x12 (zeros 8)).formatOk = true ∧
      Asks s (tMsg 0x13 (zeros 8)) 0x13 (tReq 0x13 (zeros 8)) ∧ s.dev.comp.composed = true ∧ s.dev.comp.releasing = false ∧
      tFree.dev.comp.composed = false ∧ Asks tFree (tMsg 0x12 (zeros 8)) 0x12 (tReq 0x12 (zeros 8)) ∧
      Asks s (tMsg 0x13 [1]) 0x13 (tReq 0x13 [1]) ∧ (tReq 0x13 [1]).formatOk = false := by
  dsimp only [Asks]; and_intros <;> decide +kernel

theorem witness_DxkCertificateIsReturned : SpdmOpen (tFull tRood) .side := by
  dsimp only [SpdmOpen]; and_intros <;> decide +kernel

theorem certChain_starts (d : Dev) : 0 < d.certChain.length := by
  simp [Dev.certChain, leBytes]

theorem witness_SpdmRequestsAreAnswered :
    let early := { State.reset with
      pins := { vaux := true, pwrgd := false, warmRst := false }, dev := { State.reset.dev with side := { usable := true, running := none, queue := [] } } }
    let training := { tFull tRood with dev := { (tFull tRood).dev with
      chain := { (tFull tRood).dev.chain with ports := [{ up := false, training := true, neighbour := 0, reach := [] }] } } }
    early.dev.spdmReaches .side = true ∧ early.dev.spdmOpen .side = false ∧ SpdmOpen (tFull tRood) .side ∧
      0 < (tFull tRood).dev.certChain.length ∧ SpdmOpen training (.port 0) ∧ SpdmOpen (tFull tRood) (.vf 0) ∧
      (endpointAsks .side 0 = true ∧ endpointAsks .side 8 = true ∧ endpointAsks .side 0x1F = true ∧
        endpointAsks (.vf 0) 0x10 = true ∧ (tFull tRood).dev.rood? (0x10 - 0x10) = some tRood ∧ endpointAsks (.vf 0) 0x11 = false ∧
        endpointAsks (.port 0) 1 = false ∧ onPort (.port 0) = true ∧ onPort .side = false) ∧ 0x83 ∉ [0x81, 0x82, 0xE0, 0xE1, 0xE3, 0x84, 0xFE] ∧
      (tFull tRood).dev.rood? (0x1F - 0x10) = none ∧ training.dev.inLinkUp 0 = true ∧ training.dev.inLinkUp 1 = false := by
  dsimp only [SpdmOpen]
  refine ⟨by decide +kernel, by decide +kernel, witness_DxkCertificateIsReturned, certChain_starts _, ?_⟩
  and_intros <;> decide +kernel

/-- The pair of device 5 in the middle of its epochs, and its next message. -/
def tPair : Pair :=
  { peer := 5, txOpen := true, txEpoch := 9, txNext := 7, unacked := [], rxOpen := true, rxEpoch := 3, rxSeq := 10, held := [], origins := []
    owesAck := true }
def tBare (typ op seq ack : Nat) (payload : List Byte) : ChainMsg :=
  { typ := typ, src := 5, dst := 0, srcRood := 2, dstRood := 0, seq := seq, ack := ack, hops := 0, epoch := 3, op := op
    payload := payload, crc := 0 }
def tHear (typ op : Nat) (payload : List Byte) : ChainMsg :=
  let m := tBare typ op 11 0 payload
  { m with crc := msgCrc m }
def tPaired (ports : List Port) (pair : Pair) (x : Rood) : State :=
  let s := tFull x
  { s with dev := { s.dev with chain := { ports := ports, pairs := [pair], nextOp := 1 } } }
def tUp : Port := { up := true, training := false, neighbour := 5, reach := [6] }
def tDown : Port := { up := false, training := false, neighbour := 0, reach := [] }
def tTrain : Port := { tDown with training := true }
/-- The device whose chain table names it. -/
def tNamed (s : State) : State :=
  { s with dev := { s.dev with boot := { s.dev.boot with image := zeros 4096 ++ keyDigest (ecPublic 0) ++ zeros 4048 } } }
def tNeighbour : Neighbour :=
  { trained := true, chainOk := true, challengeOk := true, number := 7, dikDigest := zeros 48, secVersion := 3, reach := [8, 9] }
/-- A message of this device that waits for its acknowledgement. -/
def tSent (seq : Nat) : ChainMsg := { tBare 0x23 seq seq 0 [1, 2, 3] with src := 0, dst := 5 }

theorem tNamed_usable :
    let s := tNamed (tPaired [tUp, tTrain, tDown] tPair tRood)
    s.dev.portUsable 1 = true ∧ s.dev.portUsable 2 = true ∧ s.dev.ready = true ∧ s.dev.chain.ports[1]? = some tTrain ∧
      s.dev.chain.ports[2]? = some tDown ∧ s.dev.neighbourCheck { tNeighbour with number := 0 } ≠ 0 ∧ s.dev.neighbourCheck tNeighbour = 0 ∧
      ∀ i ∈ tNeighbour.number :: tNeighbour.reach, (s.dev.pair i).txOpen = false := by
  and_intros <;> decide +kernel

theorem witness_ChainLinksCarryMessages :
    let s := tPaired [tUp, tTrain, tDown] tPair tRood
    let cut := tPaired [tDown] { tPair with unacked := [tSent 4] } tRood
    let one := tPaired [tUp] { tPair with unacked := [tSent 4] } tRood
    let three := tPaired [tUp] { tPair with owesAck := false, unacked := [tSent 4, tSent 5, tSent 6] } tRood
    let closed := tPaired [tUp] { tPair with rxOpen := false } tRood
    let far := { tHear 1 2 [1] with dst := 6, hops := 30 }
    let hello := { tBare 0x3E 0 1 0 [] with epoch := 55, crc := msgCrc { tBare 0x3E 0 1 0 [] with epoch := 55 } }
    let ack := { tBare 0x3F 0 0 5 [] with crc := msgCrc (tBare 0x3F 0 0 5 []) }
    (s.dev.ready = true ∧ s.dev.chain.ports[2]? = some tDown ∧ tDown.up = false ∧ s.dev.chain.ports[0]? = some tUp ∧
        tUp.up = true ∧ s.dev.chain.ports[1]? = some tTrain ∧ tTrain.training = true) ∧
      (tNeighbour.trained = true ∧ s.dev.neighbourCheck tNeighbour = 0 ∧ s.dev.neighbourCheck { tNeighbour with number := 0 } ≠ 0) ∧
      (far.dst ≠ s.dev.number ∧ far.hops ≠ 31 ∧ s.dev.route far.dst = some 0 ∧ cut.dev.route 9 = none) ∧
      ((tHear 0x30 2 [1]).typ ∉ knownTypes ∧ NextInTurn s 0x30 (tHear 0x30 2 [1])) ∧
      (hello.typ = 0x3E ∧ closed.dev.hears hello = true ∧ msgCrcOk hello = true ∧ hello.seq = 1 ∧
        (closed.dev.pair hello.src).rxOpen = false ∧ (closed.dev.pair hello.src).unacked = []) ∧
      (ack.typ = 0x3F ∧ three.dev.hears ack = true ∧ msgCrcOk ack = true ∧ (three.dev.pair ack.src).rxEpoch = ack.epoch ∧
        (three.dev.pair ack.src).unacked = [tSent 4] ++ tSent 5 :: [tSent 6] ∧ (tSent 5).seq = ack.ack ∧
        ∀ k ∈ [tSent 4], k.seq ≠ ack.ack) ∧
      (one.dev.ready = true ∧ one.dev.route 5 = some 0 ∧ (one.dev.pair 5).owesAck = true ∧ (one.dev.pair 5).unacked = [tSent 4] ∧
        (tSent 4).dst = 5 ∧ (three.dev.pair 5).owesAck = false ∧ (s.dev.pair 5).unacked = [] ∧
        s.dev.roods.any (fun x => x.waitsOn 5) = false ∧ 1 + 1 < 4096) ∧
      (one.dev.pair 5).txOpen = true ∧ (one.dev.pair 5).unacked ≠ [] ∧ one.dev.reaches 5 = true ∧
      (cut.dev.pair 5).txOpen = true ∧ (cut.dev.pair 5).unacked ≠ [] ∧ cut.dev.reaches 5 = false := by
  dsimp only [NextInTurn]; and_intros <;> decide +kernel

theorem witness_pairs_rest (ports : List Port) (p : Pair) : AtRest (tPaired ports p tRood) :=
  ⟨rfl, rfl, List.nodup_singleton (0 : Nat), (under_rests []).2.2.2⟩

/-- The device whose pair of device 5 is in mid-epoch, and whose rood is `x`. -/
def tHearing (x : Rood) : State := tPaired [tUp] tPair x

/-- The rood with an image and a session that is moving, open to arrivals from rood 2 of device 5. -/
def tMoving : Rood :=
  let y := tHold (tEntry .moving 40)
  { y with
    obj := { y.obj with models := [(0, { tImage with digest := zeros 48 })] }
    regs := { y.regs with chainAccept := BitVec.ofNat 64 (1 <<< 31 + 1 <<< 37 + 2 <<< 8) } }
def tOffer : List Byte := offerPayload (tMoving.bushelHeader 0 { tEntry .moving 40 with pecks := 1 }) false
/-- A migration to rood 2 of device 5. -/
def tMove (accepted : Bool) (bushel : List Byte) : Move :=
  { Move.plain 0 4 1 .resident with bushel := bushel, op := 77, peer := 5, peerRood := 2, accepted := accepted }
def tMigrate : Cmd := tRun 0x0A (5 <<< 128 + 2 <<< 136)
def tSource (m : Move) : Rood := { tWith tMigrate tMoving with moves := [m] }
def tTarget : Rood :=
  { tMoving with
    arrivals := [{ op := 77, cring := 0, src := 5, srcRood := 2, mirror := false, header := tOffer.take 512, slot := 1, list := []
                   frames := [], toFlash := false, originTag := 0, srcHandle := 0 }]
    crings := List.replicate 8 tRing1 }

/-- Whatever its payload, the message is the next of its pair. -/
theorem hear_heard (typ op : Nat) (payload : List Byte) (x : Rood) (h : x.num = 0) :
    Heard (tHearing x) typ (tHear typ op payload) x := by
  have number : (tHearing x).dev.number = 0 := (show (tHearing x).dev.number = (tHearing tRood).dev.number from rfl).trans (by decide +kernel)
  have ready : (tHearing x).dev.ready = true := rfl
  refine ⟨⟨rfl, ?_, ?_, ?_, rfl, rfl, ?_, rfl, rfl⟩, rfl, ?_⟩
  · simp [Dev.hears, ready, number, tHear, tBare]
  · exact beq_self_eq_true _
  · show (11 : Nat) ≠ 0; decide
  · show seqAhead 10 11 = 1; decide
  · show [x].find? (fun (y : Rood) => y.num == 0) = some x
    simp [h]

/-- What its sender holds beside the OFFER. -/
def tOrigin : Origin := { tag := 9, handle := 1, parked := false }

/-- The test of an OFFER sees it. -/
def tOffered (x : Rood) : Ctx := ⟨(tHearing x).clock.time, (tHearing x).dev.withOrigin (tHear 0x01 77 tOffer) tOrigin⟩

theorem offer_accepted : tMoving.offerTest (tOffered tMoving) 5 2 77 tOffer = 0 := by
  have ho : (tOffered tMoving).origin 5 77 = tOrigin := rfl
  have h1 : tMoving.offerTest12 5 = 0 := by decide +kernel
  have h2 : (hdrEntry (tOffer.take 512)).retrieval = false := by decide +kernel
  have h3 : tMoving.holdsObjects (tOffer.take 512) = true := by decide +kernel
  have h4 : tMoving.geometryAgrees (tOffer.take 512) = true := by decide +kernel
  have h5 : tMoving.popSlot = some (1, { tMoving with freeLists := [⟨[], 2, [], []⟩] }) := by decide +kernel
  have h6 : tMoving.roomForArrival (tMoving.arrivalOf 5 2 77 1 tOffer tOrigin) = true := by decide +kernel
  have h7 : (tMoving.crings[(tMoving.arrivalOf 5 2 77 1 tOffer tOrigin).cring]?).any CRing.canReserve = true := by decide +kernel
  unfold Rood.offerTest
  simp only [h1, h2, h3, h4, h5, ho, h6, h7]
  rfl

theorem witness_MovesFollowTheirMessages :
    (Heard (tHearing tRood) 0x01 (tHear 0x01 77 tOffer) tRood ∧
      tRood.offerTest (tOffered tRood) 5 2 77 tOffer ≠ 0) ∧
    (Heard (tHearing tMoving) 0x01 (tHear 0x01 77 tOffer) tMoving ∧ tMoving.offerTest (tOffered tMoving) 5 2 77 tOffer = 0 ∧
      tMoving.popSlot = some (1, { tMoving with freeLists := [⟨[], 2, [], []⟩] }) ∧ 0 < hdrFrames (tOffer.take 512)) ∧
    (let m := tMove true []
     Heard (tHearing (tSource m)) 0x02 (tHear 0x02 77 (leBytes 4 5)) (tSource m) ∧ (tSource m).moveOf 5 77 = some m ∧ m.accepted = true) ∧
    (let m := tMove false (tOffer.take 512 ++ [1, 2, 3, 4, 5, 6, 7, 8])
     Heard (tHearing (tSource m)) 0x02 (tHear 0x02 77 (leBytes 4 5)) (tSource m) ∧ (tSource m).moveOf 5 77 = some m ∧
       m.accepted = false ∧ m.peerRood = (tHear 0x02 77 (leBytes 4 5)).srcRood ∧
       (bushelParts m.bushel).2.1 ≠ [] ∧ (bushelParts m.bushel).2.1.length ≤ 65536) ∧
    (let m := tMove true []
     let x := tSource m
     Heard (tHearing x) 0x03 (tHear 0x03 77 (leBytes 4 6)) x ∧ Heard (tHearing x) 0x06 (tHear 0x06 77 (leBytes 4 6)) x ∧
       x.moveOf 5 77 = some m ∧ m.kind = 4 ∧ x.entry? m.slot = some (tEntry .moving 40) ∧ (tEntry .moving 40).state = .moving ∧ x.cmd? m.cmd = some tMigrate ∧
       CanReport x tMigrate tRing1 ∧ StepsHeld x) ∧
    (let x := tTarget
     ∃ a, x.arrival? 5 77 = some a ∧ Heard (tHearing x) 0x04 (tHear 0x04 77 (leBytes 8 7)) x ∧
       a.frames.length ≠ hdrFrames a.header ∧ Heard (tHearing x) 0x05 (tHear 0x05 77 (leBytes 8 0 ++ [1, 2])) x ∧
       a.list.length ≠ 8 * hdrFrames a.header ∧ Heard (tHearing x) 0x07 (tHear 0x07 77 []) x ∧ NonePosted x) := by
  refine ⟨⟨hear_heard _ _ _ _ rfl, ?_⟩, ⟨hear_heard _ _ _ _ rfl, offer_accepted, ?_, ?_⟩, ⟨hear_heard _ _ _ _ rfl, rfl, rfl⟩,
    ⟨hear_heard _ _ _ _ rfl, rfl, rfl, rfl, ?_, ?_⟩, ⟨hear_heard _ _ _ _ rfl, hear_heard _ _ _ _ rfl, ?_⟩,
    ⟨_, rfl, hear_heard _ _ _ _ rfl, ?_, hear_heard _ _ _ _ rfl, ?_, hear_heard _ _ _ _ rfl, ?_⟩⟩
  all_goals try dsimp only [CanReport, StepsHeld, NonePosted]
  all_goals (and_intros <;> decide +kernel)

/-- The rood with index 1, open to what comes from device 5. -/
def tPeer : Rood :=
  let y := tHold (tEntry .resident 1)
  { y with
    vecs := [tIndex], flashShare := 10
    regs := { y.regs with chainAccept := BitVec.ofNat 64 (1 <<< 31 + 1 <<< 37 + 2 <<< 8), vecShard := [0, 0x20, 0, 0], lineage := 9 } }
/-- A request of one query against index 1 of which `k` elements have come, and the list of one answer. -/
def tQuery (k : Nat) : List Byte :=
  leBytes 4 (1 + 2 <<< 8 + 32 <<< 16) ++ leBytes 4 (2 + 4 <<< 16) ++ leBytes 4 1 ++ leBytes 4 0 ++
    (List.range k).flatMap (fun _ => leBytes 4 0x3F800000)
def tHits : List Byte := leBytes 4 1 ++ leBytes 4 9 ++ leBytes 4 0x3F800000 ++ leBytes 8 5
def tSweeping : Rood :=
  { tWith (tRun 0x23 0) tPeer with vecOps := [{ tVecOp true with waiting := [3, 5] }] }
def tIncoming : ShardIn := { op := 7, src := 5, srcRood := 2, hdr := { tShardHdr [] [] with shardLen := 4096 }, data := [1, 2, 3] }
def tRunning (accepted : Bool) : Rood :=
  let y := tWith { tPlain 0x30 (1 <<< 128) with stage := .running } tPeer
  { y with ckp := { y.ckp with run := some (tCkp 1 false [{ tShard false with op := 7, rood := 2, accepted := accepted }]) } }
def tAsking (waiting : List (Nat × Nat)) : Rood :=
  let y := tWith { tPlain 0x31 (1 <<< 128) with stage := .running } tPeer
  { y with ckp := { y.ckp with restore := some { tRestore with waiting := waiting, items := [], parts := [] } } }

theorem witness_QueriesAndShardsFollowTheirMessages :
    (let whole := fun (p : List Byte) => 16 ≤ p.length ∧ 16 + u32At 8 p * (4 * (u32At 0 p >>> 16)) ≤ p.length
     Heard (tHearing tPeer) 0x10 (tHear 0x10 7 (tQuery 31)) tPeer ∧ tPeer.vecReqs = [] ∧ ¬ whole (tQuery 31) ∧
       Heard (tHearing tPeer) 0x10 (tHear 0x10 7 (tQuery 32)) tPeer ∧ whole (tQuery 32) ∧
       (tPeer.mayServe (ctxOf (tHearing tPeer)) 5 (tQuery 32)).isSome = true ∧
       Heard (tHearing tRood) 0x10 (tHear 0x10 7 (tQuery 32)) tRood ∧ tRood.vecReqs = [] ∧
       tRood.mayServe (ctxOf (tHearing tRood)) 5 (tQuery 32) = none) ∧
    (Heard (tHearing tSweeping) 0x11 (tHear 0x11 7 tHits) tSweeping ∧
      tSweeping.sweepOf 5 7 = some { tVecOp true with waiting := [3, 5] } ∧ (readLists 1 tHits).isSome = true ∧
      readLists 1 (tHits.take 19) = none ∧ Heard (tHearing tSweeping) 0x11 (tHear 0x11 7 (tHits.take 19)) tSweeping ∧
      Heard (tHearing tSweeping) 0x12 (tHear 0x12 7 []) tSweeping ∧ tSweeping.cmd? 1 = some (tRun 0x23 0) ∧
      CanReport tSweeping (tRun 0x23 0) tRing1) ∧
    (let offer := (tShardHdr (zeros 48) tPayload).bytes
     let t := fun (x : Rood) => if x.offerTest12 5 ≠ 0 then x.offerTest12 5
       else if x.shareHolds (extentsOf (4096 + (readShardHdr offer).shardLen)) then 0 else 7
     Heard (tHearing tRood) 0x20 (tHear 0x20 7 offer) tRood ∧ t tRood ≠ 0 ∧ Heard (tHearing tPeer) 0x20 (tHear 0x20 7 offer) tPeer ∧
       t tPeer = 0) ∧
    (Heard (tHearing (tRunning false)) 0x21 (tHear 0x21 7 []) (tRunning false) ∧
      (tRunning false).shardOp 5 7 = some { tShard false with op := 7, rood := 2 } ∧ (tShard false).accepted = false ∧
      (tShard false).data ≠ [] ∧ (tShard false).data.length ≤ 65536) ∧
    (Heard (tHearing (tRunning true)) 0x22 (tHear 0x22 7 []) (tRunning true) ∧ (tRunning true).ckp.trailing = [] ∧
      CanReport (tRunning true) { tPlain 0x30 (1 <<< 128) with stage := .running } tRing1 ∧
      (∃ u, (tRunning true).ckp.run = some u ∧ (tRunning true).cmd? u.cmd = some { tPlain 0x30 (1 <<< 128) with stage := .running } ∧
        ∃ k ∈ u.shards, k.peer = 5 ∧ k.op = 7 ∧ k.durable = false) ∧
      Heard (tHearing (tRunning true)) 0x24 (tHear 0x24 7 []) (tRunning true)) ∧
    (let x : Rood := { tPeer with ckp := { tPeer.ckp with incoming := [tIncoming] } }
     let data := leBytes 8 3 ++ [4, 5]
     Heard (tHearing x) 0x23 (tHear 0x23 7 data) x ∧ x.ckp.restore = none ∧ x.ckp.incoming = [tIncoming] ∧
       u64At 0 data = tIncoming.data.length ∧ tIncoming.data.length + (data.length - 8) < tIncoming.hdr.shardLen ∧
       Heard (tHearing x) 0x25 (tHear 0x25 7 (leBytes 8 9)) x ∧
       Heard (tHearing x) 0x27 (tHear 0x27 7 (leBytes 8 9 ++ leBytes 8 4 ++ leBytes 8 1)) x ∧ x.shardsOf 9 1 = []) ∧
    (let inv := leBytes 8 1 ++ (tShardHdr [] []).bytes
     let two := tAsking [(5, 7), (6, 8)]
     let one := tAsking [(5, 7)]
     Heard (tHearing two) 0x26 (tHear 0x26 7 inv) two ∧
       (∃ u, two.ckp.restore = some u ∧ (5, 7) ∈ u.waiting ∧ (∃ w ∈ u.waiting, w ≠ (5, 7)) ∧
         (lookKey 5 u.lists).getD [] = []) ∧
       8 + 128 * u32At 0 inv ≤ inv.length ∧ (inv.take 100).length < 8 + 128 * u32At 0 (inv.take 100) ∧
       Heard (tHearing two) 0x26 (tHear 0x26 7 (inv.take 100)) two ∧
       Heard (tHearing one) 0x26 (tHear 0x26 7 inv) one ∧ StepsHeld one ∧ NonePosted one ∧ one.vecQueue = [] ∧
       Heard (tHearing one) 0x28 (tHear 0x28 7 (tShardHdr [] []).bytes) one ∧ Heard (tHearing one) 0x29 (tHear 0x29 7 []) one ∧
       Heard (tHearing tPeer) 0x29 (tHear 0x29 7 []) tPeer ∧ tPeer.ckp.restore = none) := by
  refine ⟨⟨hear_heard _ _ _ _ rfl, rfl, ?_, hear_heard _ _ _ _ rfl, ?_, ?_, hear_heard _ _ _ _ rfl, rfl, ?_⟩,
    ⟨hear_heard _ _ _ _ rfl, ?_, ?_, ?_, hear_heard _ _ _ _ rfl, hear_heard _ _ _ _ rfl, ?_, ?_⟩,
    ⟨hear_heard _ _ _ _ rfl, ?_, hear_heard _ _ _ _ rfl, ?_⟩, ⟨hear_heard _ _ _ _ rfl, ?_, ?_, ?_, ?_⟩,
    ⟨hear_heard _ _ _ _ rfl, rfl, ?_, ⟨_, rfl, ?_, _, List.mem_singleton.mpr rfl, rfl, rfl, rfl⟩, hear_heard _ _ _ _ rfl⟩,
    ⟨hear_heard _ _ _ _ rfl, rfl, rfl, ?_, ?_, hear_heard _ _ _ _ rfl, hear_heard _ _ _ _ rfl, ?_⟩,
    ⟨hear_heard _ _ _ _ rfl, ⟨_, rfl, ?_⟩, ?_, ?_, hear_heard _ _ _ _ rfl, hear_heard _ _ _ _ rfl, rfl, ?_, rfl, hear_heard _ _ _ _ rfl, hear_heard _ _ _ _ rfl,
      hear_heard _ _ _ _ rfl, rfl⟩⟩
  all_goals try dsimp only [CanReport, NonePosted]
  all_goals (and_intros <;> decide +kernel)

/-- A restore whose one shard is in transit from device 5. -/
def tFetching : RestoreRun :=
  { tRestore with
    parts := [], tried := [(7, 0, 5)], fetching := [{ op := 7, seq := 7, index := 0, peer := 5, hdr := none, data := [] }] }
def tFetcher : Rood :=
  let y := tWith { tPlain 0x31 (1 <<< 128) with stage := .running } tPeer
  { y with ckp := { y.ckp with restore := some tFetching } }

theorem witness_QueriesAndShardsFollowTheirMessages_fetch :
    let x := tFetcher
    let d := { tPlain 0x31 (1 <<< 128) with stage := .running }
    let u := tFetching
    let hdr := (tShardHdr (tRood.shape (ctxOf (tFull tRood))) tPayload).bytes
    Heard (tHearing x) 0x28 (tHear 0x28 7 hdr) x ∧ Heard (tHearing x) 0x29 (tHear 0x29 7 []) x ∧
      x.ckp.restore = some u ∧ x.cmd? u.cmd = some d ∧ u.choose (x.shape (ctxOf (tHearing x))) d.ckpSeq = (0, some 7) ∧
      u.chain (x.shape (ctxOf (tHearing x))) 7 = some [7] ∧ shardHdrOk hdr = true ∧ 0 < (readShardHdr hdr).shardLen ∧
      u.missing 7 = 0 ∧ 7 ∉ u.bad ∧ CanReport x d tRing1 ∧ StepsHeld x ∧ x.vecQueue = [] ∧ (∀ i ∈ u.items, i.hdr.seq = 7) ∧
      0 < ({ u with fetching := [] } : RestoreRun).missing 7 ∧ ({ u with fetching := [] } : RestoreRun).nextItem 7 = none := by
  refine ⟨hear_heard _ _ _ _ rfl, hear_heard _ _ _ _ rfl, rfl, ?_⟩
  dsimp only [CanReport, NonePosted, StepsHeld]
  and_intros <;> decide +kernel

/-! ## Ill-formed commands: the check refuses a term for each of its bounds -/

/-- A message all of whose fields are zero. -/
def tZeroMsg : ChainMsg :=
  { typ := 0, src := 0, dst := 0, srcRood := 0, dstRood := 0, seq := 0, ack := 0, hops := 0, epoch := 0, op := 0, payload := []
    crc := 0 }

def tHitOf (u : UnitId) : Hit := { cls := 1, unit := u, layer := 0, obj := none, corrected := false }

def tStepOf (h : Hit) : StepEnv :=
  { time := 0, sNum := 1, sDen := 1, hits := [h], chosen := [], visible := [], streamFault := [], assay := [] }

/-- Bounds of Table 1.3, on every kind of unit and in every command that names one. -/
theorem test_wf_units :
    [UnitId.tile 104, .bank 24 0, .bank 0 64, .slice 24 0, .slice 0 7, .segment 24, .bridge 4, .stack 24, .chainPort 8
      , .flashChan 16, .rail 5, .pll 4].all (fun u => !(Instr.idleGapAssay u).wf && !(Instr.assayLate u).wf &&
        !(Instr.assayDone u ⟨true, StartEnv.none⟩).wf && !(Instr.watchdogFire (tHitOf u)).wf && !(Instr.stepEnd 0 0 0 (tStepOf (tHitOf u))).wf &&
        !(Instr.dramPatrolRead 0 [] [tHitOf u]).wf) = true := by decide

theorem test_wf_unit_numbers :
    [Instr.railFault 5 StartEnv.none, .thermtripSensorTrip 4, .quadrantResetDone 4, .tileResetDone 104 true
      , .tileRegulatorFault ⟨104, StartEnv.none⟩, .sgResetDone 24 true, .scrubDone 24 ⟨true, StartEnv.none⟩, .dramPatrolRead 24 [] [], .dramPatrolRead 0 [64] []
      , .chainLinkRetry 8, .chainLinkLoss 8, .challenge 8 []
      , .chainLinkUp 8 ⟨true, true, true, 0, [], 0, []⟩].all (fun i => !i.wf) = true := by decide

theorem test_wf_classes :
    Instr.wf (.watchdogFire { tHitOf .hostIf with cls := 0 }) = false ∧
      Instr.wf (.watchdogFire { tHitOf .hostIf with cls := 16 }) = false ∧
      Instr.wf (.watchdogFire { tHitOf .hostIf with cls := 15 }) = true := by decide

theorem test_wf_rings :
    [Instr.intakeLineSnoop 16 0 0 .poison, .intakeLineSnoop 0 8 0 .poison, .hostIndexLineSnoop 16 0 0, .hostIndexLineSnoop 0 8 0
      , .iringConsWrite 16 0, .iringConsWrite 0 8, .cringModTimeout 16 0, .cringModTimeout 0 8, .iringCtlWrite 16 0 0 true
      , .iringCtlWrite 0 8 0 true, .cringCtlWrite 16 0 0 true, .cringCtlWrite 0 8 0 true
      , .stepEnd 16 0 0 (tStepOf (tHitOf .hostIf))].all (fun i => !i.wf) = true := by decide

theorem test_wf_registers :
    [Instr.msixUnmask 17 0, .msixUnmask 0 8, .msixUnmask 1 32, .registerWrite 17 0 4 0, .registerWrite 0 0 2 0
      , .registerMisaccess 17 0 4 true, .bulkWindowWrite 16 ⟨0, 0⟩ [] false
      , .bulkWindowWrite 0 ⟨2 ^ 64 - 2 ^ 33 + 1, 0⟩ [0] false, .bulkWindowWrite 0 ⟨0, 2 ^ 64⟩ [0] false].all (fun i => !i.wf) = true ∧
      Instr.wf (.msixUnmask 16 31) = true ∧ Instr.wf (.bulkWindowWrite 15 ⟨2 ^ 64 - 2 ^ 33, 2 ^ 64 - 1⟩ [0] false) = true := by decide

/-- Every field of a message beyond its width in Table 13.8, in each command that carries a message. -/
def tWideMsgs : List ChainMsg :=
  [{ tZeroMsg with typ := 256 }, { tZeroMsg with src := 32 }, { tZeroMsg with dst := 32 }, { tZeroMsg with srcRood := 16 }
    , { tZeroMsg with dstRood := 16 }, { tZeroMsg with seq := 2 ^ 32 }, { tZeroMsg with ack := 2 ^ 32 }, { tZeroMsg with hops := 32 }
    , { tZeroMsg with op := 2 ^ 32 }]

theorem test_wf_messages :
    tWideMsgs.all (fun m =>
      [Instr.chainForward m, .chainUnknownType m, .hello m, .ack m, .offer ⟨m, ⟨0, 0, false⟩⟩, .accept m, .refuse m, .list m, .frame m, .done m
        , .abort m, .vecReq m, .vecList m, .vecRefuse m, .shardOffer m, .shardAccept m, .shardRefuse m, .shardData m
        , .shardDone m, .invReq m, .invList m, .shardGet ⟨m, Wear.none⟩, .shardHdr m, .shardNone m].all (fun i => !i.wf)) = true ∧
      Instr.wf (.hello tZeroMsg) = true := by decide

theorem test_wf_long_payload : ChainMsg.wf { tZeroMsg with payload := List.replicate 65545 0 } = false := by
  unfold ChainMsg.wf
  rw [List.length_replicate]
  rfl

theorem test_no_word_spells_a_command : decodeTableWord 8 0 = none := rfl

/-! ## Worked examples and tables of the manual -/

/-- Table 8.1: tokens of one peck. -/
theorem test_tokens_per_peck :
    [tokensPerPeck 2 128 false, tokensPerPeck 2 128 true, tokensPerPeck 8 128 false, tokensPerPeck 32 128 false
      , tokensPerPeck 1 64 true, tokensPerPeck 30 128 false] = [64, 128, 16, 4, 512, 8] := by decide +kernel

/-- Table 8.9: directory lines of 62,500 pecks, 3,907 summary frames and 61 super frames. -/
theorem test_directory_lines : treeLines 62500 = 994 ∧ treeLines 3907 + treeLines 61 = 64 := by decide +kernel

/-- Chapter 15: G = 4,000 grains, 700 drawn by the shared units, 24 stack groups. -/
theorem test_energy_share : shareOf 400 700 24 = 133 := by decide

/-- Chapter 6: the block of 3.0, -1.5, 0.25 and zeros takes the scale 0x260D and the codes 127, -63, 11. -/
theorem test_quantize :
    quantInt 127 ([0x40400000, 0xBFC00000, 0x3E800000] ++ List.replicate 29 0) =
      ([127, -63, 11] ++ List.replicate 29 0, 0x260D) := by decide +kernel

/-- Chapter 6: the block's contribution is 1,533,510 × 2^-20 = 1.4624691009521484, whose FP32 code is 0x3FBB3230. -/
theorem test_contribution :
    fdec fp32 (blkDot (readBlk .w4 ([0xD7, 0x08] ++ List.replicate 14 0 ++ [0x18]))
        (.int ([127, -63, 11] ++ List.replicate 29 0) (fdec fp16 0x260D))) = fdec fp32 0x3FBB3230 ∧
      0x3FBB3230 = 127 * 2 ^ 23 + 1533510 * 2 ^ 3 - 2 ^ 23 := by decide +kernel

/-- Chapter 10: the six best logits and one NaN with TOP_K 4. -/
theorem test_selection :
    let r := select false 4 [(912, 0x41480000), (3411, 0x41280000), (4431, 0x41480000), (33560, 0x41280000), (40233, 0x41280000)
      , (57118, 0x413C0000), (71002, 0x7FC00000)]
    r.indices = [912, 4431, 57118, 3411] ∧ r.tieCount = 3 ∧ r.tieTaken = 1 ∧ r.nans = 1 := by decide +kernel

/-- Chapter 11: ">" completes "</ans>" and "s>"; the longer sets STOP_OFFSET to 15. -/
theorem test_stop_scan :
    scanStops [[0x3C, 0x2F, 0x61, 0x6E, 0x73, 0x3E], [0x73, 0x3E]]
      ([0x54, 0x68, 0x65, 0x20, 0x74, 0x6F, 0x74, 0x61, 0x6C, 0x20, 0x69, 0x73, 0x20, 0x34, 0x32, 0x3C, 0x2F, 0x61, 0x6E, 0x73])
      [0x3E, 0x0A] = some 15 := by decide +kernel

/-- Chapter 19: words 2 and 3 of the entry of bank engine 17 of stack group 9. -/
theorem test_log_words :
    let e : LogEntry :=
      { seq := 12, time := 3600000001240, kind := 1, cls := 1, code := 0, reaction := 2, rood := 0, sessions := 40, quad := 1
        sg := 9, unitKind := 2, unit := 17, detail := 12 }
    e.word2 = 0x0101000002000028 ∧ e.word3 = 0x010902110000000C := by decide

end Sys2Proof.Tests
end

section
/-! PROOF. What a write of a register of a rood's window leaves (R15, R513), and with it obligation O30. -/
namespace Sys2Proof.Machine
open Sys2Proof

/-! ## Operands of a write -/

theorem bitAt_eq_testBit (n i : Nat) : bitAt n i = n.testBit i := by
  rw [bitAt, Nat.shiftRight_eq_div_pow, Nat.testBit_eq_decide_div_mod_eq, beq_eq_decide]

theorem bitAt_toNat (v : W64) (i : Nat) : bitAt v.toNat i = v.getLsbD i := by
  rw [bitAt_eq_testBit, BitVec.testBit_toNat]

/-- A bit of the low word that a write carries. -/
theorem bitAt_toNat_mod {v : W64} {k i : Nat} (h : i < k) : bitAt (v.toNat % 2 ^ k) i = v.getLsbD i := by
  rw [bitAt_eq_testBit, Nat.testBit_mod_two_pow, BitVec.testBit_toNat, decide_eq_true h, Bool.true_and]

theorem maskedReg_toNat (mask : Nat) (v : W64) :
    maskedReg mask (v.toNat % 2 ^ (8 * 8)) = v &&& BitVec.ofNat 64 mask := by
  rw [Nat.mod_eq_of_lt v.isLt, maskedReg, BitVec.ofNat_and, BitVec.ofNat_toNat, BitVec.setWidth_eq]

theorem ofNat_and_low_word (mask : Nat) (v : W64) :
    BitVec.ofNat 32 (v.toNat % 2 ^ (8 * 4) &&& mask) = v.setWidth 32 &&& BitVec.ofNat 32 mask := by
  have low : BitVec.ofNat 32 (v.toNat % 2 ^ 32) = BitVec.ofNat 32 v.toNat := BitVec.eq_of_toNat_eq (by simp)
  rw [BitVec.ofNat_and, low, BitVec.ofNat_toNat]

/-! ## A write that meets a register of a rood window -/

/-- A register of a rood window stands at the offset and takes accesses of the width. -/
def roodRegister (off width : Nat) : Bool :=
  decide (off < roodWindow) && !inMsix 32 off && accessCause roodRegAt off width == 0

theorem writeWindow_of_register {off width : Nat} (h : roodRegister off width = true) (ctx : Ctx) (v : Nat) (x : Rood) :
    x.writeWindow ctx off width v = x.writeReg ctx off v := by
  simp only [roodRegister, Bool.and_eq_true, decide_eq_true_eq, Bool.not_eq_true', beq_iff_eq] at h
  obtain ⟨⟨hoff, hmsix⟩, hcause⟩ := h
  simp [Rood.writeWindow, Nat.not_le.mpr hoff, hmsix, hcause]

/-- REGISTER_WRITE of a register: the rood becomes what the register's map makes of the low `width` bytes. -/
theorem registerWrite_becomes {s : State} {r : Nat} {x : Rood} (hw : Works s r x) {off width : Nat}
    (h : roodRegister off width = true) (v : W64) :
    ∃ t, exec (.registerWrite (r + 1) off width v) s = .next t ∧
      Becomes t r x (x.writeReg (ctxOf s) off (v.toNat % 2 ^ (8 * width))) :=
  ⟨_, rfl, writeWindow_of_register h (ctxOf s) _ x ▸
    onRood_becomes hw (fun ctx x => x.writeWindow ctx off width (v.toNat % 2 ^ (8 * width)))⟩

/-! ## The registers, by offset (Tables 13.12, 13.13, 14.6, 19.2) -/

theorem writeReg_status (ctx : Ctx) (v : Nat) (x : Rood) : x.writeReg ctx 0x00 v = x.writeStatus v := rfl

theorem writeReg_event (ctx : Ctx) (v : Nat) (x : Rood) :
    x.writeReg ctx 0x18 v = { x with regs := { x.regs with evtEnable := bitAt v 31, evtVector := v % 32 } } := rfl

theorem writeReg_latLimit {k : Nat} (hk : k < 3) (ctx : Ctx) (v : Nat) (x : Rood) :
    x.writeReg ctx (0x400 + 4 * k) v = { x with regs := { x.regs with latLimit := x.regs.latLimit.set k (v % 2 ^ 32) } } := by
  obtain rfl | rfl | rfl : k = 0 ∨ k = 1 ∨ k = 2 := by omega
  all_goals rfl

theorem writeReg_frameFloor (ctx : Ctx) (v : Nat) (x : Rood) :
    x.writeReg ctx 0x410 v = { x with regs := { x.regs with frameFloor := v % 2 ^ 26 } } := rfl

theorem writeReg_readOnly {off : Nat} (h : off ∈ [0x08, 0x10]) (ctx : Ctx) (v : Nat) (x : Rood) : x.writeReg ctx off v = x := by
  obtain rfl | rfl : off = 0x08 ∨ off = 0x10 := by simpa using h
  all_goals rfl

theorem writeReg_chainAccept (ctx : Ctx) (v : Nat) (x : Rood) :
    x.writeReg ctx 0x600 v = if ctx.dev.variant = 1 then x
      else { x with regs := { x.regs with chainAccept := maskedReg chainAcceptMask v } } := by
  simp [Rood.writeReg]

theorem writeReg_mirror (ctx : Ctx) (v : Nat) (x : Rood) :
    x.writeReg ctx 0x608 v = if ctx.dev.variant = 1 then x
      else { x with regs := { x.regs with mirror := BitVec.ofNat 32 (v &&& mirrorMask) } } := by
  simp [Rood.writeReg]

theorem writeReg_ckpPeers (ctx : Ctx) (v : Nat) (x : Rood) :
    x.writeReg ctx 0x508 v = if ctx.dev.variant = 1 then x
      else { x with regs := { x.regs with ckpPeers := maskedReg ckpPeersMask v } } := by
  simp [Rood.writeReg]

/-- Settles O30: each write meets a register, and the register's map gives the rood afterwards. -/
theorem registersTakeWhatTheirMapsGive : Obligations.RegistersTakeWhatTheirMapsGive := by
  unfold Obligations.RegistersTakeWhatTheirMapsGive
  intro r v s x hw
  refine ⟨?status, ?event, ?latLimit, ?frameFloor, ?readOnly, ?chainAccept, ?mirror, ?ckpPeers⟩
  case status =>
    have h := registerWrite_becomes hw (off := 0x00) (width := 4) (by decide) v
    simpa only [writeReg_status, Rood.writeStatus, bitAt_toNat_mod (show 3 < 8 * 4 by decide),
      bitAt_toNat_mod (show 2 < 8 * 4 by decide), bitAt_toNat_mod (show 1 < 8 * 4 by decide),
      bitAt_toNat_mod (show 0 < 8 * 4 by decide)] using h
  case event =>
    have h := registerWrite_becomes hw (off := 0x18) (width := 4) (by decide) v
    have low : v.toNat % 2 ^ (8 * 4) % 32 = v.toNat % 32 := by omega
    simpa only [writeReg_event, bitAt_toNat_mod (show 31 < 8 * 4 by decide), low] using h
  case latLimit =>
    intro k hk
    have reg : roodRegister (0x400 + 4 * k) 4 = true := by
      obtain rfl | rfl | rfl : k = 0 ∨ k = 1 ∨ k = 2 := by omega
      all_goals decide
    simpa only [writeReg_latLimit hk, Nat.mod_mod] using registerWrite_becomes hw reg v
  case frameFloor =>
    have h := registerWrite_becomes hw (off := 0x410) (width := 4) (by decide) v
    have low : v.toNat % 2 ^ (8 * 4) % 2 ^ 26 = v.toNat % 2 ^ 26 := by omega
    simpa only [writeReg_frameFloor, low] using h
  case readOnly =>
    intro off hoff
    have reg : roodRegister off 8 = true := by
      obtain rfl | rfl : off = 0x08 ∨ off = 0x10 := by simpa using hoff
      all_goals decide
    simpa only [writeReg_readOnly hoff] using registerWrite_becomes hw reg v
  case chainAccept =>
    have h := registerWrite_becomes hw (off := 0x600) (width := 8) (by decide) v
    rw [writeReg_chainAccept, maskedReg_toNat] at h
    exact h
  case mirror =>
    have h := registerWrite_becomes hw (off := 0x608) (width := 4) (by decide) v
    rw [writeReg_mirror, ofNat_and_low_word] at h
    exact h
  case ckpPeers =>
    have h := registerWrite_becomes hw (off := 0x508) (width := 8) (by decide) v
    rw [writeReg_ckpPeers, maskedReg_toNat] at h
    exact h

end Sys2Proof.Machine
end

section
/-! PROOF. What a misaccess of a window, a write of HOST_CAP and a start of a device snapshot do (R18, R79, R433, R505, R507,
R513, R515), and with them obligation O31. -/
namespace Sys2Proof.Machine
open Sys2Proof

/-! ## The entry of a misaccess (R18, Table 19.18) -/

/-- The low two bits of CODE name the cause. -/
theorem accessEntry_cause (now : W64) (off width : Nat) (w : Bool) : (accessEntry now off width 1 w).code % 4 = 1 := by
  have width_bits : width % 256 * 256 % 2 ^ 2 = 0 := by omega
  have write_bit : bit w <<< 7 % 2 ^ 2 = 0 := by cases w <;> rfl
  show (width % 256 * 256 ||| bit w <<< 7 ||| 1) % 2 ^ 2 = 1
  rw [Nat.or_mod_two_pow, Nat.or_mod_two_pow, width_bits, write_bit]
  rfl

@[simp] theorem Rood.count_keeps (i n : Nat) (x : Rood) :
    (x.count i n).regs = x.regs ∧ (x.count i n).irings = x.irings ∧ (x.count i n).crings = x.crings ∧
      (x.count i n).cmds = x.cmds ∧ (x.count i n).host = x.host := by
  unfold Rood.count
  split <;> simp

/-- A message leaves the log, the rings, the commands and host memory alone. -/
@[simp] theorem Rood.msix_keeps (vec : Nat) (x : Rood) :
    (x.msix vec).regs.log = x.regs.log ∧ (x.msix vec).irings = x.irings ∧ (x.msix vec).crings = x.crings ∧
      (x.msix vec).cmds = x.cmds ∧ (x.msix vec).host = x.host := by
  unfold Rood.msix
  dsimp only
  split
  · simp
  · split <;> simp

/-- An entry of the rood's own log leaves the rings, the commands and host memory alone. -/
@[simp] theorem Rood.logOwn_keeps (e : LogEntry) (x : Rood) :
    (x.logOwn e).regs.log = x.regs.log.write 64 e ∧ (x.logOwn e).irings = x.irings ∧ (x.logOwn e).crings = x.crings ∧
      (x.logOwn e).cmds = x.cmds ∧ (x.logOwn e).host = x.host := by
  unfold Rood.logOwn
  dsimp only
  split <;> simp

/-- A misaccess leaves its entry, under the rood's number, and nothing in the rings, the commands and host memory. -/
theorem Rood.logAccess_keeps (now : W64) (off width cause : Nat) (w : Bool) (x : Rood) :
    let y := x.logAccess now off width cause w
    y.regs.log = x.regs.log.write 64 { accessEntry now off width cause w with rood := x.num } ∧ y.irings = x.irings ∧
      y.crings = x.crings ∧ y.cmds = x.cmds ∧ y.host = x.host := Rood.logOwn_keeps _ _

theorem logAccess_hostSide (now : W64) (off width cause : Nat) (w : Bool) (x : Rood) :
    HostSide { x with regs := { x.regs with misaccess := true } } (x.logAccess now off width cause w) := logOwn_hostSide _ _

/-! ## Misaccesses of the windows -/

/-- A misaccess of a rood window that takes part in work is the work of `Rood.logAccess`. -/
theorem exec_registerMisaccess_rood {s : State} (hl : s.dev.roodsLive = true) {off width : Nat} (hoff : off < roodWindow)
    (hm : inMsix 32 off = false) (hc : accessCause roodRegAt off width = 1) (r : Nat) (w : Bool) :
    exec (.registerMisaccess (r + 1) off width w) s =
      .next (onRood r (fun ctx x => x.logAccess ctx.time off width 1 w) s) := by
  show execRegisterMisaccess (r + 1) off width w s = _
  simp [execRegisterMisaccess, onRood, onDev, Dev.atRood, hl, hoff, hm, hc]

theorem exec_registerMisaccess_device {s : State} (hl : s.dev.windowOpen = true) {off width : Nat} (hoff : off < devWindow)
    (hm : inMsix 8 off = false) (hc : accessCause devRegAt off width = 1) (w : Bool) :
    exec (.registerMisaccess 0 off width w) s =
      .next { s with dev := Dev.signal s.dev (s.dev.logAccess s.clock.time off width 1 w) } := by
  show execRegisterMisaccess 0 off width w s = _
  simp [execRegisterMisaccess, onDev, hl, hoff, hm, hc]

/-- A misaccess in a rood's window reads zero, and its entry is all that it leaves. -/
theorem rood_misaccess {s : State} {r : Nat} {x : Rood} (hw : Works s r x) {off width : Nat} (hoff : off < 2 ^ 20)
    (hm : inMsix 32 off = false) (hc : accessCause roodRegAt off width = 1) (w : Bool) :
    s.readReg (r + 1) off width = 0 ∧
      ∃ t y, exec (.registerMisaccess (r + 1) off width w) s = .next t ∧ Becomes t r x y ∧
        HostSide { x with regs := { x.regs with misaccess := true } } y ∧ y.irings = x.irings ∧ y.crings = x.crings ∧
        y.host = x.host ∧ y.cmds = x.cmds ∧
        ∃ k, y.regs.log = x.regs.log.write 64 k ∧ k.kind = 0x03 ∧ k.code % 4 = 1 ∧ k.detail = off ∧ k.rood = r := by
  obtain ⟨hl, hx⟩ := hw
  constructor
  · simp [State.readReg, hl, hx, hm, hc]
  · obtain ⟨hlog, hirings, hcrings, hcmds, hhost⟩ :=
      Rood.logAccess_keeps s.clock.time off width 1 w x
    exact ⟨_, _, exec_registerMisaccess_rood hl hoff hm hc r w, onRood_becomes ⟨hl, hx⟩ _, logAccess_hostSide _ _ _ _ _ _,
      hirings, hcrings, hhost, hcmds, _, hlog, rfl, accessEntry_cause s.clock.time off width w, rfl, rood?_num hx⟩

/-- A misaccess in the device's window reads zero, and is logged in the device log. -/
theorem device_misaccess {s : State} (hl : s.dev.windowOpen = true) {off width : Nat} (hoff : off < 2 ^ 26)
    (hm : inMsix 8 off = false) (hc : accessCause devRegAt off width = 1) (w : Bool) :
    s.readReg 0 off width = 0 ∧
      ∃ t, exec (.registerMisaccess 0 off width w) s = .next t ∧ t.clock = s.clock ∧ t.pins = s.pins ∧
        t.dev.regs.misaccess = true ∧ t.dev.roods = s.dev.roods ∧ t.dev.energy = s.dev.energy ∧ t.dev.integ = s.dev.integ ∧
        ∃ k, t.dev.regs.log = s.dev.regs.log.write 256 k ∧ k.kind = 0x03 ∧ k.code % 4 = 1 ∧ k.detail = off := by
  constructor
  · simp [State.readReg, hl, hm, hc]
  · exact ⟨_, exec_registerMisaccess_device hl hoff hm hc w, rfl, rfl, signal_misaccess _ _, signal_roods _ _, signal_energy _ _,
      signal_integ _ _, _, signal_log _ _, rfl, accessEntry_cause s.clock.time off width w, rfl⟩

/-- The windows of the roods answer nothing while the roods take no part in work (R79, R515). -/
theorem rood_window_dead {s : State} (hl : s.dev.roodsLive = false) (fn off width : Nat) (w : Bool) :
    s.readReg (fn + 1) off width = 0 ∧ exec (.registerMisaccess (fn + 1) off width w) s = .next s := by
  constructor
  · simp only [State.readReg, Nat.succ_ne_zero, if_false, hl, Bool.not_false, if_true]
    split <;> rfl
  · show execRegisterMisaccess (fn + 1) off width w s = _
    simp [execRegisterMisaccess, onDev, hl, signal_self]

/-! ## HOST_CAP and DEV_SNAP_CTL (R433, R505, R507) -/

/-- A cap within its range is taken, and nothing is logged. -/
theorem setHostCap_legal {w : Nat} (lo : 300 ≤ w) (hi : w ≤ 1100) (now : W64) (d : Dev) :
    d.setHostCap now w = { d with energy := { d.energy with hostCap := w } } := by
  simp [Dev.setHostCap, capLegal, lo, hi]

/-- A cap outside its range leaves an entry. -/
theorem setHostCap_refused {w : Nat} (h : w < 300 ∨ 1100 < w) (now : W64) (d : Dev) :
    d.setHostCap now w = d.log (LogEntry.plain now 0x04 5 w) := by
  have out : capLegal w = false := by
    simp only [capLegal, Bool.and_eq_false_iff, decide_eq_false_iff_not]
    omega
  simp [Dev.setHostCap, out, Dev.capRefused]

theorem setHostCap_keeps (now : W64) (w : Nat) (d : Dev) :
    (d.setHostCap now w).roods = d.roods ∧ (d.setHostCap now w).integ = d.integ ∧ (d.setHostCap now w).boot = d.boot := by
  unfold Dev.setHostCap
  split <;> simp [Dev.capRefused]

theorem exec_hostCapWrite {s : State} (hl : s.dev.windowOpen = true) {w : Nat} (hw : w < 65536) :
    exec (.hostCapWrite w) s = .next { s with dev := Dev.signal s.dev (s.dev.setHostCap s.clock.time w) } := by
  show execHostCapWrite w s = _
  simp [execHostCapWrite, onDev, hl, Nat.mod_eq_of_lt hw]

theorem hostCapWrite_judged {s : State} (hl : s.dev.windowOpen = true) {w : Nat} (hw : w < 65536) :
    ∃ t, exec (.hostCapWrite w) s = .next t ∧ t.clock = s.clock ∧ t.pins = s.pins ∧ t.dev.roods = s.dev.roods ∧
      t.dev.integ = s.dev.integ ∧ t.dev.boot = s.dev.boot ∧
      (300 ≤ w → w ≤ 1100 → t.dev.energy = { s.dev.energy with hostCap := w } ∧ t.dev.regs.log = s.dev.regs.log) ∧
      (w < 300 ∨ 1100 < w → t.dev.energy = s.dev.energy ∧ t.dev.regs.log.head = s.dev.regs.log.head + 1) := by
  obtain ⟨hroods, hinteg, hboot⟩ := setHostCap_keeps s.clock.time w s.dev
  refine ⟨_, exec_hostCapWrite hl hw, rfl, rfl, (signal_roods _ _).trans hroods, (signal_integ _ _).trans hinteg,
    (signal_boot _ _).trans hboot, fun lo hi => ?_, fun out => ?_⟩
  · simp [setHostCap_legal lo hi]
  · simp [setHostCap_refused out, Dev.log, Log.write]

theorem startSnap_keeps (d : Dev) : d.startSnap.roods = d.roods ∧ d.startSnap.counters = d.counters := by
  unfold Dev.startSnap
  split <;> simp

/-- A start latches the device set unless a snapshot already runs. -/
theorem startSnap_snap (d : Dev) :
    d.startSnap.snap = if d.snap.busy then d.snap
      else { d.snap with busy := true, latched := (List.range 32).map (fun i => counterGet ⟨.device, 0, i⟩ d.counters) } := by
  unfold Dev.startSnap
  split <;> rfl

theorem exec_devSnapStart {s : State} (hl : s.dev.windowOpen = true) (hp : s.dev.boot.phase = .ready) {v : W64}
    (hv : v.getLsbD 31 = true) : exec (.devSnapStart v) s = .next { s with dev := Dev.signal s.dev s.dev.startSnap } := by
  show execDevSnapStart v s = _
  simp [execDevSnapStart, onDev, hl, hp, bitAt_toNat, hv]

theorem devSnapStart_latches {s : State} (hl : s.dev.windowOpen = true) (hp : s.dev.boot.phase = .ready) {v : W64}
    (hv : v.getLsbD 31 = true) :
    ∃ t, exec (.devSnapStart v) s = .next t ∧ t.clock = s.clock ∧ t.pins = s.pins ∧ t.dev.roods = s.dev.roods ∧
      t.dev.counters = s.dev.counters ∧
      t.dev.snap = if s.dev.snap.busy then s.dev.snap
        else { s.dev.snap with
          busy := true, latched := (List.range 32).map (fun i => counterGet ⟨.device, 0, i⟩ s.dev.counters) } := by
  obtain ⟨hroods, hcounters⟩ := startSnap_keeps s.dev
  exact ⟨_, exec_devSnapStart hl hp hv, rfl, rfl, (signal_roods _ _).trans hroods, (signal_counters _ _).trans hcounters,
    (signal_snap _ _).trans (startSnap_snap _)⟩

/-- Settles O31, from what each access does. -/
theorem windowAccessesAreJudged : Obligations.WindowAccessesAreJudged := by
  unfold Obligations.WindowAccessesAreJudged
  refine ⟨fun off width w s => ⟨?_, ?_, ?_⟩, fun s hl => ⟨?_, ?_⟩⟩
  · exact fun r x hw hoff hm hc => rood_misaccess hw hoff hm hc w
  · exact fun hl hoff hm hc => device_misaccess hl hoff hm hc w
  · exact fun fn hl => rood_window_dead hl fn off width w
  · exact fun w hw => hostCapWrite_judged hl hw
  · exact fun v hv hp => devSnapStart_latches hl hp hv

end Sys2Proof.Machine
end

section
/-! PROOF. Which commands move DEV_TIME, the pins and the test access port (R36, R57), and with it obligation O5. -/
namespace Sys2Proof.Machine
open Sys2Proof

/-- Nothing but the device differs: the queue, DEV_TIME, the pins and the test access port are as before. -/
def OnlyDevice (s t : State) : Prop := t = { s with dev := t.dev }

theorem onDev_onlyDevice (f : W64 → Dev → Dev) (s : State) : OnlyDevice s (onDev f s) := rfl

theorem OnlyDevice.clock {s t : State} (h : OnlyDevice s t) : t.clock = s.clock := by rw [h]
theorem OnlyDevice.pins {s t : State} (h : OnlyDevice s t) : t.pins = s.pins := by rw [h]
theorem OnlyDevice.tap {s t : State} (h : OnlyDevice s t) : t.tap = s.tap := by rw [h]
theorem OnlyDevice.pending {s t : State} (h : OnlyDevice s t) : t.pending = s.pending := by rw [h]

/-- The commands of the pins, of the reference edge and of the test access port. -/
def ofPinsClockTap : Instr → Bool
  | .pwrgdAssert _ | .pwrgdDeassert | .warmRstAssert | .warmRstDeassert _ | .vauxValid | .refClockEdge
  | .testAccessInstruction _ => true
  | _ => false

/-- Every other command is a meaning of the device alone. -/
theorem exec_onlyDevice {i : Instr} (hi : ofPinsClockTap i = false) {s t : State} (h : exec i s = .next t) : OnlyDevice s t := by
  cases i
  case pwrgdAssert | pwrgdDeassert | warmRstAssert | warmRstDeassert | vauxValid | refClockEdge | testAccessInstruction => cases hi
  case bulkWindowWrite r a bytes poison =>
    change execBulkWindowWrite r a bytes poison s = .next t at h
    unfold execBulkWindowWrite at h
    split at h
    · cases h; exact onDev_onlyDevice _ s
    · cases h
  case thermtripSensorTrip quad =>
    change Host.Outcome.next (if s.pins.vaux ∧ quad < 4 then onDev (fun _ d => d.trip) s else s) = .next t at h
    cases h
    split
    · exact onDev_onlyDevice _ s
    · rfl
  all_goals cases h; rfl

/-! ## What the commands of the pins, the clock and the test access port leave alone -/

theorem pwrgdAssert_keeps {e : StartEnv} {s t : State} (h : exec (.pwrgdAssert e) s = .next t) :
    t.tap = s.tap ∧ t.pending = s.pending := by
  change execPwrgdAssert e s = .next t at h
  cases h
  split <;> exact ⟨rfl, rfl⟩

theorem pwrgdDeassert_keeps {s t : State} (h : exec .pwrgdDeassert s = .next t) : t.pending = s.pending := by
  change execPwrgdDeassert s = .next t at h
  cases h
  split <;> rfl

theorem warmRstAssert_keeps {s t : State} (h : exec .warmRstAssert s = .next t) :
    t.clock = s.clock ∧ t.tap = s.tap ∧ t.pending = s.pending := by
  change execWarmRstAssert s = .next t at h
  cases h
  split <;> exact ⟨rfl, rfl, rfl⟩

theorem warmRstDeassert_keeps {e : StartEnv} {s t : State} (h : exec (.warmRstDeassert e) s = .next t) :
    t.clock = s.clock ∧ t.tap = s.tap ∧ t.pending = s.pending := by
  cases h
  exact ⟨rfl, rfl, rfl⟩

theorem vauxValid_keeps {s t : State} (h : exec .vauxValid s = .next t) :
    t.clock = s.clock ∧ t.tap = s.tap ∧ t.pending = s.pending := by
  cases h
  exact ⟨rfl, rfl, rfl⟩

theorem refClockEdge_keeps {s t : State} (h : exec .refClockEdge s = .next t) :
    t.pins = s.pins ∧ t.tap = s.tap ∧ t.pending = s.pending := by
  change execRefClockEdge s = .next t at h
  cases h
  split
  · exact ⟨rfl, rfl, rfl⟩
  · split <;> exact ⟨rfl, rfl, rfl⟩

theorem testAccessInstruction_keeps {op : TapOp} {s t : State} (h : exec (.testAccessInstruction op) s = .next t) :
    t.clock = s.clock ∧ t.pins = s.pins ∧ t.pending = s.pending := by
  change execTestAccessInstruction op s = .next t at h
  cases h
  split <;> exact ⟨rfl, rfl, rfl⟩

/-- Settles O5: a command of the pins, the clock or the test access port moves its own part, and every other one the device
alone. -/
theorem timePinsAndTestPortMoveAlone : Obligations.TimePinsAndTestPortMoveAlone := by
  unfold Obligations.TimePinsAndTestPortMoveAlone
  intro i s t h
  by_cases hi : ofPinsClockTap i = false
  · have d := exec_onlyDevice hi h
    exact ⟨fun _ _ _ => d.clock, fun _ _ _ _ _ => d.pins, fun _ _ => d.tap, d.pending⟩
  cases i
  case pwrgdAssert e =>
    obtain ⟨htap, hpending⟩ := pwrgdAssert_keeps h
    exact ⟨fun own => absurd rfl (own e), fun own => absurd rfl (own e), fun _ _ => htap, hpending⟩
  case pwrgdDeassert =>
    exact ⟨fun _ own => absurd rfl own, fun _ own => absurd rfl own, fun own => absurd rfl own, pwrgdDeassert_keeps h⟩
  case warmRstAssert =>
    obtain ⟨hclock, htap, hpending⟩ := warmRstAssert_keeps h
    exact ⟨fun _ _ _ => hclock, fun _ _ own => absurd rfl own, fun _ _ => htap, hpending⟩
  case warmRstDeassert e =>
    obtain ⟨hclock, htap, hpending⟩ := warmRstDeassert_keeps h
    exact ⟨fun _ _ _ => hclock, fun _ _ _ own => absurd rfl (own e), fun _ _ => htap, hpending⟩
  case vauxValid =>
    obtain ⟨hclock, htap, hpending⟩ := vauxValid_keeps h
    exact ⟨fun _ _ _ => hclock, fun _ _ _ _ own => absurd rfl own, fun _ _ => htap, hpending⟩
  case refClockEdge =>
    obtain ⟨hpins, htap, hpending⟩ := refClockEdge_keeps h
    exact ⟨fun _ _ own => absurd rfl own, fun _ _ _ _ _ => hpins, fun _ _ => htap, hpending⟩
  case testAccessInstruction op =>
    obtain ⟨hclock, hpins, hpending⟩ := testAccessInstruction_keeps h
    exact ⟨fun _ _ _ => hclock, fun _ _ _ _ _ => hpins, fun _ own => absurd rfl (own op), hpending⟩
  all_goals exact absurd rfl hi

end Sys2Proof.Machine
end

section
/-! PROOF. What a command of one rood can reach (R43, R45, R53), and that it needs roods that take part in work (R79, R80, R499);
with it obligation O6. -/
namespace Sys2Proof.Machine
open Sys2Proof

/-- The step acts in rood `r`: the device at large and every other rood stay, and nothing changes while roods take no part in
work. -/
def ActsIn (r : Nat) (s t : State) : Prop :=
  DeviceStays s t ∧ (∀ q, q ≠ r → t.dev.rood? q = s.dev.rood? q) ∧ (s.dev.roodsLive = false → t = s)

/-- A meaning that stays within the requests of a rood leaves the device at large as it is. -/
theorem onDev_deviceStays {f : W64 → Dev → Dev} {s : State}
    (h : FxOnly { s.dev with roods := (f s.clock.time s.dev).roods } (f s.clock.time s.dev)) : DeviceStays s (onDev f s) := by
  simp [DeviceStays, onDev_dev, h.comp, h.layout, h.pendingLayout, h.side, h.integ, h.snap, h.phase]

theorem onDev_actsIn {r : Nat} {f : W64 → Dev → Dev} {s : State}
    (bound : FxOnly { s.dev with roods := (f s.clock.time s.dev).roods } (f s.clock.time s.dev))
    (others : ∀ q, q ≠ r → (f s.clock.time s.dev).rood? q = s.dev.rood? q)
    (dead : s.dev.roodsLive = false → f s.clock.time s.dev = s.dev) : ActsIn r s (onDev f s) := by
  refine ⟨onDev_deviceStays bound, fun q hq => ?_, fun hl => ?_⟩
  · rw [onDev_dev, signal_rood?, others q hq]
  · rw [onDev, dead hl, signal_self]

/-- On NAND that has worn meanwhile, the work of a rood stays within its requests. -/
theorem wornRood_bound (d : Dev) (fl : Flash) (r : Nat) (f : Ctx → Rood → Rood) (t : W64) :
    FxOnly { d with roods := (({ d with flash := fl } : Dev).atRood r f t).roods } (({ d with flash := fl } : Dev).atRood r f t) :=
  have worn : FxOnly { d with roods := (({ d with flash := fl } : Dev).atRood r f t).roods }
      { d with flash := fl, roods := (({ d with flash := fl } : Dev).atRood r f t).roods } := rfl
  worn.trans (atRood_bound { d with flash := fl } r f t)

/-- Work of one rood behind a gate that is closed while roods take no part in work. -/
theorem gatedWork_actsIn (r : Nat) (f : Ctx → Rood → Rood) (wear : Flash → Flash) {gate : Dev → Bool} {s : State}
    (closed : s.dev.roodsLive = false → gate s.dev = false) :
    ActsIn r s (onDev (fun t d => if gate d then ({ d with flash := wear d.flash } : Dev).atRood r f t else d) s) := by
  cases hg : gate s.dev
  case false => exact onDev_actsIn (by rw [hg]; exact FxOnly.refl _) (fun _ _ => by rw [hg]; rfl) (fun _ => by rw [hg]; rfl)
  case true =>
    refine onDev_actsIn ?_ (fun q hq => ?_) (fun hl => absurd (closed hl) (by rw [hg]; decide))
    · rw [hg]
      exact wornRood_bound s.dev (wear s.dev.flash) r f s.clock.time
    · rw [hg]
      exact other_roods_stay { s.dev with flash := wear s.dev.flash } r q f s.clock.time hq

theorem onRood_actsIn (r : Nat) (f : Ctx → Rood → Rood) (s : State) : ActsIn r s (onRood r f s) :=
  gatedWork_actsIn r f id (gate := Dev.roodsLive) id

theorem onCxl_actsIn (r : Nat) (f : Ctx → Rood → Rood) (s : State) : ActsIn r s (onCxl r f s) :=
  gatedWork_actsIn r f id (gate := Dev.cxlReady) (fun hl => by rw [Dev.cxlReady, hl, Bool.false_and])

theorem onFlash_actsIn (w : Wear) (r : Nat) (f : Ctx → Rood → Rood) (s : State) : ActsIn r s (onFlash w r f s) :=
  gatedWork_actsIn r f (Flash.wear w) (gate := Dev.roodsLive) id

/-- A command of a rood answers a next state, and acts in its rood. -/
theorem exec_actsIn {i : Instr} {r : Nat} (h : roodOf i = some r) (s : State) : ∃ t, exec i s = .next t ∧ ActsIn r s t := by
  cases i <;> cases h
  case intakeLineSnoop | hostIndexLineSnoop | iringConsWrite => exact ⟨_, rfl, onCxl_actsIn _ _ s⟩
  case sesMigrate | sessionCommandDequeue | revivalDone | bushelDurable | ckpTakeDone | ckpRestore =>
    exact ⟨_, rfl, onFlash_actsIn _ _ _ s⟩
  all_goals exact ⟨_, rfl, onRood_actsIn _ _ s⟩

/-- Settles O6, from the reach of a command of a rood. -/
theorem roodCommandsStayInTheirRood : Obligations.RoodCommandsStayInTheirRood := by
  unfold Obligations.RoodCommandsStayInTheirRood
  refine ⟨fun i r s h => ?_, fun i r s h dead => ?_⟩
  · obtain ⟨t, run, stays, others, -⟩ := exec_actsIn h s
    exact ⟨t, run, stays, others⟩
  · obtain ⟨t, run, -, -, idle⟩ := exec_actsIn h s
    rw [run, idle dead]

end Sys2Proof.Machine
end

section
/-! PROOF. A start that stops in S01 or S02 (R484, R486, R528), and what power-down leaves (R60, R497, R511, R533); with them
obligation O7. -/
namespace Sys2Proof.Machine
open Sys2Proof

/-! ## Starts that stop early (Table 17.6) -/

/-- The device as a start begins: S01 of either path, no code given yet. -/
def Dev.begun (fast : Bool) (d : Dev) : Dev :=
  { d with boot := { d.boot with
    phase := .starting 1, fast := fast, step := 1, code := 0, codes := [], unitCodes := [], retained := false
    wasInProgress := false, licence := if fast then d.boot.licence else none } }

/-- The device in step `n` of a start. -/
def Dev.inStep (n : Nat) (d : Dev) : Dev := { d with boot := { d.boot with phase := .starting n, step := n } }

/-- The start has stopped with this code, and the device key is as it was before. -/
def StoppedWith (c : Nat) (d e : Dev) : Prop := e.boot.phase = .stopped ∧ e.boot.code = c ∧ e.boot.dik = d.boot.dik

/-- A Stop code of S01 to S03 writes no record (R486). -/
theorem stopStart_early {c : Nat} (h : codeStep c ≤ 3) (now : W64) (detail : Nat) (d : Dev) :
    StoppedWith c d (d.stopStart now c detail) := by
  unfold Dev.stopStart
  simp only [if_pos h]
  exact ⟨rfl, rfl, rfl⟩

theorem s01_railsOut {e : StartEnv} (h : e.railsOk = false) (now : W64) (d : Dev) : StoppedWith 0x0101 d (d.s01 e now) := by
  simpa [Dev.s01, h] using stopStart_early (by decide) now 0 d

theorem s01_noReference {e : StartEnv} (h : e.railsOk = true) (k : e.refOk = false) (now : W64) (d : Dev) :
    StoppedWith 0x0102 d (d.s01 e now) := by
  simpa [Dev.s01, h, k] using stopStart_early (by decide) now 0 d

theorem s01_passes {e : StartEnv} (h : e.railsOk = true) (k : e.refOk = true) (now : W64) (d : Dev) : d.s01 e now = d := by
  simp [Dev.s01, h, k]

theorem s02_fusesUnreadable {e : StartEnv} (h : e.fusesOk = false) (now : W64) (d : Dev) :
    StoppedWith 0x0201 d (d.s02 e now) := by
  simpa [Dev.s02, h] using stopStart_early (by decide) now 0 d

/-- A step that a start reaches runs on the device in it. -/
theorem bootStep_one {d : Dev} {n : Nat} (hd : d.boot.phase = .starting n) {e : StartEnv} (hr : 1 ≤ e.runTo) (now : W64) :
    d.bootStep e now 1 = (d.inStep 1).s01 e now := by
  simp [Dev.bootStep, hd, Nat.not_lt.mpr hr, Dev.inStep]

theorem bootStep_two {d : Dev} {n : Nat} (hd : d.boot.phase = .starting n) {e : StartEnv} (hr : 2 ≤ e.runTo) (now : W64) :
    d.bootStep e now 2 = (d.inStep 2).s02 e now := by
  simp [Dev.bootStep, hd, Nat.not_lt.mpr hr, Dev.inStep]

/-- No step follows a Stop code. -/
theorem bootStep_stopped {d : Dev} (h : d.boot.phase = .stopped) (e : StartEnv) (now : W64) (n : Nat) :
    d.bootStep e now n = d := by
  simp [Dev.bootStep, h]

theorem bootSteps_stopped {d : Dev} (h : d.boot.phase = .stopped) (e : StartEnv) (now : W64) (l : List Nat) :
    l.foldl (fun d n => d.bootStep e now n) d = d := by
  induction l with
  | nil => rfl
  | cons n l ih => rw [List.foldl_cons, bootStep_stopped h, ih]

theorem start_steps (fast : Bool) (e : StartEnv) (now : W64) (d : Dev) :
    d.start fast e now = (List.range' 3 12).foldl (fun d n => d.bootStep e now n)
      (((d.begun fast).bootStep e now 1).bootStep e now 2) := rfl

/-- A start whose first step stops it ends so. -/
theorem start_stoppedInS01 {c : Nat} {e : StartEnv} (hr : 1 ≤ e.runTo) {now : W64} {fast : Bool} {d : Dev}
    (h : StoppedWith c ((d.begun fast).inStep 1) (((d.begun fast).inStep 1).s01 e now)) :
    StoppedWith c d (d.start fast e now) := by
  rw [start_steps, bootStep_one rfl hr, bootStep_stopped h.1, bootSteps_stopped h.1]
  exact h

/-- A start whose second step stops it ends so. -/
theorem start_stoppedInS02 {c : Nat} {e : StartEnv} (hr : 2 ≤ e.runTo) (hrails : e.railsOk = true) (href : e.refOk = true)
    {now : W64} {fast : Bool} {d : Dev}
    (h : StoppedWith c (((d.begun fast).inStep 1).inStep 2) ((((d.begun fast).inStep 1).inStep 2).s02 e now)) :
    StoppedWith c d (d.start fast e now) := by
  rw [start_steps, bootStep_one rfl (by omega), s01_passes hrails href, bootStep_two rfl hr, bootSteps_stopped h.1]
  exact h

theorem start_railsOut {e : StartEnv} (hr : 1 ≤ e.runTo) (h : e.railsOk = false) (fast : Bool) (now : W64) (d : Dev) :
    StoppedWith 0x0101 d (d.start fast e now) := start_stoppedInS01 hr (s01_railsOut h now _)

theorem start_noReference {e : StartEnv} (hr : 1 ≤ e.runTo) (h : e.railsOk = true) (k : e.refOk = false) (fast : Bool)
    (now : W64) (d : Dev) : StoppedWith 0x0102 d (d.start fast e now) := start_stoppedInS01 hr (s01_noReference h k now _)

theorem start_fusesUnreadable {e : StartEnv} (hr : 2 ≤ e.runTo) (h : e.railsOk = true) (k : e.refOk = true)
    (m : e.fusesOk = false) (fast : Bool) (now : W64) (d : Dev) : StoppedWith 0x0201 d (d.start fast e now) :=
  start_stoppedInS02 hr h k (s02_fusesUnreadable m now _)

/-! ## PWRGD_ASSERT (R36, R484, R530, R533) -/

theorem fitNor_keeps (e : StartEnv) (d : Dev) : (d.fitNor e).regs = d.regs ∧ (d.fitNor e).boot.dik = d.boot.dik := by
  unfold Dev.fitNor
  split <;> exact ⟨rfl, rfl⟩

/-- The device as PWRGD finds it: a start on the full path, or the hold before it. -/
def Dev.powerOn (e : StartEnv) (warmRst : Bool) (now : W64) (d : Dev) : Dev :=
  if warmRst ∨ d.energy.thermTrip then (d.fitNor e).hold else (d.fitNor e).start false e now

theorem exec_pwrgdAssert {s : State} (h : s.pins.pwrgd = false) (e : StartEnv) :
    exec (.pwrgdAssert e) s = .next { s with
      pins := { s.pins with pwrgd := true }, clock := { time := 0, armed := true }
      dev := Dev.signal s.dev (s.dev.powerOn e s.pins.warmRst 0) } := by
  show execPwrgdAssert e s = _
  unfold execPwrgdAssert
  rw [h]
  rfl

theorem powerOn_held {d : Dev} {warmRst : Bool} (h : warmRst = true ∨ d.energy.thermTrip = true) (e : StartEnv) (now : W64) :
    (d.powerOn e warmRst now).boot.phase = .held ∧ (d.powerOn e warmRst now).regs.log = d.regs.log := by
  rw [Dev.powerOn, if_pos h]
  exact ⟨rfl, congrArg DevRegs.log (fitNor_keeps e d).1⟩

theorem powerOn_starts {d : Dev} (h : d.energy.thermTrip = false) (e : StartEnv) (now : W64) :
    d.powerOn e false now = (d.fitNor e).start false e now := by
  simp [Dev.powerOn, h]

/-- Without a hold, the first conditions that fail stop the start. -/
theorem powerOn_stops {d : Dev} (h : d.energy.thermTrip = false) {e : StartEnv} (hr : 2 ≤ e.runTo) (now : W64) :
    (e.railsOk = false → StoppedWith 0x0101 d (d.powerOn e false now)) ∧
    (e.railsOk = true → e.refOk = false → StoppedWith 0x0102 d (d.powerOn e false now)) ∧
    (e.railsOk = true → e.refOk = true → e.fusesOk = false → StoppedWith 0x0201 d (d.powerOn e false now)) := by
  have same : ∀ {c : Nat} {x : Dev}, StoppedWith c (d.fitNor e) x → StoppedWith c d x :=
    fun ⟨hphase, hcode, hdik⟩ => ⟨hphase, hcode, hdik.trans (fitNor_keeps e d).2⟩
  rw [powerOn_starts h]
  exact ⟨fun hrails => same (start_railsOut (by omega) hrails false now _),
    fun hrails href => same (start_noReference (by omega) hrails href false now _),
    fun hrails href hfuses => same (start_fusesUnreadable hr hrails href hfuses false now _)⟩

/-- PWRGD begins a start, or the hold before it. -/
theorem pwrgdAssert_begins {s : State} (h : s.pins.pwrgd = false) (e : StartEnv) :
    ∃ t, exec (.pwrgdAssert e) s = .next t ∧ t.pins = { s.pins with pwrgd := true } ∧ t.clock = { time := 0, armed := true } ∧
      t.tap = s.tap ∧ t.pending = s.pending ∧
      (s.pins.warmRst = true ∨ s.dev.energy.thermTrip = true → t.dev.boot.phase = .held ∧ t.dev.regs.log = s.dev.regs.log) ∧
      (s.pins.warmRst = false → s.dev.energy.thermTrip = false → 2 ≤ e.runTo →
        (e.railsOk = false → t.dev.boot.phase = .stopped ∧ t.dev.boot.code = 0x0101) ∧
        (e.railsOk = true → e.refOk = false → t.dev.boot.phase = .stopped ∧ t.dev.boot.code = 0x0102) ∧
        (e.railsOk = true → e.refOk = true → e.fusesOk = false →
          t.dev.boot.phase = .stopped ∧ t.dev.boot.code = 0x0201 ∧ t.dev.boot.dik = s.dev.boot.dik)) := by
  refine ⟨_, exec_pwrgdAssert h e, rfl, rfl, rfl, rfl, fun held => ?_, fun warm trip hr => ?_⟩
  · rw [signal_boot, signal_log]
    exact powerOn_held held e 0
  · obtain ⟨rails, ref, fuses⟩ := powerOn_stops trip hr 0
    rw [signal_boot, warm]
    exact ⟨fun a => ⟨(rails a).1, (rails a).2.1⟩, fun a b => ⟨(ref a b).1, (ref a b).2.1⟩, fuses⟩

/-! ## PWRGD_DEASSERT (R60, R497, R511, R533) -/

theorem exec_pwrgdDeassert {s : State} (h : s.pins.pwrgd = true) :
    exec .pwrgdDeassert s = .next { s with
      pins := { s.pins with pwrgd := false }, clock := { s.clock with armed := true }, tap := { s.tap with driving := false }
      dev := Dev.signal s.dev s.dev.powerOff } := by
  show execPwrgdDeassert s = _
  unfold execPwrgdDeassert
  rw [h]
  rfl

/-- Power-down leaves every rood as it is formed, with host memory alone beside it. -/
theorem powerOff_roods {d : Dev} {x : Rood} (hx : x ∈ d.powerOff.roods) :
    x.storageKey = 0 ∧ x.slots = [] ∧ x.kv.frames = [] ∧ x.quiet = true := by
  obtain ⟨y, -, rfl⟩ := List.mem_map.mp hx
  exact ⟨rfl, rfl, rfl, rfl⟩

/-- PWRGD going away ends the device's work; what is left stands in `Dev.powerOff`. -/
theorem pwrgdDeassert_ends {s : State} (h : s.pins.pwrgd = true) :
    ∃ t, exec .pwrgdDeassert s = .next t ∧ t.pins = { s.pins with pwrgd := false } ∧ t.clock = { s.clock with armed := true } ∧
      t.tap = { s.tap with driving := false } ∧ t.pending = s.pending ∧ t.dev.boot.phase = .off ∧
      t.dev.boot.nor = s.dev.boot.nor ∧ t.dev.boot.fuses = s.dev.boot.fuses ∧ t.dev.boot.dik = 0 ∧
      t.dev.boot.dxk = 0 ∧ t.dev.boot.ak = 0 ∧ t.dev.boot.licence = none ∧ t.dev.comp.composed = false ∧
      t.dev.comp.sealedTally = [] ∧ t.dev.regs.log = Log.empty ∧ t.dev.counters = [] ∧ t.dev.energy.sidebandCap = 1100 ∧
      t.dev.energy.thermTrip = s.dev.energy.thermTrip ∧ t.dev.side.usable = s.dev.side.usable ∧
      t.dev.flash.blocks = s.dev.flash.blocks ∧
      ∀ x ∈ t.dev.roods, x.storageKey = 0 ∧ x.slots = [] ∧ x.kv.frames = [] ∧ x.quiet = true := by
  refine ⟨_, exec_pwrgdDeassert h, rfl, rfl, rfl, rfl, ?_⟩
  simp only [signal_boot, signal_comp, signal_log, signal_counters, signal_energy, signal_side, signal_flash, signal_roods]
  exact ⟨rfl, rfl, rfl, rfl, rfl, rfl, rfl, rfl, rfl, rfl, rfl, rfl, rfl, rfl, rfl, fun x hx => powerOff_roods hx⟩

/-- Settles O7, from what each edge of PWRGD does. -/
theorem powerBeginsAndEndsTheDevice : Obligations.PowerBeginsAndEndsTheDevice := by
  unfold Obligations.PowerBeginsAndEndsTheDevice
  exact ⟨fun e _ h => pwrgdAssert_begins h e, fun _ h => pwrgdDeassert_ends h⟩

end Sys2Proof.Machine
end

section
/-! PROOF. The edges of the reference clock and its loss (R35, R36, R471), and with them obligation O11. -/
namespace Sys2Proof.Machine
open Sys2Proof

/-! ## REF_CLOCK_EDGE -/

/-- The rood with no tally: what a passing edge cannot change. -/
def Rood.untallied (x : Rood) : Rood := { x with tally := Tally.fresh 0 0 0 0 }

theorem activeFor_untallied (n : Nat) (x : Rood) : (x.activeFor n).untallied = x.untallied := by
  unfold Rood.activeFor
  split <;> rfl

/-- The device at an edge that adds to DEV_TIME: the active time of the roods that take part in work goes on. -/
def Dev.tick (d : Dev) : Dev := if d.roodsLive then { d with roods := d.roods.map (Rood.activeFor 10) } else d

theorem tick_roodsOnly (d : Dev) : d.tick = { d with roods := d.tick.roods } := by
  unfold Dev.tick
  split <;> rfl

theorem tick_untallied (d : Dev) : d.tick.roods.map Rood.untallied = d.roods.map Rood.untallied := by
  unfold Dev.tick
  split
  · simp [Function.comp_def, activeFor_untallied]
  · rfl

theorem exec_refClockEdge_first {s : State} (h : s.pins.pwrgd = true) (ha : s.clock.armed = true) :
    exec .refClockEdge s = .next { s with clock := { time := 0, armed := false } } := by
  show execRefClockEdge s = _
  simp [execRefClockEdge, h, ha]

theorem exec_refClockEdge_later {s : State} (h : s.pins.pwrgd = true) (ha : s.clock.armed = false) :
    exec .refClockEdge s = .next { s with clock := { s.clock with time := s.clock.time + 10 }, dev := s.dev.tick } := by
  show execRefClockEdge s = _
  simp [execRefClockEdge, Dev.tick, h, ha]

theorem time_stays_multiple_of_ten {t : W64} (h : t.toNat % 10 = 0) (room : t.toNat + 10 < 2 ^ 64) :
    (t + 10).toNat % 10 = 0 := by
  have sum : (t + 10).toNat = t.toNat + 10 := by
    rw [BitVec.toNat_add]
    exact Nat.mod_eq_of_lt room
  omega

/-- An edge moves DEV_TIME, and with it the active time of the roods alone. -/
theorem refClockEdge_moves_time {s : State} (h : s.pins.pwrgd = true) :
    ∃ t, exec .refClockEdge s = .next t ∧ t.pins = s.pins ∧ t.tap = s.tap ∧ t.dev = { s.dev with roods := t.dev.roods } ∧
      (s.clock.armed = true → t.clock.time = 0 ∧ t.clock.armed = false ∧ t.dev.roods = s.dev.roods) ∧
      (s.clock.armed = false → t.clock = { s.clock with time := s.clock.time + 10 } ∧
        (s.clock.time.toNat % 10 = 0 → s.clock.time.toNat + 10 < 2 ^ 64 → t.clock.time.toNat % 10 = 0)) ∧
      t.dev.roods.map Rood.untallied = s.dev.roods.map Rood.untallied := by
  cases ha : s.clock.armed
  case true =>
    exact ⟨_, exec_refClockEdge_first h ha, rfl, rfl, rfl, fun _ => ⟨rfl, rfl, rfl⟩, nofun, rfl⟩
  case false =>
    exact ⟨_, exec_refClockEdge_later h ha, rfl, rfl, tick_roodsOnly s.dev, nofun,
      fun _ => ⟨rfl, time_stays_multiple_of_ten⟩, tick_untallied s.dev⟩

/-! ## REF_CLOCK_LOSS -/

/-- FAULT_N is asserted in a powered device that shows REF_LOSS (R474). -/
theorem faultN_of_refLoss {d : Dev} (hp : d.boot.phase = .ready) (hl : d.integ.refLoss = true) : d.faultN = true := by
  simp [Dev.faultN, hp, hl]

theorem loseClock_marks {d : Dev} (hp : d.boot.phase = .ready) (hl : d.integ.clockLost = false) (now : W64) :
    (d.loseClock now).integ = { d.integ with refLoss := true, clockLost := true } ∧
    (d.loseClock now).roods = d.roods.map (fun x => { x with quiet := true }) ∧
    (d.loseClock now).regs.log = d.regs.log.write 256 (({ LogEntry.plain now 0x01 0 0 with cls := 0x0C }).ofUnit .refClock) ∧
    (d.loseClock now).energy = d.energy ∧ (d.loseClock now).comp = d.comp ∧ (d.loseClock now).boot = d.boot := by
  have goes : (d.boot.phase == .off || d.integ.clockLost) = false := by rw [hp, hl]; rfl
  unfold Dev.loseClock
  rw [goes]
  exact ⟨rfl, rfl, rfl, rfl, rfl, rfl⟩

theorem exec_refClockLoss (s : State) :
    exec .refClockLoss s = .next { s with dev := Dev.signal s.dev (s.dev.loseClock s.clock.time) } := rfl

/-- The loss of the clock is marked and logged, and no rood writes to host memory any more. -/
theorem refClockLoss_marks {s : State} (hp : s.dev.boot.phase = .ready) (hl : s.dev.integ.clockLost = false) :
    ∃ t, exec .refClockLoss s = .next t ∧ t.pins = s.pins ∧ t.clock = s.clock ∧
      t.dev.integ = { s.dev.integ with refLoss := true, clockLost := true } ∧ t.dev.faultN = true ∧
      (∀ x ∈ t.dev.roods, x.quiet = true) ∧ t.dev.regs.log.head = s.dev.regs.log.head + 1 ∧
      (∃ k, t.dev.regs.log.entries.head? = some k ∧ k.kind = 1 ∧ k.cls = 0x0C ∧ k.unitKind = 0x0F) ∧
      t.dev.energy = s.dev.energy ∧ t.dev.comp = s.dev.comp ∧ t.dev.boot = s.dev.boot := by
  obtain ⟨hinteg, hroods, hlog, henergy, hcomp, hboot⟩ := loseClock_marks hp hl s.clock.time
  refine ⟨_, exec_refClockLoss s, rfl, rfl, (signal_integ _ _).trans hinteg, faultN_of_refLoss ?phase ?lost, ?quiet, ?head,
    ?entry, (signal_energy _ _).trans henergy, (signal_comp _ _).trans hcomp, (signal_boot _ _).trans hboot⟩
  case phase => rw [signal_boot, hboot, hp]
  case lost => rw [signal_integ, hinteg]
  case quiet =>
    rw [signal_roods, hroods]
    intro x hx
    obtain ⟨y, -, rfl⟩ := List.mem_map.mp hx
    rfl
  case head => rw [signal_log, hlog]; rfl
  case entry => rw [signal_log, hlog]; exact ⟨_, rfl, rfl, rfl, rfl⟩

/-- Settles O11, from what an edge of the reference clock and its loss do. -/
theorem timeFollowsTheReferenceClock : Obligations.TimeFollowsTheReferenceClock := by
  unfold Obligations.TimeFollowsTheReferenceClock
  exact ⟨fun _ h => refClockEdge_moves_time h, fun _ hp hl => refClockLoss_marks hp hl⟩

end Sys2Proof.Machine
end

section
/-! PROOF. A state without power from which CHAIN_EPOCH_TIMEOUT (R390) makes a record of a peer, and with it the refutation of
obligation O3. -/
namespace Sys2Proof.Machine
open Sys2Proof

/-- A device without power in which rood 0 still holds a vector request of device 5. `Unpowered` asks nothing of the work of a rood
but its key and its scrub, so that the state satisfies it; no run reaches it, since a power-down leaves every rood newly formed. -/
def heldRequest : State :=
  { State.reset with dev := { Dev.reset with roods := [{ Rood.form 0 0 1 0 with vecReqs := [(5, 0, [])] }] } }

theorem heldRequest_unpowered : Unpowered heldRequest := fun _ => by and_intros <;> decide

/-- The request waits on the pair, so that the end of its epoch is recorded for a peer that had no record. -/
theorem heldRequest_epochTimeout : (heldRequest.dev.epochTimeout 0 5).chain.pairs = [Pair.fresh 5] := rfl

/-- Refutes O3: the invariant is not inductive. In `heldRequest` the timeout of the epoch towards device 5, which tests neither
power nor READY, leaves a pair in the chain of a device without power. -/
theorem not_unpoweredIsKept : ¬ Obligations.UnpoweredIsKept := by
  unfold Obligations.UnpoweredIsKept
  intro keeps
  obtain ⟨-, -, -, -, -, -, -, -, -, noPairs, -, -⟩ := keeps (.chainEpochTimeout 5) heldRequest _ heldRequest_unpowered rfl rfl
  rw [onDev_dev, signal_chain] at noPairs
  exact absurd (heldRequest_epochTimeout.symm.trans noPairs) (by decide)

end Sys2Proof.Machine
end

section
/-! PROOF. The instructions of the test access port (R57), and with them obligation O13. -/
namespace Sys2Proof.Machine
open Sys2Proof

theorem exec_testAccessInstruction {s : State} (h : s.pins.pwrgd = true) (op : TapOp) :
    exec (.testAccessInstruction op) s = .next { s with tap := s.tap.run op } := by
  show execTestAccessInstruction op s = _
  rw [execTestAccessInstruction, if_pos h]

/-- Whatever is shifted in, one of the four instructions is in force, and EXTEST alone drives the boundary cells. -/
theorem tap_run_inForce (op : TapOp) (t : Tap) :
    (t.run op).instr ≤ 3 ∧ ((t.run op).driving = true ↔ op = .extest) ∧ ((t.run op).driving = true ↔ (t.run op).instr = 3) := by
  cases op <;> simp [Tap.run]

/-- SAMPLE/PRELOAD alone takes cells; BYPASS shifts its bit out after a zero. -/
theorem tap_run_cells (op : TapOp) (t : Tap) :
    (∀ cells, op = .samplePreload cells → (t.run op).cells = cells) ∧
    ((∀ cells, op ≠ .samplePreload cells) → (t.run op).cells = t.cells) ∧
    (∀ b, op = .bypass b → (t.run op).shifted = [false, b]) := by
  cases op <;> simp [Tap.run]

/-- Settles O13, from what an instruction does to the port. -/
theorem testPortReachesOnlyItsCells : Obligations.TestPortReachesOnlyItsCells := by
  unfold Obligations.TestPortReachesOnlyItsCells
  intro op s h
  obtain ⟨hinstr, hextest, hthree⟩ := tap_run_inForce op s.tap
  exact ⟨_, exec_testAccessInstruction h op, rfl, rfl, rfl, hinstr, hextest, hthree, tap_run_cells op s.tap⟩

end Sys2Proof.Machine
end

section
/-! PROOF. What a write through an HDM decoder leaves in the staging region and its poison marks (R51, R52, R160, R163), and with it
obligation O27. -/
namespace Sys2Proof.Machine
open Sys2Proof

/-! ## Finite maps with numeric keys -/

theorem lookKey_putKey_same {β : Type} (k : Nat) (v : β) (m : List (Nat × β)) : lookKey k (putKey k v m) = some v := by
  induction m with
  | nil => simp [putKey, lookKey]
  | cons p m ih =>
    obtain ⟨a, b⟩ := p
    unfold putKey
    split
    · simp [lookKey]
    · split
      · simp [lookKey]
      · next ne => simp [lookKey, ne, ih]

theorem lookKey_putKey_other {β : Type} {j k : Nat} (h : j ≠ k) (v : β) (m : List (Nat × β)) :
    lookKey j (putKey k v m) = lookKey j m := by
  induction m with
  | nil => simp [putKey, lookKey, h.symm]
  | cons p m ih =>
    obtain ⟨a, b⟩ := p
    unfold putKey
    split
    · simp [lookKey, h.symm]
    · split
      · next eq => simp [lookKey, h.symm, eq]
      · simp [lookKey, ih]

/-- Entries that a filter on the keys takes away are not found, and the others are. -/
theorem lookKey_filter {β : Type} (p : Nat → Bool) (k : Nat) (m : List (Nat × β)) :
    lookKey k (m.filter (fun q => p q.1)) = if p k then lookKey k m else none := by
  induction m with
  | nil => simp [lookKey]
  | cons q m ih =>
    obtain ⟨a, b⟩ := q
    by_cases hk : a = k
    · subst hk
      cases ha : p a <;> simp [lookKey, ha, ih]
    · cases ha : p a <;> simp [lookKey, ha, hk, ih]

theorem lookKey_delKey_same {β : Type} (k : Nat) (m : List (Nat × β)) : lookKey k (delKey k m) = none := by
  rw [delKey, lookKey_filter (fun n => n != k)]
  simp

theorem lookKey_delKey_other {β : Type} {j k : Nat} (h : j ≠ k) (m : List (Nat × β)) : lookKey j (delKey k m) = lookKey j m := by
  rw [delKey, lookKey_filter (fun n => n != k)]
  simp [h]

/-- Binding every key of a list to one value leaves each of them bound to it. -/
theorem lookKey_foldl_putKey {β : Type} {k : Nat} (v : β) {l : List Nat} {m : List (Nat × β)}
    (h : k ∈ l ∨ lookKey k m = some v) : lookKey k (l.foldl (fun m j => putKey j v m) m) = some v := by
  induction l generalizing m with
  | nil => simpa using h
  | cons j l ih =>
    apply ih
    by_cases hj : k = j
    · exact .inr (hj ▸ lookKey_putKey_same j v m)
    · rw [lookKey_putKey_other hj]
      exact h.imp_left (fun hmem => (List.mem_cons.mp hmem).resolve_left hj)

/-! ## Lines of a write -/

theorem mem_wholeLines {off n l : Nat} (lo : off ≤ 64 * l) (hi : 64 * l + 64 ≤ off + n) : l ∈ wholeLines off n := by
  simp only [wholeLines, ceilDiv, List.mem_map, List.mem_range]
  exact ⟨l - (off + 64 - 1) / 64, by omega, by omega⟩

theorem mem_touchedLines {off n l : Nat} (lo : off < 64 * l + 64) (hi : 64 * l < off + n) : l ∈ touchedLines off n := by
  simp only [touchedLines, ceilDiv, List.mem_map, List.mem_range]
  exact ⟨l - off / 64, by omega, by omega⟩

/-- A write of the staging region changes the region and its poison marks alone. -/
theorem bulkWrite_keeps (off : Nat) (bytes : List Byte) (poison : Bool) (x : Rood) :
    x.bulkWrite off bytes poison =
      { x with staging := memWrite x.staging off bytes, stagingBad := (x.bulkWrite off bytes poison).stagingBad } := rfl

/-- Clean data leaves no mark on a line that it covers whole. -/
theorem bulkWrite_clean {off : Nat} {bytes : List Byte} (x : Rood) {l : Nat} (lo : off ≤ 64 * l)
    (hi : 64 * l + 64 ≤ off + bytes.length) : lookKey l (x.bulkWrite off bytes false).stagingBad = none := by
  show lookKey l (x.stagingBad.filter (fun p => !(wholeLines off bytes.length).contains p.1)) = none
  rw [lookKey_filter (fun n => !(wholeLines off bytes.length).contains n)]
  simp [mem_wholeLines lo hi]

/-- Poison marks every line that it touches. -/
theorem bulkWrite_poison {off : Nat} {bytes : List Byte} (x : Rood) {l : Nat} (lo : off < 64 * l + 64)
    (hi : 64 * l < off + bytes.length) : lookKey l (x.bulkWrite off bytes true).stagingBad = some false :=
  lookKey_foldl_putKey false (.inl (mem_touchedLines lo hi))

/-! ## BULK_WINDOW_WRITE -/

/-- The decoder of a whole bulk window decodes what lies in its 8 GiB. -/
theorem decode_whole (base addr n : Nat) : (Hdm.whole base).decode addr n =
    if base ≤ addr ∧ addr + n ≤ base + 2 ^ 33 then some (addr - base) else none := by
  simp [Hdm.decode, Hdm.whole, bulkSize]

theorem exec_bulkWindowWrite {base addr : Nat} {bytes : List Byte} (lo : base ≤ addr)
    (hi : addr + bytes.length ≤ base + 2 ^ 33) (r : Nat) (poison : Bool) (s : State) :
    exec (.bulkWindowWrite r ⟨base, addr⟩ bytes poison) s = .next
      (onCxl r (fun _ x => ({ x with hdm := Hdm.whole base } : Rood).bulkWrite (addr - base) bytes poison) s) := by
  have decodes : (Hdm.whole base).decode addr bytes.length = some (addr - base) := by
    rw [decode_whole, if_pos ⟨lo, hi⟩]
  show execBulkWindowWrite r ⟨base, addr⟩ bytes poison s = _
  simp [execBulkWindowWrite, Rood.cxlWrite, decodes]

theorem exec_bulkWindowWrite_outside {base addr : Nat} {bytes : List Byte} (h : addr < base ∨ base + 2 ^ 33 < addr + bytes.length)
    (r : Nat) (poison : Bool) (s : State) :
    exec (.bulkWindowWrite r ⟨base, addr⟩ bytes poison) s = .fault .outsideBulkWindow := by
  have misses : (Hdm.whole base).decode addr bytes.length = none := by
    rw [decode_whole, if_neg (by omega)]
  show execBulkWindowWrite r ⟨base, addr⟩ bytes poison s = _
  simp [execBulkWindowWrite, misses]

/-- Without a link that presents CXL.mem a meaning that needs it does nothing (R163). -/
theorem onCxl_noLink {s : State} (h : s.dev.linkFull = false) (r : Nat) (f : Ctx → Rood → Rood) : onCxl r f s = s := by
  simp [onCxl, onDev, Dev.cxlReady, h, signal_self]

/-- A rood that takes part in work, on a full link, becomes what the command's work makes of it. -/
theorem onCxl_becomes {s : State} {r : Nat} {x : Rood} (h : Works s r x) (hl : s.dev.linkFull = true) (f : Ctx → Rood → Rood) :
    Becomes (onCxl r f s) r x (f (ctxOf s) x) := by
  have same : onCxl r f s = onRood r f s := by simp [onCxl, onRood, onDev, Dev.cxlReady, hl]
  rw [same]
  exact onRood_becomes h f

/-- Settles O27, from a write of the staging region at its offset in the window. -/
theorem bulkWindowHoldsItsBytes : Obligations.BulkWindowHoldsItsBytes := by
  unfold Obligations.BulkWindowHoldsItsBytes
  intro r base addr bytes poison s x hw _
  refine ⟨fun lo hi => ⟨fun hl => ?_, fun hl => ?_⟩, fun out => exec_bulkWindowWrite_outside out r poison s⟩
  · rw [exec_bulkWindowWrite lo hi, onCxl_noLink hl]
  · obtain ⟨stays, others, -⟩ :=
      onCxl_actsIn r (fun _ x => ({ x with hdm := Hdm.whole base } : Rood).bulkWrite (addr - base) bytes poison) s
    refine ⟨_, _, exec_bulkWindowWrite lo hi r poison s, stays, others, onCxl_becomes hw hl _, bulkWrite_keeps _ _ _ _,
      memRead_memWrite_inside _ _ _, memRead_memWrite_outside _ _ _, memWrite_wf _ _ _, ?clean, ?poisoned⟩
    case clean =>
      rintro rfl l
      exact bulkWrite_clean _
    case poisoned =>
      rintro rfl l
      exact bulkWrite_poison _

end Sys2Proof.Machine
end

section
/-! PROOF. Changes of the device that cause no message (R518), and the answers of the sideband in its turn (R81 to R84); with them
obligation O54. -/
namespace Sys2Proof.Machine
open Sys2Proof

/-! ## Changes that cause no message (R518, Table 19.17) -/

/-- Nothing by which the device judges whether a message is due differs. -/
def SameSigns (a b : Dev) : Prop :=
  b.regs.log.head = a.regs.log.head ∧ b.faultReg = a.faultReg ∧ b.boot.phase = a.boot.phase ∧ b.snap.number = a.snap.number ∧
    b.energy.thermAlert = a.energy.thermAlert ∧ b.energy.inForce = a.energy.inForce

theorem signal_silent {a b : Dev} (h : SameSigns a b) : Dev.signal a b = b := by
  obtain ⟨hlog, hfault, hphase, hnumber, halert, hforce⟩ := h
  have reached : ∀ p : Phase, (a.boot.phase == p && a.boot.phase != p) = false := fun p => Bool.and_not_self _
  unfold Dev.signal
  simp only [hlog, hfault, hphase, hnumber, halert, hforce, bne_self_eq_false, Bool.false_and, Bool.and_not_self, reached,
    Bool.or_self, Bool.false_eq_true, if_false]

theorem onDev_silent {f : W64 → Dev → Dev} {s : State} {d : Dev} (h : f s.clock.time s.dev = d) (hs : SameSigns s.dev d) :
    onDev f s = { s with dev := d } := by
  rw [onDev, h, signal_silent hs]

theorem onDev_idle {f : W64 → Dev → Dev} {s : State} (h : f s.clock.time s.dev = s.dev) : onDev f s = s :=
  onDev_silent h ⟨rfl, rfl, rfl, rfl, rfl, rfl⟩

/-- A meaning that only answers a request of the sideband sends nothing else. -/
theorem onDev_onlyAnswers {f : W64 → Dev → Dev} {s : State} {q : SbReq} {result : Nat} {payload : List Byte}
    (h : f s.clock.time s.dev = s.dev.sbAnswer q result payload) : OnlyAnswers s (onDev f s) q result payload :=
  onDev_silent h ⟨rfl, rfl, rfl, rfl, rfl, rfl⟩

/-! ## A control request in its turn -/

theorem exec_sideRow {code : Nat} (h : code ∈ [1, 2, 3, 4, 5, 6, 8]) (msg : List Byte) (pass : Bool) (s : State) :
    exec (sideRow code msg pass) s = .next (onDev (fun t d => d.sbArrive t code (code == 8 && pass) msg) s) := by
  simp only [List.mem_cons, List.not_mem_nil, or_false] at h
  obtain rfl | rfl | rfl | rfl | rfl | rfl | rfl := h <;> rfl

/-- A control request that finds no other is judged as it arrives; R80 refuses a COMPOSE while a RELEASE runs. -/
theorem sbArrive_turn {s : State} {msg : List Byte} {code : Nat} {q : SbReq} (asks : Asks s msg code q) (free : SideFree s)
    (accepted : code = 1 → q.formatOk = true → s.dev.comp.releasing = false) (now : W64) (pass : Bool) :
    s.dev.sbArrive now code pass msg = s.dev.sbRun now pass q := by
  obtain ⟨usable, request, rfl⟩ := asks
  obtain ⟨running, queue⟩ := free
  have notRefused : ¬ (q.code = 0x01 ∧ q.formatOk = true ∧ s.dev.comp.releasing = true) :=
    fun ⟨hc, hf, hr⟩ => by simp [accepted hc hf] at hr
  simp [Dev.sbArrive, usable, request, running, queue, notRefused]

/-! ## Requests that are misformed (R82) -/

theorem allZero_iff (b : List Byte) : allZero b = true ↔ ∀ i, b.getD i 0 = 0 := by
  simp only [allZero, List.all_eq_true, beq_iff_eq]
  constructor
  · intro h i
    by_cases hi : i < b.length
    · rw [List.getD_eq_getElem _ _ hi]
      exact h _ (List.getElem_mem hi)
    · exact List.getD_eq_default _ _ (by omega)
  · intro h v hv
    obtain ⟨i, hi, rfl⟩ := List.mem_iff_getElem.mp hv
    rw [← List.getD_eq_getElem _ 0 hi, h]

theorem not_allZero {b : List Byte} {i : Nat} (h : b.getD i 0 ≠ 0) : allZero b = false :=
  Bool.eq_false_iff.mpr (fun all => h ((allZero_iff b).mp all i))

/-- Byte `i` of a string is byte `i - off` of the rest from `off` on. -/
theorem getD_drop {off i : Nat} (lo : off ≤ i) (b : List Byte) : (b.drop off).getD (i - off) 0 = b.getD i 0 := by
  simp only [List.getD_eq_getElem?_getD, List.getElem?_drop, Nat.add_sub_cancel' lo]

/-- Byte `i` of a string is byte `i - off` of a piece of it that holds it. -/
theorem getD_cut {off len i : Nat} (lo : off ≤ i) (hi : i < off + len) (b : List Byte) :
    (cut off len b).getD (i - off) 0 = b.getD i 0 := by
  have inside : i - off < len := by omega
  rw [← getD_drop lo b]
  simp only [cut, List.getD_eq_getElem?_getD, List.getElem?_take, inside, if_true]

theorem headOk_of_reserved {q : SbReq} (h : u8At 4 q.msg / 2 ≠ 0 ∨ u16At 6 q.msg ≠ 0) : q.headOk = false := by
  rw [SbReq.headOk, Bool.and_eq_false_iff, beq_eq_false_iff_ne, beq_eq_false_iff_ne]
  exact h

/-- A misformed control request fails the check of its form (Table 2.13). -/
theorem misformed_formatOk {q : SbReq} (h : Misformed q) (hc : q.code ∈ [1, 2, 3, 4, 5, 6, 7, 8]) : q.formatOk = false := by
  rcases h with h | h | h
  · simp [SbReq.formatOk, headOk_of_reserved (.inl h)]
  · simp [SbReq.formatOk, headOk_of_reserved (.inr h)]
  unfold SbReq.formatOk
  refine Bool.and_eq_false_iff.mpr (.inr ?_)
  simp only [List.mem_cons, List.not_mem_nil, or_false] at hc
  obtain hc | hc | hc | hc | hc | hc | hc | hc := hc <;> rw [hc] at h <;> simp only [hc]
  · simpa using h
  · simpa using h
  · simpa using h
  · simpa using h
  · obtain h | h | ⟨i, lo, hi, h⟩ := h
    · simp [h]
    · simp [Nat.not_le.mpr h]
    · simp [not_allZero (i := i - 1) (ne_of_eq_of_ne (getD_cut (len := 7) lo hi q.payload) h)]
  · obtain h | h := h <;> simp [h]
  · obtain h | ⟨i, -, h⟩ := h
    · simp [h]
    · simp [not_allZero h]
  · obtain h | ⟨i, lo, -, h⟩ := h
    · simp [h]
    · simp [-List.drop_one, not_allZero (i := i - 1) (ne_of_eq_of_ne (getD_drop lo q.payload) h)]

/-- What is logged as a cap out of range has no other fault (R83). -/
theorem misformed_capOutside {q : SbReq} (h : Misformed q) : q.capOutside = false := by
  rw [Bool.eq_false_iff]
  intro out
  simp only [SbReq.capOutside, SbReq.headOk, Bool.and_eq_true, beq_iff_eq] at out
  obtain ⟨⟨⟨⟨hc, h4, h6⟩, hl⟩, h2⟩, -⟩ := out
  simp [Misformed, hc, h4, h6, hl, h2] at h

theorem sbRun_misformed {q : SbReq} (h : Misformed q) (hc : q.code ∈ [1, 2, 3, 4, 5, 6, 7, 8]) (now : W64) (pass : Bool) (d : Dev) :
    d.sbRun now pass q = d.sbAnswer q sbFormat [] := by
  simp [Dev.sbRun, misformed_formatOk h hc, misformed_capOutside h]

/-- RESET is judged beside the requests that run or wait (R84). -/
theorem sbReset_format {s : State} {msg : List Byte} {q : SbReq} (asks : Asks s msg 0x07 q) (h : q.formatOk = false) (now : W64)
    (e : StartEnv) : s.dev.sbReset now msg e = s.dev.sbAnswer q sbFormat [] := by
  obtain ⟨usable, request, code⟩ := asks
  simp [Dev.sbReset, usable, request, code, h]

/-- Settles O54: a misformed request fails the check of its form, which comes before every other. -/
theorem misformedRequestsHaveNoEffect : Obligations.MisformedRequestsHaveNoEffect := by
  unfold Obligations.MisformedRequestsHaveNoEffect
  intro msg q s bad
  refine ⟨fun code pass hcode asks free => ⟨_, exec_sideRow hcode msg pass s, onDev_onlyAnswers ?_⟩,
    fun e asks => ⟨_, rfl, onDev_onlyAnswers ?_⟩⟩
  · have known : q.code ∈ [1, 2, 3, 4, 5, 6, 7, 8] := by
      rw [asks.2.2]
      simp only [List.mem_cons, List.not_mem_nil, or_false] at hcode ⊢
      omega
    rw [sbArrive_turn asks free (fun _ ok => by simp [misformed_formatOk bad known] at ok), sbRun_misformed bad known]
  · exact sbReset_format asks (misformed_formatOk bad (by simp [asks.2.2])) _ _

end Sys2Proof.Machine
end

section
/-! PROOF. The requests of Table 18.6 and requests of neither table (R81, R83, R84, R505, R507, R512), and with them obligation O55. -/
namespace Sys2Proof.Machine
open Sys2Proof

/-! ## What is no request (R81) -/

theorem sbArrive_noRequest {msg : List Byte} (h : sbRequest msg = none) (now : W64) (code : Nat) (pass : Bool) (d : Dev) :
    d.sbArrive now code pass msg = d := by
  simp [Dev.sbArrive, h]

theorem sbRead_noRequest {msg : List Byte} (h : sbRequest msg = none) (code : Nat) (f : SbReq → Dev → Dev) (d : Dev) :
    d.sbRead code msg f = d := by
  simp [Dev.sbRead, h]

theorem sidebandUnsupported_discards {msg : List Byte} (h : sbRequest msg = none) (s : State) :
    exec (.sidebandUnsupported msg) s = .next s :=
  congrArg _ (onDev_idle (by simp [h]))

/-- A code of neither table is answered UNSUPPORTED. -/
theorem sidebandUnsupported_answers {s : State} {msg : List Byte} {q : SbReq} (hu : s.dev.side.usable = true)
    (h : sbRequest msg = some q) (control : ¬ (1 ≤ q.code ∧ q.code ≤ 8)) (table : ¬ (0x10 ≤ q.code ∧ q.code ≤ 0x13)) :
    ∃ t, exec (.sidebandUnsupported msg) s = .next t ∧ OnlyAnswers s t q sbUnsupported [] := by
  have neither : ¬ ((1 ≤ q.code ∧ q.code ≤ 8) ∨ (0x10 ≤ q.code ∧ q.code ≤ 0x13)) := fun k => k.elim control table
  exact ⟨_, rfl, onDev_onlyAnswers (by simp only [hu, h, neither, Bool.not_true, Bool.false_eq_true, if_false])⟩

/-! ## Requests that are read (Table 18.6) -/

/-- A request of Table 18.6 is answered beside those that run or wait. -/
theorem sbRead_asked {s : State} {msg : List Byte} {code : Nat} {q : SbReq} (asks : Asks s msg code q) (f : SbReq → Dev → Dev) :
    s.dev.sbRead code msg f = if q.formatOk then f q s.dev else s.dev.sbAnswer q sbFormat [] := by
  obtain ⟨usable, request, rfl⟩ := asks
  cases hf : q.formatOk <;> simp [Dev.sbRead, usable, request, hf]

/-- A piece of an object that begins at its end, or behind it, is empty. -/
theorem sbPiece_beyond {obj : List Byte} {off : Nat} (h : obj.length ≤ off) : sbPiece obj off = leBytes 4 obj.length ++ zeros 4 := by
  simp [sbPiece, cut, List.drop_eq_nil_of_le h]

/-- The tallies that a request finds: those of a composition that no release has sealed. -/
theorem tallyBytes_eq (now : W64) (d : Dev) :
    (d.comp.composed = false ∨ d.comp.releasing = true → d.tallyBytes now = []) ∧
    (d.comp.composed = true → d.comp.releasing = false → d.tallyBytes now = (d.tallies now).flatMap Tally.bytes) := by
  constructor
  · rintro (h | h) <;> simp [Dev.tallyBytes, h]
  · intro hc hr
    simp [Dev.tallyBytes, hc, hr]

/-- GET_SEALED and GET_TALLIES answer with a piece of their object. -/
theorem pieces_answered {i : Instr} {msg : List Byte} {code : Nat} {obj : List Byte} {s : State} {q : SbReq}
    (h : (i = .getSealed msg ∧ code = 0x13 ∧ obj = s.dev.comp.sealedTally) ∨
      (i = .getTallies msg ∧ code = 0x12 ∧ (s.dev.comp.composed = false ∨ s.dev.comp.releasing = true) ∧ obj = []) ∨
      (i = .getTallies msg ∧ code = 0x12 ∧ s.dev.comp.composed = true ∧ s.dev.comp.releasing = false ∧
        obj = (s.dev.tallies s.clock.time).flatMap Tally.bytes))
    (asks : Asks s msg code q) (hf : q.formatOk = true) :
    ∃ t, exec i s = .next t ∧ OnlyAnswers s t q sbSuccess (sbPiece obj (u32At 0 q.payload)) := by
  obtain ⟨rfl, rfl, rfl⟩ | ⟨rfl, rfl, out, rfl⟩ | ⟨rfl, rfl, composed, open', rfl⟩ := h
  · refine ⟨_, rfl, onDev_onlyAnswers ?_⟩
    rw [sbRead_asked asks, if_pos hf]
  · refine ⟨_, rfl, onDev_onlyAnswers ?_⟩
    rw [sbRead_asked asks, if_pos hf, (tallyBytes_eq _ _).1 out]
  · refine ⟨_, rfl, onDev_onlyAnswers ?_⟩
    rw [sbRead_asked asks, if_pos hf, (tallyBytes_eq _ _).2 composed open']

/-- A request of Table 18.6 that is misformed is answered FORMAT. -/
theorem sbRead_misformed {s : State} {msg : List Byte} {code : Nat} {q : SbReq} (asks : Asks s msg code q) (hf : q.formatOk = false)
    (f : SbReq → Dev → Dev) : s.dev.sbRead code msg f = s.dev.sbAnswer q sbFormat [] := by
  rw [sbRead_asked asks, hf]
  rfl

/-! ## Snapshots of the device (R505, R507) -/

/-- The snapshot state once a request has started a snapshot or joined the one that runs. -/
def DevSnap.joined (counters : List (CtrKey × Nat)) (q : SbReq) (n : DevSnap) : DevSnap :=
  { n with
    busy := true, waiting := n.waiting ++ [q]
    latched := if n.busy then n.latched else (List.range 32).map (fun i => counterGet ⟨.device, 0, i⟩ counters) }

theorem startSnap_joined (q : SbReq) (d : Dev) :
    ({ d.startSnap with snap := { d.startSnap.snap with waiting := d.startSnap.snap.waiting ++ [q] } } : Dev) =
      { d with snap := d.snap.joined d.counters q } := by
  cases hb : d.snap.busy <;> simp [Dev.startSnap, DevSnap.joined, hb]

/-- Answers of one result and payload to a list of requests leave everything but the outputs, and each of them leaves. -/
theorem foldl_sbAnswer (l : List SbReq) (result : Nat) (payload : Dev → List Byte) (hp : ∀ d o, payload { d with out := o } = payload d)
    (d : Dev) :
    l.foldl (fun d q => d.sbAnswer q result (payload d)) d =
      { d with out := d.out ++ l.map (fun q => .sideband (sbResponse q.code q.inst result (payload d))) } := by
  induction l generalizing d with
  | nil => simp
  | cons q l ih =>
    rw [List.foldl_cons, ih]
    simp [Dev.sbAnswer, hp]

/-- The end of a snapshot: NUMBER advances, the latched counters become the shadows, and each request that waits is answered. -/
theorem endSnap_busy {d : Dev} (h : d.snap.busy = true) :
    d.endSnap = { d with
      snap := { d.snap with number := snapNext d.snap.number, busy := false, shadows := d.snap.latched, waiting := [] }
      out := d.out ++ d.snap.waiting.map (fun q => .sideband (sbResponse q.code q.inst sbSuccess
        (leBytes 4 (snapNext d.snap.number) ++ zeros 4 ++ d.snap.latched.flatMap (leBytes 8)))) } := by
  unfold Dev.endSnap
  rw [h]
  exact foldl_sbAnswer _ _ (fun e => leBytes 4 (snapNext d.snap.number) ++ zeros 4 ++ e.snap.shadows.flatMap (leBytes 8))
    (fun _ _ => rfl) _

theorem endSnap_idle {d : Dev} (h : d.snap.busy = false) : d.endSnap = d := by
  simp [Dev.endSnap, h]

theorem devSnapshotDone_answers {s : State} (h : s.dev.snap.busy = true) :
    ∃ t, exec .devSnapshotDone s = .next t ∧ t.dev.roods = s.dev.roods ∧ t.dev.counters = s.dev.counters ∧
      t.dev.snap = { s.dev.snap with
        number := snapNext s.dev.snap.number, busy := false, shadows := s.dev.snap.latched, waiting := [] } ∧
      ∀ k ∈ s.dev.snap.waiting, Answered t k sbSuccess
        (leBytes 4 (snapNext s.dev.snap.number) ++ zeros 4 ++ s.dev.snap.latched.flatMap (leBytes 8)) := by
  refine ⟨_, rfl, ?_⟩
  simp only [onDev_dev, endSnap_busy h, signal_roods, signal_counters, signal_snap, true_and]
  intro k hk
  refine signal_out _ _ _ ?_
  show _ ∈ s.dev.endSnap.out
  rw [endSnap_busy h]
  exact List.mem_append_right _ (List.mem_map_of_mem hk)

/-- Settles O55, from what each request of Table 18.6 reads and the end of a snapshot answers. -/
theorem sidebandRequestsAreAnswered : Obligations.SidebandRequestsAreAnswered := by
  unfold Obligations.SidebandRequestsAreAnswered
  intro msg q s hu
  refine ⟨?discarded, ?unsupported, ?telemetry, ?snapshot, ?idle, ?ended, ?pieces, ?misformed⟩
  case discarded =>
    intro h i hi
    simp only [List.mem_cons, List.not_mem_nil, or_false] at hi
    obtain rfl | rfl | rfl | rfl | rfl | rfl | rfl | rfl := hi
    · exact sidebandUnsupported_discards h s
    · exact congrArg _ (onDev_idle (sbRead_noRequest h _ _ _))
    · exact congrArg _ (onDev_idle (sbRead_noRequest h _ _ _))
    · exact congrArg _ (onDev_idle (sbRead_noRequest h _ _ _))
    · exact congrArg _ (onDev_idle (sbRead_noRequest h _ _ _))
    · exact congrArg _ (onDev_idle (sbArrive_noRequest h _ _ _ _))
    · exact congrArg _ (onDev_idle (sbArrive_noRequest h _ _ _ _))
    · exact congrArg _ (onDev_idle (sbArrive_noRequest h _ _ _ _))
  case unsupported =>
    exact sidebandUnsupported_answers hu
  case telemetry =>
    intro asks hf
    refine ⟨_, rfl, onDev_onlyAnswers ?_⟩
    rw [sbRead_asked asks, if_pos hf]
  case snapshot =>
    intro asks hf
    refine ⟨fun hr => ⟨_, rfl, onDev_onlyAnswers ?_⟩, fun hr => ⟨_, rfl, onDev_silent ?_ ⟨rfl, rfl, rfl, rfl, rfl, rfl⟩⟩⟩
    · rw [sbRead_asked asks, if_pos hf, hr]
      rfl
    · rw [sbRead_asked asks, if_pos hf, hr]
      exact startSnap_joined q s.dev
  case idle =>
    exact fun h => congrArg _ (onDev_idle (endSnap_idle h))
  case ended =>
    exact devSnapshotDone_answers
  case pieces =>
    intro i code obj hi asks hf
    obtain ⟨t, run, answered⟩ := pieces_answered hi asks hf
    exact ⟨t, run, answered, fun beyond => sbPiece_beyond beyond ▸ answered⟩
  case misformed =>
    intro i code hi asks hf
    simp only [List.mem_cons, List.not_mem_nil, or_false, Prod.mk.injEq] at hi
    obtain ⟨rfl, rfl⟩ | ⟨rfl, rfl⟩ | ⟨rfl, rfl⟩ | ⟨rfl, rfl⟩ := hi
    all_goals exact ⟨_, rfl, onDev_onlyAnswers (sbRead_misformed asks hf _)⟩

end Sys2Proof.Machine
end

section
/-! PROOF. What an SPDM endpoint answers (R58, R59, R66 to R69, R385, R484, R499), and with it obligations O56 and O57. -/
namespace Sys2Proof.Machine
open Sys2Proof

/-! ## Responses -/

/-- A meaning that only gives one SPDM response sends nothing else. -/
theorem onDev_onlyResponds {f : W64 → Dev → Dev} {s : State} {ep : Endpoint} {body signature : List Byte}
    (h : f s.clock.time s.dev = s.dev.answerSpdm ep body signature) : OnlyResponds s (onDev f s) ep body signature :=
  onDev_silent h ⟨rfl, rfl, rfl, rfl, rfl, rfl⟩

/-- The device once one more draw has gone into a signature and one output has left. -/
def Dev.signedOut (o : Output) (d : Dev) : Dev :=
  { d with boot := { d.boot with draws := d.boot.draws + 1 }, out := d.out ++ [o] }

theorem onDev_signedOut {f : W64 → Dev → Dev} {s : State} {o : Output} (h : f s.clock.time s.dev = s.dev.signedOut o) :
    onDev f s = { s with dev := s.dev.signedOut o } :=
  onDev_silent h ⟨rfl, rfl, rfl, rfl, rfl, rfl⟩

/-- A request at an endpoint at which SPDM is in use is judged (R499). -/
theorem spdm_open {s : State} {ep : Endpoint} (h : SpdmOpen s ep) (f : Dev → Dev) : s.dev.spdm ep f = f s.dev := by
  simp [Dev.spdm, h.1, h.2]

/-- Before the end of S13 every request that reaches the device is answered Busy (R484, R499). -/
theorem spdm_busy {s : State} {ep : Endpoint} (reaches : s.dev.spdmReaches ep = true) (closed : s.dev.spdmOpen ep = false)
    (f : Dev → Dev) : s.dev.spdm ep f = s.dev.answerSpdm ep [0x7F, 0x03, 0] [] := by
  simp [Dev.spdm, reaches, closed]
  rfl

theorem spdmError_unsupported (ep : Endpoint) (d : Dev) : d.spdmError ep 0x07 = d.answerSpdm ep [0x7F, 0x07, 0] [] := rfl

/-! ## The DXK certificate (R68) -/

theorem vendorAsksDxk_iff (standard : Nat) (vendor payload : List Byte) :
    vendorAsksDxk standard vendor payload = true ↔ standard = 3 ∧ vendor = [0x7A, 0x1D] ∧ payload = [0x01] := by
  have id : leBytes 2 0x1D7A = [0x7A, 0x1D] := by decide
  simp [vendorAsksDxk, id, and_assoc]

theorem dxkAnswer_eq (ep : Endpoint) (d : Dev) :
    d.dxkAnswer ep = d.answerSpdm ep ([0x7E, 0, 0, 3, 0, 2, 0x7A, 0x1D] ++
      leBytes 2 (Config.certificate (sec1 (ecPublic d.boot.dik)) (sec1 (ecPublic d.boot.dxk))).length ++
      Config.certificate (sec1 (ecPublic d.boot.dik)) (sec1 (ecPublic d.boot.dxk))) [] := by
  have head : [0x7E, 0, 0] ++ leBytes 2 3 ++ [2] ++ leBytes 2 0x1D7A = ([0x7E, 0, 0, 3, 0, 2, 0x7A, 0x1D] : List Byte) := by decide
  rw [← head]
  rfl

theorem vendorDefinedRequest_responds {s : State} {ep : Endpoint} (h : SpdmOpen s ep) {standard : Nat} {vendor payload : List Byte}
    {body : List Byte} (answer : (if !onPort ep && vendorAsksDxk standard vendor payload then s.dev.dxkAnswer ep
      else s.dev.spdmError ep 0x07) = s.dev.answerSpdm ep body []) :
    ∃ t, exec (.vendorDefinedRequest ep standard vendor payload) s = .next t ∧ OnlyResponds s t ep body [] :=
  ⟨_, rfl, onDev_onlyResponds ((spdm_open h _).trans answer)⟩

/-- Settles O56, from the one request that the DXK certificate answers. -/
theorem dxkCertificateIsReturned : Obligations.DxkCertificateIsReturned := by
  unfold Obligations.DxkCertificateIsReturned
  intro ep standard vendor payload s h c
  constructor
  · rintro port hstandard hvendor hpayload
    apply vendorDefinedRequest_responds h
    rw [port, (vendorAsksDxk_iff _ _ _).mpr ⟨hstandard, hvendor, hpayload⟩]
    exact dxkAnswer_eq ep s.dev
  · intro other
    apply vendorDefinedRequest_responds h
    rw [if_neg (by simpa [vendorAsksDxk_iff] using other), spdmError_unsupported]

/-! ## Certificates (R59, R66) -/

/-- A portion of the chain of slot 0; another slot is unsupported, and an offset behind the chain is invalid. -/
theorem certPortion_eq (ep : Endpoint) (slot off len : Nat) (d : Dev) :
    (slot ≠ 0 → d.certPortion ep slot off len = d.answerSpdm ep [0x7F, 0x07, 0] []) ∧
    (slot = 0 → d.certChain.length ≤ off → d.certPortion ep slot off len = d.answerSpdm ep [0x7F, 0x01, 0] []) ∧
    (slot = 0 → off < d.certChain.length → d.certPortion ep slot off len =
      let part := (d.certChain.drop off).take len
      d.answerSpdm ep
        ([0x02, 0, 0] ++ leBytes 2 part.length ++ leBytes 2 (d.certChain.length - off - part.length) ++ part) []) := by
  refine ⟨fun hs => ?_, fun hs ho => ?_, fun hs ho => ?_⟩
  · simp only [Dev.certPortion, hs, ne_eq, not_false_eq_true, if_true, spdmError_unsupported]
  · simp only [Dev.certPortion, hs, ne_eq, not_true_eq_false, ho, if_false, if_true]
    rfl
  · simp only [Dev.certPortion, hs, ne_eq, not_true_eq_false, Nat.not_le.mpr ho, if_false]

theorem getCertificate_responds {s : State} {ep : Endpoint} (h : SpdmOpen s ep) {slot off len : Nat} {body : List Byte}
    (answer : s.dev.certPortion ep slot off len = s.dev.answerSpdm ep body []) :
    ∃ t, exec (.getCertificate ep slot off len) s = .next t ∧ OnlyResponds s t ep body [] :=
  ⟨_, rfl, onDev_onlyResponds ((spdm_open h _).trans answer)⟩

/-! ## Measurements (R67, R69, Table 2.7) -/

/-- The rood of an index in an endpoint's set is one that the endpoint sees. -/
theorem endpointAsks_rood {ep : Endpoint} {i : Nat} (h : endpointAsks ep i = true) (lo : 0x10 ≤ i) (hi : i < 0x20) :
    endpointSees (i - 0x10) ep = true := by
  have hi' : i ≤ 0x1F := by omega
  simp only [endpointAsks, lo, hi', decide_true, Bool.and_self, Bool.not_true, Bool.false_or, Bool.and_eq_true] at h
  exact h.2

theorem measurementAt_device (now : W64) (ep : Endpoint) {i : Nat} (lo : 1 ≤ i) (hi : i ≤ 8) (d : Dev) :
    d.measurementAt now ep i = some (d.measured now i) := by
  simp [Dev.measurementAt, lo, hi]

theorem measurementAt_rood (now : W64) {ep : Endpoint} {i : Nat} (h : endpointAsks ep i = true) (lo : 0x10 ≤ i) (hi : i < 0x20)
    (d : Dev) : d.measurementAt now ep i = (d.rood? (i - 0x10)).map (fun x => x.report ⟨now, d⟩) := by
  have notDevice : ¬ (1 ≤ i ∧ i ≤ 8) := by omega
  have hi' : i ≤ 0x1F := by omega
  simp [Dev.measurementAt, notDevice, lo, hi', endpointAsks_rood h lo hi]

/-- The values of some indexes are as many as have one. -/
theorem blocks_length (now : W64) (ep : Endpoint) (l : List Nat) (d : Dev) :
    (d.blocks now ep l).length = (l.filter (fun i => (d.measurementAt now ep i).isSome)).length := by
  rw [Dev.blocks, List.length_filterMap_eq_countP, List.countP_eq_length_filter]
  simp

/-- Index 0 asks for their number alone. -/
theorem measurementsBody_number (now : W64) (ep : Endpoint) (d : Dev) : d.measurementsBody now ep 0 =
    [0x60, byteOf (allIndexes.filter (fun k => (d.measurementAt now ep k).isSome)).length, 0, 0, 0, 0, 0] := by
  have none3 : leBytes 3 0 = [0, 0, 0] := by decide
  have none1 : byteOf 0 = 0 := by decide
  simp [← blocks_length, Dev.measurementsBody, none3, none1]

/-- An index with a value asks for its block. -/
theorem measurementsBody_some {now : W64} {ep : Endpoint} {i : Nat} {v : List Byte} {d : Dev} (lo : 1 ≤ i) (hi : i < 0x20)
    (h : d.measurementAt now ep i = some v) : d.measurementsBody now ep i =
      [0x60, 0, 0, 1] ++ leBytes 3 (measurementBlock i v).length ++ measurementBlock i v := by
  have notNumber : i ≠ 0 := by omega
  have notAll : i ≠ 0xFF := by omega
  have none1 : byteOf 0 = 0 := by decide
  have one1 : byteOf 1 = 1 := by decide
  simp [Dev.measurementsBody, Dev.blocks, notNumber, notAll, h, none1, one1]

/-- An index without a value gives no block. -/
theorem measurementsBody_none {now : W64} {ep : Endpoint} {i : Nat} {d : Dev} (lo : 1 ≤ i) (hi : i < 0x20)
    (h : d.measurementAt now ep i = none) : d.measurementsBody now ep i = [0x60, 0, 0, 0, 0, 0, 0] := by
  have notNumber : i ≠ 0 := by omega
  have notAll : i ≠ 0xFF := by omega
  have none1 : byteOf 0 = 0 := by decide
  have none3 : leBytes 3 0 = [0, 0, 0] := by decide
  simp [Dev.measurementsBody, Dev.blocks, notNumber, notAll, h, none1, none3]

/-- MEASUREMENTS: one draw, and one response that the AK signs over the transcript. -/
theorem getMeasurements_signs {s : State} {ep : Endpoint} (h : SpdmOpen s ep) {v i : Nat} (hv : v = 0x12 ∨ v = 0x13)
    (ha : endpointAsks ep i = true) (signed : Bool) (nonce : List Byte) :
    exec (.getMeasurements ep v i signed nonce) s = .next { s with
      dev := s.dev.signedOut (.spdm ep (s.dev.measurementsBody s.clock.time ep i)
        (ecdsaSign s.dev.boot.ak (Config.nonce s.dev.boot.draws)
          (sha384 (Config.spdmTranscript ([byteOf v, 0xE0, byteOf (bit signed), byteOf i] ++ nonce)
            (s.dev.measurementsBody s.clock.time ep i))))) } := by
  have judged : (spdmVersionOk v && endpointAsks ep i) = true := by
    obtain rfl | rfl := hv <;> rw [ha] <;> rfl
  refine congrArg Host.Outcome.next (onDev_signedOut ?_)
  rw [spdm_open h, if_pos judged]
  rfl

theorem getMeasurements_unsupported {s : State} {ep : Endpoint} (h : SpdmOpen s ep) {v i : Nat}
    (out : (v ≠ 0x12 ∧ v ≠ 0x13) ∨ endpointAsks ep i = false) (signed : Bool) (nonce : List Byte) :
    ∃ t, exec (.getMeasurements ep v i signed nonce) s = .next t ∧ OnlyResponds s t ep [0x7F, 0x07, 0] [] := by
  have refused : (spdmVersionOk v && endpointAsks ep i) = false := by
    obtain ⟨h12, h13⟩ | hi := out
    · simp [spdmVersionOk, h12, h13]
    · simp [hi]
  refine ⟨_, rfl, onDev_onlyResponds ?_⟩
  rw [spdm_open h, refused]
  rfl

/-! ## The challenge of a neighbour (R385, Table 13.7) -/

theorem challenge_idle {s : State} {p : Nat} (h : s.dev.inLinkUp p = false) (nonce : List Byte) :
    exec (.challenge p nonce) s = .next s :=
  congrArg _ (onDev_idle (by simp [Dev.answerChallenge, h]))

theorem challenge_proves {s : State} {p : Nat} (h : s.dev.inLinkUp p = true) (nonce : List Byte) :
    exec (.challenge p nonce) s = .next { s with
      dev := s.dev.signedOut (.proof p (ecdsaSign s.dev.boot.ak (Config.nonce s.dev.boot.draws)
        (sha384 (Config.spdmTranscript nonce s.dev.measurementSummary)))) } := by
  refine congrArg Host.Outcome.next (onDev_signedOut ?_)
  simp [Dev.answerChallenge, h, Dev.akSign, Dev.signedOut]

/-- Settles O57, request by request. -/
theorem spdmRequestsAreAnswered : Obligations.SpdmRequestsAreAnswered := by
  unfold Obligations.SpdmRequestsAreAnswered
  intro ep s
  refine ⟨?busy, fun h => ⟨?other, ?portion, ?slot, ?offset, ?outside, ?signed⟩, fun p nonce => ⟨?down, ?linkUp⟩⟩
  case busy =>
    rintro reaches closed i (⟨slot, off, len, rfl⟩ | ⟨v, k, b, n, rfl⟩ | ⟨a, v, p, rfl⟩)
    all_goals exact ⟨_, rfl, onDev_onlyResponds (spdm_busy reaches closed _)⟩
  case other =>
    intro code hcode
    have unknown : spdmKnown code = false := by simpa [spdmKnown] using hcode
    refine ⟨_, rfl, onDev_onlyResponds ?_⟩
    rw [unknown, if_neg Bool.false_ne_true, spdm_open h, spdmError_unsupported]
  case portion =>
    exact fun off len hoff => getCertificate_responds h ((certPortion_eq ep 0 off len s.dev).2.2 rfl hoff)
  case slot =>
    exact fun slot off len hs => getCertificate_responds h ((certPortion_eq ep slot off len s.dev).1 hs)
  case offset =>
    exact fun slot off len hs ho => getCertificate_responds h ((certPortion_eq ep slot off len s.dev).2.1 hs ho)
  case outside =>
    exact fun v i signed nonce out => getMeasurements_unsupported h out signed nonce
  case signed =>
    intro v i signed nonce hv ha
    refine ⟨_, _, _, getMeasurements_signs h hv ha signed nonce, rfl, rfl, ?_, fun lo hi => ?_, fun x lo hi hx => ?_,
      fun lo hi hx => ?_⟩
    · rintro rfl
      exact measurementsBody_number _ _ _
    · exact measurementsBody_some lo (by omega) (measurementAt_device _ _ lo hi _)
    · exact measurementsBody_some (by omega) hi ((measurementAt_rood _ ha lo hi _).trans (congrArg _ hx))
    · exact measurementsBody_none (by omega) hi ((measurementAt_rood _ ha lo hi _).trans (congrArg _ hx))
  case down => exact fun h => challenge_idle h nonce
  case linkUp => exact fun h => ⟨_, challenge_proves h nonce, rfl⟩

end Sys2Proof.Machine
end

section
/-! PROOF. Loads and unloads that take effect between steps (R65, R70, R239, R240, Table 2.9), and with them obligation O34. -/
namespace Sys2Proof.Machine
open Sys2Proof

/-! ## A command that completes in a rood whose steps are held (R542) -/

/-- A rood without a budget interval composes no step. -/
theorem compose_held {x : Rood} (h : StepsHeld x) (ctx : Ctx) : x.compose ctx = x := by
  have held : x.mayStep ctx = false := by
    unfold Rood.mayStep
    rw [show x.powered = false from h]
    simp
  simp [Rood.compose, held]

/-- A rood in which no step and no slot can begin stays as it is. -/
theorem settle_held {x : Rood} (h : StepsHeld x) (hp : NonePosted x) (ctx : Ctx) : x.settle ctx = x := by
  rw [Rood.settle, compose_held h, pump_nonePosted hp]

/-- The record of a command whose status gives a result is written as it stands (R150). -/
theorem tidy_ok (d : Cmd) (result : List Nat) :
    ({ d.record stOk with result := result } : CRec).tidy = { d.record stOk with result := result } := rfl

/-- A command that completes with a full record ends, where no step and no slot can begin. -/
theorem ends_of_complete {t : State} {r : Nat} {x z : Rood} {d : Cmd} {q : CRing} {k : CRec} {ctx : Ctx}
    (h : Becomes t r x ((z.complete ctx.time d k).settle ctx)) (hc : CanReport z d q) (hs : StepsHeld z)
    (hl : k.result.length = 4) (ht : k.tidy = k) : Ends t r x z d q k := by
  have side := complete_hostSide ctx.time d k z
  obtain ⟨hquiet, hcache, hposted, hring, henable⟩ := id hc
  obtain ⟨-, -, hirings⟩ := complete_exact ctx.time k hring henable hquiet hcache
  have posted : NonePosted (z.complete ctx.time d k) := by rwa [NonePosted, hirings]
  rw [settle_held (side.powered.trans hs) posted] at h
  have reported := complete_reported hc ctx.time k hl
  rw [ht] at reported
  exact ⟨_, h, side, reported⟩

/-! ## What a change of a loaded object leaves alone -/

/-- Only the pool, the objects, the crews and the tally of the rood differ. -/
def ObjectsOnly (x y : Rood) : Prop := y = { x with kv := y.kv, obj := y.obj, crews := y.crews, tally := y.tally }

theorem ObjectsOnly.refl (x : Rood) : ObjectsOnly x x := rfl

theorem ObjectsOnly.trans {x y z : Rood} (h : ObjectsOnly x y) (k : ObjectsOnly y z) : ObjectsOnly x z := by
  unfold ObjectsOnly at *
  rw [k, h]

theorem ObjectsOnly.cmds {x y : Rood} (h : ObjectsOnly x y) : y.cmds = x.cmds := by rw [h]
theorem ObjectsOnly.host {x y : Rood} (h : ObjectsOnly x y) : y.host = x.host := by rw [h]
theorem ObjectsOnly.slots {x y : Rood} (h : ObjectsOnly x y) : y.slots = x.slots := by rw [h]
theorem ObjectsOnly.seqs {x y : Rood} (h : ObjectsOnly x y) : y.seqs = x.seqs := by rw [h]

theorem ObjectsOnly.stepsHeld {x y : Rood} (h : ObjectsOnly x y) (hs : StepsHeld x) : StepsHeld y := by
  rw [h]
  exact hs

theorem ObjectsOnly.canReport {x y : Rood} (h : ObjectsOnly x y) {d : Cmd} {q : CRing} (hc : CanReport x d q) :
    CanReport y d q := by
  rw [h]
  exact hc

/-- Without a sequence, none is bound to a slot. -/
theorem dropBound_noSeqs {x : Rood} (h : x.seqs = []) (now : W64) (kind slot : Nat) : x.dropBound now kind slot = x := by
  simp only [Rood.dropBound, h, List.map_nil, List.filter_nil, List.foldl_nil]
  rw [← h]

/-! ## The images of a rood -/

/-- The images of a rood that its slots of one kind hold. -/
def Rood.images (kind : Nat) (x : Rood) : List (Nat × Image) := if kind = 0 then x.obj.models else x.obj.adapters

theorem heldImage_eq (kind slot : Nat) (x : Rood) : x.heldImage kind slot = lookKey slot (x.images kind) := rfl

/-- A change of the images of one kind leaves those of the other. -/
theorem images_setImages (kind j : Nat) (f : List (Nat × Image) → List (Nat × Image)) (x : Rood) :
    (x.setImages kind f).images j = if j = 0 ↔ kind = 0 then f (x.images j) else x.images j := by
  unfold Rood.setImages Rood.images
  by_cases hj : j = 0 <;> by_cases hk : kind = 0 <;> simp [hj, hk]

/-- A change of the image of one slot leaves the images of every other. -/
theorem heldImage_setImages_other {kind slot j n : Nat} (h : j ≠ kind ∨ n ≠ slot) (hj : j ≤ 1) (hk : kind ≤ 1)
    {f : List (Nat × Image) → List (Nat × Image)} (hf : ∀ m, n ≠ slot → lookKey n (f m) = lookKey n m) (x : Rood) :
    (x.setImages kind f).heldImage j n = x.heldImage j n := by
  rw [heldImage_eq, heldImage_eq, images_setImages]
  split
  · next same => exact hf _ (h.resolve_left (fun ne => ne (by omega)))
  · rfl

theorem heldImage_setImages_same (kind slot : Nat) (f : List (Nat × Image) → List (Nat × Image)) (x : Rood) :
    (x.setImages kind f).heldImage kind slot = lookKey slot (f (x.images kind)) := by
  rw [heldImage_eq, images_setImages, if_pos Iff.rfl]

@[simp] theorem setImages_keeps (kind : Nat) (f : List (Nat × Image) → List (Nat × Image)) (x : Rood) :
    (x.setImages kind f).obj.loadSeq = x.obj.loadSeq ∧ (x.setImages kind f).obj.eventChain = x.obj.eventChain ∧
    (x.setImages kind f).obj.openLoad = x.obj.openLoad ∧ (x.setImages kind f).kv = x.kv ∧
    (x.setImages kind f).tally = x.tally ∧ (x.setImages kind f).crews = x.crews := by
  unfold Rood.setImages
  split <;> exact ⟨rfl, rfl, rfl, rfl, rfl, rfl⟩

theorem setImages_objectsOnly (kind : Nat) (f : List (Nat × Image) → List (Nat × Image)) (x : Rood) :
    ObjectsOnly x (x.setImages kind f) := by
  unfold Rood.setImages
  split <;> rfl

theorem crews_objectsOnly (l : List Crew) (x : Rood) : ObjectsOnly x { x with crews := l } := rfl

theorem heldImage_crews (kind slot : Nat) (l : List Crew) (x : Rood) :
    Rood.heldImage kind slot { x with crews := l } = x.heldImage kind slot := rfl

/-! ## A slot that is emptied (R65, R70, R240) -/

/-- The rood once the unload of an image is an event and its frames have gone. -/
def Rood.unloading (now : W64) (kind slot : Nat) (im : Image) (x : Rood) : Rood :=
  (x.objectEvent now (0x81 + kind) slot im.digest).giveRoom im.frames

/-- The rood once the image of a slot has gone: its event, its frames, its object and its crews. -/
def Rood.without (now : W64) (kind slot : Nat) (im : Image) (x : Rood) : Rood :=
  let y := (x.unloading now kind slot im).setImages kind (delKey slot)
  if kind = 0 then { y with crews := y.crews.filter (fun k => k.model != slot) } else y

theorem emptySlot_held {kind slot : Nat} {im : Image} {x : Rood} (h : x.heldImage kind slot = some im) (now : W64) :
    x.emptySlot now kind slot = x.without now kind slot im := by
  unfold Rood.emptySlot
  rw [h]
  rfl

theorem emptySlot_empty {kind slot : Nat} {x : Rood} (h : x.heldImage kind slot = none) (now : W64) :
    x.emptySlot now kind slot = x := by
  unfold Rood.emptySlot
  rw [h]

theorem without_objectsOnly (now : W64) (kind slot : Nat) (im : Image) (x : Rood) : ObjectsOnly x (x.without now kind slot im) := by
  have unloading : ObjectsOnly x (x.unloading now kind slot im) := rfl
  have only := unloading.trans (setImages_objectsOnly kind (delKey slot) (x.unloading now kind slot im))
  unfold Rood.without
  split
  · exact only.trans (crews_objectsOnly _ _)
  · exact only

/-- What an unload does to the events, the pool, the crews, the open load and the tally. -/
theorem without_fields (now : W64) (kind slot : Nat) (im : Image) (x : Rood) :
    let y := x.without now kind slot im
    y.obj.loadSeq = (x.obj.loadSeq + 1) % 2 ^ 32 ∧
    y.obj.eventChain = sha384 (x.obj.eventChain ++
      objectEntry (0x81 + kind) slot ((x.obj.loadSeq + 1) % 2 ^ 32) now im.digest) ∧
    y.kv = im.frames.foldl (fun k a => k.unref a) x.kv ∧ y.obj.openLoad = x.obj.openLoad ∧ y.tally = x.tally ∧
    (kind = 0 → ∀ k ∈ y.crews, k.model ≠ slot) := by
  obtain ⟨hseq, hchain, hopen, hkv, htally, -⟩ := setImages_keeps kind (delKey slot) (x.unloading now kind slot im)
  dsimp only [Rood.without]
  split
  · refine ⟨hseq, hchain, hkv, hopen, htally, fun _ k hk => ?_⟩
    simpa using (List.mem_filter.mp hk).2
  · next other => exact ⟨hseq, hchain, hkv, hopen, htally, fun zero => absurd zero other⟩

theorem without_heldImage (now : W64) (kind slot j n : Nat) (im : Image) (x : Rood) :
    (x.without now kind slot im).heldImage j n = ((x.unloading now kind slot im).setImages kind (delKey slot)).heldImage j n := by
  unfold Rood.without
  split
  · exact heldImage_crews _ _ _ _
  · rfl

theorem without_heldImage_same (now : W64) (kind slot : Nat) (im : Image) (x : Rood) :
    (x.without now kind slot im).heldImage kind slot = none := by
  rw [without_heldImage, heldImage_setImages_same, lookKey_delKey_same]

theorem without_heldImage_other {kind slot j n : Nat} (h : j ≠ kind ∨ n ≠ slot) (hj : j ≤ 1) (hk : kind ≤ 1) (now : W64)
    (im : Image) (x : Rood) : (x.without now kind slot im).heldImage j n = x.heldImage j n := by
  rw [without_heldImage]
  exact heldImage_setImages_other h hj hk (fun m ne => lookKey_delKey_other ne m) _

theorem emptySlot_objectsOnly (now : W64) (kind slot : Nat) (x : Rood) : ObjectsOnly x (x.emptySlot now kind slot) := by
  cases h : x.heldImage kind slot with
  | none => rw [emptySlot_empty h]; exact ObjectsOnly.refl x
  | some im => rw [emptySlot_held h]; exact without_objectsOnly now kind slot im x

theorem emptySlot_heldImage_other {kind slot j n : Nat} (h : j ≠ kind ∨ n ≠ slot) (hj : j ≤ 1) (hk : kind ≤ 1) (now : W64)
    (x : Rood) : (x.emptySlot now kind slot).heldImage j n = x.heldImage j n := by
  cases hi : x.heldImage kind slot with
  | none => rw [emptySlot_empty hi]
  | some im => rw [emptySlot_held hi, without_heldImage_other h hj hk]

/-- Whatever the slot held, its emptying leaves the tally. -/
theorem emptySlot_tally (now : W64) (kind slot : Nat) (x : Rood) : (x.emptySlot now kind slot).tally = x.tally := by
  cases h : x.heldImage kind slot with
  | none => rw [emptySlot_empty h]
  | some im =>
    obtain ⟨-, -, -, -, htally, -⟩ := without_fields now kind slot im x
    rw [emptySlot_held h, htally]

/-! ## A slot that is filled (R70, R239) -/

/-- The image that a closed load puts into its slot. -/
def OpenLoad.loaded (now : W64) (seq : Nat) (im : ImageKind) (l : OpenLoad) : Image :=
  { kind := im, loadSeq := seq, loadTime := now, digest := sha384 l.file, cek := l.cek, weights := l.body.drop l.weightsAt.1
    freqs := match im with
      | .placement p _ => imageFreqs p
      | .adapter _ => []
    frames := l.frames }

/-- The rood once the load is an event and no load is open. -/
def Rood.loading (now : W64) (l : OpenLoad) (x : Rood) : Rood :=
  let y := x.loadEvent now (1 + l.kind) l.slot (sha384 l.file)
  { y with obj := { y.obj with openLoad := none } }

/-- The rood with the closed load in its slot, before its crews form. -/
def Rood.withLoad (now : W64) (l : OpenLoad) (im : ImageKind) (x : Rood) : Rood :=
  (x.loading now l).setImages l.kind (putKey l.slot (l.loaded now ((x.obj.loadSeq + 1) % 2 ^ 32) im))

/-- A load that fills its slot then forms the crews of a placement. -/
theorem fillSlot_crews (now : W64) (l : OpenLoad) (im : ImageKind) (x : Rood) :
    ∃ k, x.fillSlot now l im = { x.withLoad now l im with crews := k } := by
  cases im
  case placement p pl => exact ⟨_, rfl⟩
  case adapter a => exact ⟨(x.withLoad now l (.adapter a)).crews, rfl⟩

theorem fillSlot_objectsOnly (now : W64) (l : OpenLoad) (im : ImageKind) (x : Rood) : ObjectsOnly x (x.fillSlot now l im) := by
  have loading : ObjectsOnly x (x.loading now l) := rfl
  obtain ⟨k, hk⟩ := fillSlot_crews now l im x
  rw [hk]
  exact (loading.trans (setImages_objectsOnly _ _ _)).trans (crews_objectsOnly k _)

/-- What a load does to the events, the pool, the open load and the tally. -/
theorem fillSlot_fields (now : W64) (l : OpenLoad) (im : ImageKind) (x : Rood) :
    let y := x.fillSlot now l im
    y.obj.loadSeq = (x.obj.loadSeq + 1) % 2 ^ 32 ∧
    y.obj.eventChain = sha384 (x.obj.eventChain ++
      objectEntry (1 + l.kind) l.slot ((x.obj.loadSeq + 1) % 2 ^ 32) now (sha384 l.file)) ∧
    y.kv = x.kv ∧ y.obj.openLoad = none ∧ y.tally.loads = x.tally.loads + 1 := by
  obtain ⟨k, hk⟩ := fillSlot_crews now l im x
  obtain ⟨hseq, hchain, hopen, hkv, htally, -⟩ := setImages_keeps l.kind
    (putKey l.slot (l.loaded now ((x.obj.loadSeq + 1) % 2 ^ 32) im)) (x.loading now l)
  rw [hk]
  exact ⟨hseq, hchain, hkv, hopen, congrArg Tally.loads htally⟩

theorem fillSlot_heldImage (now : W64) (l : OpenLoad) (im : ImageKind) (j n : Nat) (x : Rood) :
    (x.fillSlot now l im).heldImage j n = (x.withLoad now l im).heldImage j n := by
  obtain ⟨k, hk⟩ := fillSlot_crews now l im x
  rw [hk, heldImage_crews]

theorem fillSlot_heldImage_same (now : W64) (l : OpenLoad) (im : ImageKind) (x : Rood) :
    (x.fillSlot now l im).heldImage l.kind l.slot = some (l.loaded now ((x.obj.loadSeq + 1) % 2 ^ 32) im) := by
  rw [fillSlot_heldImage, Rood.withLoad, heldImage_setImages_same, lookKey_putKey_same]

theorem fillSlot_heldImage_other {l : OpenLoad} {j n : Nat} (h : j ≠ l.kind ∨ n ≠ l.slot) (hj : j ≤ 1) (hk : l.kind ≤ 1)
    (now : W64) (im : ImageKind) (x : Rood) : (x.fillSlot now l im).heldImage j n = x.heldImage j n := by
  rw [fillSlot_heldImage, Rood.withLoad]
  exact heldImage_setImages_other h hj hk (fun m ne => lookKey_putKey_other ne _ m) _

/-! ## The rows -/

/-- The rood once a command of the queue has left it. -/
def Rood.dequeued (d : Cmd) (x : Rood) : Rood :=
  { x with obj := { x.obj with queue := x.obj.queue.filter (fun i => i != d.id) } }

theorem dequeued_objectsOnly (d : Cmd) (x : Rood) : ObjectsOnly x (x.dequeued d) := rfl

/-- A command of the queue that completes with ST_OK ends with LOAD_SEQ, where no step and no slot can begin. -/
theorem finishLoad_ends {t : State} {r : Nat} {x y : Rood} {d : Cmd} {q : CRing} {ctx : Ctx}
    (h : Becomes t r x ((y.finishLoad ctx.time d stOk).settle ctx)) (only : ObjectsOnly x y) (hc : CanReport x d q)
    (hs : StepsHeld x) : Ends t r x (y.dequeued d) d q { d.record stOk with result := [y.obj.loadSeq, 0, 0, 0] } :=
  have all := only.trans (dequeued_objectsOnly d y)
  ends_of_complete h (all.canReport hc) (all.stepsHeld hs) rfl (tidy_ok d _)

/-- While a crew is in a step a closed load waits. -/
theorem takeLoad_waits {x : Rood} (h : x.betweenSteps = false) (ctx : Ctx) : x.takeLoad ctx = x := by
  unfold Rood.takeLoad
  split
  · split
    · rw [h]; rfl
    · rfl
  · rfl

theorem takeLoad_fills {x : Rood} {d : Cmd} {l : OpenLoad} {im : ImageKind} (hd : x.readyLoad 0x10 = some d)
    (hl : x.obj.openLoad = some l) (hi : l.image = some im) (hb : x.betweenSteps = true) (hq : x.seqs = []) (ctx : Ctx) :
    x.takeLoad ctx =
      (((x.emptySlot ctx.time l.kind l.slot).fillSlot ctx.time l im).finishLoad ctx.time d stOk).settle ctx := by
  have none : ((x.emptySlot ctx.time l.kind l.slot).fillSlot ctx.time l im).seqs = [] :=
    ((emptySlot_objectsOnly _ _ _ _).trans (fillSlot_objectsOnly _ _ _ _)).seqs.trans hq
  unfold Rood.takeLoad
  simp only [hd, hl, hi, hb, if_true, dropBound_noSeqs none]

theorem takeUnload_empties {x : Rood} {d : Cmd} {im : Image} (hd : x.readyLoad 0x11 = some d)
    (hi : x.heldImage d.kind d.objSlot = some im) (hb : x.betweenSteps = true) (hq : x.seqs = []) (ctx : Ctx) :
    x.takeUnload ctx = ((x.without ctx.time d.kind d.objSlot im).finishLoad ctx.time d stOk).settle ctx := by
  have none : (x.without ctx.time d.kind d.objSlot im).seqs = [] := (without_objectsOnly _ _ _ _ _).seqs.trans hq
  unfold Rood.takeUnload
  simp only [hd, hb, if_true, emptySlot_held hi, dropBound_noSeqs none]

/-- A closed load that takes effect fills its slot, whatever the slot held. -/
theorem mdlLoadTakeEffect_fills {r : Nat} {s : State} {x : Rood} {d : Cmd} {q : CRing} {l : OpenLoad} {im : ImageKind}
    (hw : Works s r x) (hd : x.readyLoad 0x10 = some d) (hc : CanReport x d q) (hl : x.obj.openLoad = some l)
    (hi : l.image = some im) (hb : x.betweenSteps = true) (hq : x.seqs = []) (hs : StepsHeld x) :
    ∃ t z i, exec (.mdlLoadTakeEffect r) s = .next t ∧
      Ends t r x z d q { d.record stOk with result := [z.obj.loadSeq, 0, 0, 0] } ∧ z.cmds = x.cmds ∧ z.host = x.host ∧
      z.slots = x.slots ∧ z.heldImage l.kind l.slot = some i ∧ i.kind = im ∧ i.loadSeq = z.obj.loadSeq ∧
      i.loadTime = s.clock.time ∧ i.digest = sha384 l.file ∧ i.frames = l.frames ∧ z.obj.openLoad = none ∧
      z.tally.loads = x.tally.loads + 1 ∧
      (∀ k n, k ≠ l.kind ∨ n ≠ l.slot → k ≤ 1 → l.kind ≤ 1 → z.heldImage k n = x.heldImage k n) ∧
      (x.heldImage l.kind l.slot = none →
        z.kv = x.kv ∧ z.obj.loadSeq = (x.obj.loadSeq + 1) % 2 ^ 32 ∧
        z.obj.eventChain = sha384 (x.obj.eventChain ++
          objectEntry (1 + l.kind) l.slot z.obj.loadSeq s.clock.time (sha384 l.file))) := by
  let e := x.emptySlot s.clock.time l.kind l.slot
  have only : ObjectsOnly x (e.fillSlot s.clock.time l im) :=
    (emptySlot_objectsOnly _ _ _ _).trans (fillSlot_objectsOnly _ _ _ _)
  obtain ⟨hseq, hchain, hkv, hopen, hloads⟩ := fillSlot_fields s.clock.time l im e
  have becomes := onRood_becomes hw (fun ctx x => x.takeLoad ctx)
  rw [takeLoad_fills hd hl hi hb hq] at becomes
  refine ⟨_, (e.fillSlot s.clock.time l im).dequeued d, _, rfl, finishLoad_ends becomes only hc hs, only.cmds, only.host,
    only.slots, fillSlot_heldImage_same _ _ _ _, rfl, hseq.symm, rfl, rfl, rfl, hopen, ?loads, ?others, ?fresh⟩
  case loads =>
    rw [← emptySlot_tally s.clock.time l.kind l.slot x]
    exact hloads
  case others =>
    intro k n other hk hkind
    exact (fillSlot_heldImage_other other hk hkind _ _ _).trans (emptySlot_heldImage_other other hk hkind _ _)
  case fresh =>
    intro empty
    have same : e = x := emptySlot_empty empty _
    refine ⟨hkv.trans (congrArg Rood.kv same), hseq.trans (by rw [same]), ?_⟩
    show (e.fillSlot s.clock.time l im).obj.eventChain =
      sha384 (x.obj.eventChain ++ objectEntry _ _ (e.fillSlot s.clock.time l im).obj.loadSeq _ _)
    rw [hchain, hseq, same]

/-- An unload that takes effect empties its slot. -/
theorem mdlUnloadTakeEffect_empties {r : Nat} {s : State} {x : Rood} {d : Cmd} {q : CRing} {i : Image} (hw : Works s r x)
    (hd : x.readyLoad 0x11 = some d) (hc : CanReport x d q) (hi : x.heldImage d.kind d.objSlot = some i)
    (hb : x.betweenSteps = true) (hq : x.seqs = []) (hs : StepsHeld x) :
    ∃ t z, exec (.mdlUnloadTakeEffect r) s = .next t ∧
      Ends t r x z d q { d.record stOk with result := [(x.obj.loadSeq + 1) % 2 ^ 32, 0, 0, 0] } ∧ z.cmds = x.cmds ∧
      z.host = x.host ∧ z.slots = x.slots ∧ z.heldImage d.kind d.objSlot = none ∧
      (∀ n, n ≠ d.objSlot → z.heldImage d.kind n = x.heldImage d.kind n) ∧
      (∀ n, z.heldImage (1 - d.kind) n = x.heldImage (1 - d.kind) n) ∧ z.obj.loadSeq = (x.obj.loadSeq + 1) % 2 ^ 32 ∧
      z.obj.eventChain = sha384 (x.obj.eventChain ++
        objectEntry (0x81 + d.kind) d.objSlot z.obj.loadSeq s.clock.time i.digest) ∧
      (d.kind = 0 → ∀ k ∈ z.crews, k.model ≠ d.objSlot) ∧ z.kv = i.frames.foldl (fun k a => k.unref a) x.kv := by
  have kind_bit : d.kind ≤ 1 := Nat.lt_succ_iff.mp (Nat.mod_lt _ (by decide))
  have only := without_objectsOnly s.clock.time d.kind d.objSlot i x
  obtain ⟨hseq, hchain, hkv, -, -, hcrews⟩ := without_fields s.clock.time d.kind d.objSlot i x
  have becomes := onRood_becomes hw (fun ctx x => x.takeUnload ctx)
  rw [takeUnload_empties hd hi hb hq] at becomes
  have ends := finishLoad_ends becomes only hc hs
  refine ⟨_, (x.without s.clock.time d.kind d.objSlot i).dequeued d, rfl, hseq ▸ ends, only.cmds, only.host, only.slots,
    without_heldImage_same _ _ _ _ _, fun n other => ?_, fun n => ?_, hseq, ?_, hcrews, hkv⟩
  · exact without_heldImage_other (.inr other) kind_bit kind_bit _ _ _
  · exact without_heldImage_other (.inl (by omega)) (by omega) kind_bit _ _ _
  · show (x.without s.clock.time d.kind d.objSlot i).obj.eventChain =
      sha384 (x.obj.eventChain ++ objectEntry _ _ (x.without s.clock.time d.kind d.objSlot i).obj.loadSeq _ _)
    rw [hchain, hseq]

/-- Settles O34, from a load that fills its slot and an unload that empties it. -/
theorem imagesComeAndGoBetweenSteps : Obligations.ImagesComeAndGoBetweenSteps := by
  unfold Obligations.ImagesComeAndGoBetweenSteps
  refine ⟨fun r s x d q l im hw hd hc hl hi => ⟨fun busy => ?_, mdlLoadTakeEffect_fills hw hd hc hl hi⟩,
    fun r s x d q i hw hd hc hi hb hq hs => mdlUnloadTakeEffect_empties hw hd hc hi hb hq hs⟩
  have becomes := onRood_becomes hw (fun ctx x => x.takeLoad ctx)
  rw [takeLoad_waits busy] at becomes
  exact ⟨_, rfl, becomes⟩

end Sys2Proof.Machine
end

section
/-! PROOF. What work in every rood leaves of the device and of each rood: the device at large, what has left it, the places of the
roods, and properties that the work of one rood keeps. -/
namespace Sys2Proof.Machine
open Sys2Proof

/-! ## The work of one rood in the list of roods -/

theorem atRood_missing {d : Dev} {r : Nat} (h : d.rood? r = none) (f : Ctx → Rood → Rood) (t : W64) : d.atRood r f t = d := by
  unfold Dev.atRood
  rw [h]

/-- The rood that has worked stands where every rood of its number stood. -/
theorem atRood_roods {d : Dev} {r : Nat} {x : Rood} (h : d.rood? r = some x) (f : Ctx → Rood → Rood) (t : W64) :
    (d.atRood r f t).roods = d.roods.map (fun y => if y.num == r then x.settled (f ⟨t, d⟩ x) else y) := by
  unfold Dev.atRood
  rw [h]
  show (d.flushRood (x.inPlace (f ⟨t, d⟩ x))).roods = _
  rw [flushRood_roods, ← rood?_num h]
  rfl

/-- No rood of a list that `rood?` searches has a number that it does not find. -/
theorem num_ne_of_missing {d : Dev} {r : Nat} (h : d.rood? r = none) {x : Rood} (hx : x ∈ d.roods) : x.num ≠ r := by
  simpa using List.find?_eq_none.mp h x hx

/-- What each rood keeps when it works, and what its work brings about, holds of every rood once each has worked. -/
theorem foldl_atRood_all {P Q : Rood → Prop} {f : Ctx → Rood → Rood} {t : W64}
    (work : ∀ ctx x, P x → P (x.settled (f ctx x)) ∧ Q (x.settled (f ctx x))) (l : List Nat) (d : Dev)
    (h : ∀ x ∈ d.roods, P x ∧ (x.num ∈ l ∨ Q x)) :
    ∀ x ∈ (l.foldl (fun d r => d.atRood r f t) d).roods, P x ∧ Q x := by
  induction l generalizing d with
  | nil => simpa using h
  | cons r l ih =>
    apply ih
    show ∀ x ∈ (d.atRood r f t).roods, _
    cases hr : d.rood? r with
    | none =>
      rw [atRood_missing hr]
      exact fun x hx => ⟨(h x hx).1, (h x hx).2.imp_left (fun m => (List.mem_cons.mp m).resolve_left (num_ne_of_missing hr hx))⟩
    | some x =>
      rw [atRood_roods hr]
      intro y hy
      obtain ⟨z, hz, rfl⟩ := List.mem_map.mp hy
      split
      · have done := work ⟨t, d⟩ x (h x (List.mem_of_find?_eq_some hr)).1
        exact ⟨done.1, .inr done.2⟩
      · next other => exact ⟨(h z hz).1, (h z hz).2.imp_left (fun m => (List.mem_cons.mp m).resolve_left (by simpa using other))⟩

theorem atEach_all {P Q : Rood → Prop} {f : Ctx → Rood → Rood} {t : W64} {d : Dev}
    (work : ∀ ctx x, P x → P (x.settled (f ctx x)) ∧ Q (x.settled (f ctx x))) (h : ∀ x ∈ d.roods, P x) :
    ∀ x ∈ (d.atEach f t).roods, P x ∧ Q x :=
  foldl_atRood_all work _ d (fun x hx => ⟨h x hx, .inl (List.mem_map_of_mem hx)⟩)

/-! ## Properties of the device that the work of each rood keeps -/

theorem atEach_induction {P : Dev → Prop} {f : Ctx → Rood → Rood} {t : W64} (step : ∀ d r, P d → P (d.atRood r f t)) {d : Dev}
    (h : P d) : P (d.atEach f t) := by
  unfold Dev.atEach
  generalize d.roods.map (fun x => x.num) = l
  induction l generalizing d with
  | nil => exact h
  | cons r l ih => exact ih (step d r h)

/-- The roods, and what a rood may ask for, alone differ. -/
def RoodsFx (d e : Dev) : Prop := FxOnly { d with roods := e.roods } e

theorem RoodsFx.trans {a b c : Dev} (h : RoodsFx a b) (k : RoodsFx b c) : RoodsFx a c := by
  have early : FxOnly { a with roods := c.roods } { b with roods := c.roods } := by
    unfold RoodsFx FxOnly at *
    rw [h]
  exact early.trans k

theorem RoodsFx.side {d e : Dev} (h : RoodsFx d e) : e.side = d.side := FxOnly.side (d := { d with roods := e.roods }) h
theorem RoodsFx.integ {d e : Dev} (h : RoodsFx d e) : e.integ = d.integ := FxOnly.integ (d := { d with roods := e.roods }) h
theorem RoodsFx.layout {d e : Dev} (h : RoodsFx d e) : e.layout = d.layout := FxOnly.layout (d := { d with roods := e.roods }) h
theorem RoodsFx.pendingLayout {d e : Dev} (h : RoodsFx d e) : e.pendingLayout = d.pendingLayout :=
  FxOnly.pendingLayout (d := { d with roods := e.roods }) h
theorem RoodsFx.bank {d e : Dev} (h : RoodsFx d e) : e.energy.bank = d.energy.bank := FxOnly.bank (d := { d with roods := e.roods }) h

theorem atEach_bound (d : Dev) (f : Ctx → Rood → Rood) (t : W64) : RoodsFx d (d.atEach f t) :=
  atEach_induction (P := RoodsFx d) (fun e r h => h.trans (atRood_bound e r f t)) (FxOnly.refl d)

/-- A rood that has a property which the work of one rood keeps has it still once each has worked. -/
theorem atEach_rood {P : Rood → Prop} {f : Ctx → Rood → Rood} {t : W64} (work : ∀ ctx x, P x → P (x.settled (f ctx x))) {d : Dev}
    {i : Nat} (h : ∃ x, d.rood? i = some x ∧ P x) : ∃ y, (d.atEach f t).rood? i = some y ∧ P y := by
  refine atEach_induction (P := fun d => ∃ x, d.rood? i = some x ∧ P x) (fun d r ⟨x, hx, px⟩ => ?_) h
  by_cases hr : i = r
  · subst hr
    exact ⟨_, rood_after hx f t, work _ x px⟩
  · exact ⟨x, (other_roods_stay d r i f t hr).trans hx, px⟩

/-! ## What has left the device stays sent -/

theorem transmit_out (m : ChainMsg) (d : Dev) : d.out <+: (d.transmit m).out := by
  unfold Dev.transmit
  split
  · exact List.prefix_rfl
  · exact List.prefix_append _ _

theorem enqueue_out (m : ChainMsg) (d : Dev) : d.out <+: (d.enqueue m).out := by
  unfold Dev.enqueue
  dsimp only
  split
  · exact transmit_out _ (d.setPair _)
  · exact List.prefix_rfl

theorem openEpoch_out (p : Nat) (d : Dev) : d.out <+: (d.openEpoch p).out := by
  dsimp only [Dev.openEpoch]
  refine List.IsPrefix.trans ?_ (enqueue_out _ _)
  exact List.prefix_rfl

theorem foldl_out {α : Type} (f : Dev → α → Dev) (h : ∀ d a, d.out <+: (f d a).out) (l : List α) (d : Dev) :
    d.out <+: (l.foldl f d).out := by
  induction l generalizing d with
  | nil => exact List.prefix_rfl
  | cons a l ih => exact (h d a).trans (ih _)

theorem chainSend_out (p t r q o : Nat) (b : List Byte) (d : Dev) : d.out <+: (d.chainSend p t r q o b).out := by
  unfold Dev.chainSend
  split
  · exact List.prefix_rfl
  · refine List.IsPrefix.trans ?_ (foldl_out _ (fun d c => enqueue_out _ d) _ _)
    split
    · exact List.prefix_rfl
    · exact openEpoch_out _ _

theorem applyFx_out (r : Nat) (f : Fx) (d : Dev) : d.out <+: (d.applyFx r f).out := by
  cases f with
  | chain p t q o b => exact chainSend_out _ _ _ _ _ _ _
  | out o => exact List.prefix_append _ _
  | assigned slot p i n =>
    unfold Dev.applyFx
    dsimp only
    split <;> exact List.prefix_rfl
  | _ => exact List.prefix_rfl

theorem atRood_out (d : Dev) (r : Nat) (f : Ctx → Rood → Rood) (t : W64) : d.out <+: (d.atRood r f t).out := by
  unfold Dev.atRood
  split
  · unfold Dev.flushRood
    rw [List.foldr_eq_foldl_reverse]
    exact foldl_out _ (fun d g => applyFx_out _ g d) _ (d.setRood _)
  · exact List.prefix_rfl

theorem atEach_out (d : Dev) (f : Ctx → Rood → Rood) (t : W64) : d.out <+: (d.atEach f t).out :=
  atEach_induction (P := fun e => d.out <+: e.out) (fun e r h => h.trans (atRood_out e r f t)) List.prefix_rfl

/-! ## The places of the roods -/

/-- The number of a rood and the stack groups that it has (R45, R46). -/
def Rood.place (x : Rood) : Nat × Nat × Nat := (x.num, x.firstSg, x.width)

/-- The places of the roods, in their order. -/
def Dev.places (d : Dev) : List (Nat × Nat × Nat) := d.roods.map Rood.place

/-- A rood put back in the place of the roods of its number leaves every place as it was. -/
theorem setRood_places {d : Dev} {y : Rood} (h : ∀ p ∈ d.places, p.1 = y.num → p = y.place) : (d.setRood y).places = d.places := by
  unfold Dev.places Dev.setRood
  rw [List.map_map]
  refine List.map_congr_left (fun z hz => ?_)
  show Rood.place (if z.num == y.num then y else z) = z.place
  split
  · next same => exact (h z.place (List.mem_map_of_mem hz) (by simpa using same : z.num = y.num)).symm
  · rfl

/-- Where no two roods have one number, the work of a rood leaves every place as it was. -/
theorem atRood_places {d : Dev} (h : (d.places.map Prod.fst).Nodup) (r : Nat) (f : Ctx → Rood → Rood) (t : W64) :
    (d.atRood r f t).places = d.places := by
  cases hr : d.rood? r with
  | none => rw [atRood_missing hr]
  | some x =>
    unfold Dev.places
    rw [atRood_roods hr, List.map_map]
    refine List.map_congr_left (fun z hz => ?_)
    show Rood.place (if z.num == r then x.settled (f ⟨t, d⟩ x) else z) = z.place
    split
    · next same =>
      rw [Dev.places, List.map_map] at h
      have one : z = x := List.inj_on_of_nodup_map h hz
        (List.mem_of_find?_eq_some hr) ((by simpa using same : z.num = r).trans (rood?_num hr).symm)
      rw [one]
      rfl
    · rfl

theorem atEach_places {d : Dev} (h : (d.places.map Prod.fst).Nodup) (f : Ctx → Rood → Rood) (t : W64) :
    (d.atEach f t).places = d.places :=
  atEach_induction (P := fun e => e.places = d.places) (fun _ r k => (atRood_places (k ▸ h) r f t).trans k) rfl

/-! ## The settling of every rood -/

theorem settleAll_bound (now : W64) (d : Dev) : RoodsFx d (d.settleAll now) := by
  unfold Dev.settleAll
  split
  · exact atEach_bound d _ now
  · exact FxOnly.refl d

theorem settleAll_out (now : W64) (d : Dev) : d.out <+: (d.settleAll now).out := by
  unfold Dev.settleAll
  split
  · exact atEach_out d _ now
  · exact List.prefix_rfl

theorem settleAll_places {d : Dev} (h : (d.places.map Prod.fst).Nodup) (now : W64) : (d.settleAll now).places = d.places := by
  unfold Dev.settleAll
  split
  · exact atEach_places h _ now
  · rfl

/-- What a rood holds beside its work: its sessions, its key and its flash, and that no step of it is composed. -/
def HoldsStill (x y : Rood) : Prop :=
  StepsHeld y ∧ y.slots = x.slots ∧ y.storageKey = x.storageKey ∧ y.flash = x.flash ∧ y.flashShare = x.flashShare

/-- A rood whose steps are held settles on the side of the host interface alone. -/
theorem settle_hostSide {x : Rood} (h : StepsHeld x) (ctx : Ctx) : HostSide x (x.settle ctx) := by
  rw [Rood.settle, compose_held h]
  exact pump_hostSide _ _

theorem HostSide.flashShare {x y : Rood} (h : HostSide x y) : y.flashShare = x.flashShare := by rw [h]

theorem settle_holdsStill {x y : Rood} (h : HoldsStill x y) (ctx : Ctx) : HoldsStill x (y.settled (y.settle ctx)) := by
  obtain ⟨held, slots, key, flash, share⟩ := h
  have side := settle_hostSide held ctx
  exact ⟨side.powered.trans held, side.slots.trans slots, side.storageKey.trans key, side.flash.trans flash,
    side.flashShare.trans share⟩

theorem settleAll_holdsStill {x : Rood} {d : Dev} {i : Nat} (h : ∃ y, d.rood? i = some y ∧ HoldsStill x y) (now : W64) :
    ∃ y, (d.settleAll now).rood? i = some y ∧ HoldsStill x y := by
  unfold Dev.settleAll
  split
  · exact atEach_rood (P := HoldsStill x) (fun ctx y hy => settle_holdsStill hy ctx) h
  · exact h

end Sys2Proof.Machine
end

section
/-! PROOF. Control requests that wait, SET_CAP, and the drain before the recovery state (R84, R433, R469, R473, Table 16.4). -/
namespace Sys2Proof.Machine
open Sys2Proof

/-! ## Control requests that wait, and the one whose turn has come (R84) -/

/-- The request behind those that wait. -/
def Dev.sbBehind (q : SbReq) (d : Dev) : Dev := { d with side := { d.side with queue := d.side.queue ++ [q] } }

theorem sbArrive_waits {s : State} {msg : List Byte} {code : Nat} {q : SbReq} (asks : Asks s msg code q) (taken : ¬ SideFree s)
    (accepted : code = 1 → q.formatOk = true → s.dev.comp.releasing = false) (now : W64) (pass : Bool) :
    s.dev.sbArrive now code pass msg = s.dev.sbBehind q := by
  obtain ⟨usable, request, rfl⟩ := asks
  have notRefused : ¬ (q.code = 0x01 ∧ q.formatOk = true ∧ s.dev.comp.releasing = true) :=
    fun ⟨hc, hf, hr⟩ => by simp [accepted hc hf] at hr
  have behind : (s.dev.side.running.isSome || !s.dev.side.queue.isEmpty) = true := by
    rw [Bool.or_eq_true, Option.isSome_iff_ne_none, Bool.not_eq_true', List.isEmpty_eq_false_iff]
    exact not_and_or.mp taken
  simp [Dev.sbArrive, usable, request, notRefused, behind, Dev.sbBehind]

theorem sideRow_waits {code : Nat} (hc : code ∈ [1, 2, 3, 4, 5, 6, 8]) {s : State} {msg : List Byte} {q : SbReq}
    (asks : Asks s msg code q) (taken : ¬ SideFree s) (accepted : code = 1 → q.formatOk = true → s.dev.comp.releasing = false)
    (pass : Bool) : exec (sideRow code msg pass) s = .next { s with dev := s.dev.sbBehind q } := by
  rw [exec_sideRow hc, onDev_silent (d := s.dev.sbBehind q) (sbArrive_waits asks taken accepted _ _) ⟨rfl, rfl, rfl, rfl, rfl, rfl⟩]

/-- A control request in its turn runs. -/
theorem sideRow_runs {code : Nat} (hc : code ∈ [2, 3, 4, 5, 6, 8]) {s : State} {msg : List Byte} {q : SbReq}
    (h : HasTurn s msg code q) (pass : Bool) :
    exec (sideRow code msg pass) s = .next (onDev (fun t d => d.sbRun t (code == 8 && pass) q) s) := by
  obtain ⟨asks, free, -⟩ := h
  have notCompose : code ≠ 1 := by rintro rfl; simp at hc
  rw [exec_sideRow (List.mem_cons_of_mem _ hc), onDev, sbArrive_turn asks free (fun h => absurd h notCompose)]
  rfl

/-- A request that does not fit the state of the device is answered STATE, and nothing else happens. -/
theorem sideRow_wrongState {code : Nat} (hc : code ∈ [2, 3, 4, 5, 6, 8]) {s : State} {msg : List Byte} {q : SbReq}
    (h : HasTurn s msg code q) (canAct : s.dev.sbIsBusy q = false) (unfit : s.dev.sbWrongState q = true) (pass : Bool) :
    ∃ t, exec (sideRow code msg pass) s = .next t ∧ OnlyAnswers s t q sbState [] :=
  ⟨_, sideRow_runs hc h pass, onDev_onlyAnswers (by simp [Dev.sbRun, h.2.2, canAct, unfit])⟩

/-- A meaning that answers a request answers it whatever messages its changes cause. -/
theorem onDev_answered {f : W64 → Dev → Dev} {s : State} {q : SbReq} {result : Nat} {payload : List Byte}
    (h : .sideband (sbResponse q.code q.inst result payload) ∈ (f s.clock.time s.dev).out) :
    Answered (onDev f s) q result payload :=
  signal_out _ _ _ h

theorem mem_sbAnswer_out (q : SbReq) (result : Nat) (payload : List Byte) (d : Dev) :
    .sideband (sbResponse q.code q.inst result payload) ∈ (d.sbAnswer q result payload).out :=
  List.mem_append_right _ (List.mem_singleton_self _)

theorem sidebandQueueAdvance_idle {s : State} (h : s.dev.side.running.isSome = true ∨ s.dev.side.queue = []) (pass : Bool) :
    exec (.sidebandQueueAdvance pass) s = .next s := by
  refine congrArg _ (onDev_idle ?_)
  obtain h | h := h
  · obtain ⟨r, hr⟩ := Option.isSome_iff_exists.mp h
    simp only [hr]
  · cases hr : s.dev.side.running <;> simp only [h]

/-- The next request runs once the one before it has been answered. -/
theorem sidebandQueueAdvance_runs {s : State} {q : SbReq} {rest : List SbReq} (free : s.dev.side.running = none)
    (next : s.dev.side.queue = q :: rest) (pass : Bool) :
    exec (.sidebandQueueAdvance pass) s =
      .next (onDev (fun t d => ({ d with side := { d.side with queue := rest } } : Dev).sbRun t pass q) s) := by
  show execSidebandQueueAdvance pass s = _
  simp only [execSidebandQueueAdvance, onDev, free, next]

/-! ## SET_CAP (R83, R433) -/

theorem sbRun_setCap {q : SbReq} (code : q.code = 0x06) (form : q.formatOk = true) (now : W64) (pass : Bool) (d : Dev) :
    d.sbRun now pass q = d.sbCap q := by
  simp [Dev.sbRun, Dev.sbIsBusy, Dev.sbWrongState, code, form]

theorem capOutside_formatOk {q : SbReq} (h : q.capOutside = true) : q.code = 0x06 ∧ q.formatOk = false := by
  simp only [SbReq.capOutside, Bool.and_eq_true, Bool.not_eq_true', beq_iff_eq] at h
  obtain ⟨⟨⟨⟨code, -⟩, -⟩, -⟩, out⟩ := h
  exact ⟨code, by simp [SbReq.formatOk, code, out]⟩

theorem sbRun_capOutside {q : SbReq} (h : q.capOutside = true) (now : W64) (pass : Bool) (d : Dev) :
    d.sbRun now pass q = (d.capRefused now (u16At 0 q.payload)).sbAnswer q sbFormat [] := by
  simp [Dev.sbRun, (capOutside_formatOk h).2, h]

/-- The entry that is written into a log of the device is its newest. -/
theorem log_newest (e : LogEntry) (d : Dev) :
    (d.log e).regs.log.entries.head? = some { e with seq := d.regs.log.head + 1 } := rfl

theorem setCap_takes {s : State} {msg : List Byte} {q : SbReq} (h : HasTurn s msg 0x06 q) :
    ∃ t, exec (.setCap msg) s = .next t ∧ t.dev.energy = { s.dev.energy with sidebandCap := u16At 0 q.payload } ∧
      t.dev.regs = s.dev.regs ∧ t.dev.roods = s.dev.roods ∧ Answered t q sbSuccess (leBytes 2 s.dev.energy.inForce ++ zeros 2) := by
  refine ⟨_, sideRow_runs (by decide) h false, ?_⟩
  rw [onDev_silent (d := s.dev.sbCap q) (sbRun_setCap h.1.2.2 h.2.2 _ _ _) ⟨rfl, rfl, rfl, rfl, rfl, rfl⟩]
  exact ⟨rfl, rfl, rfl, mem_sbAnswer_out _ _ _ _⟩

theorem setCap_waited {s : State} {q : SbReq} {rest : List SbReq} (free : s.dev.side.running = none)
    (next : s.dev.side.queue = q :: rest) (code : q.code = 0x06) (form : q.formatOk = true) (pass : Bool) :
    ∃ t, exec (.sidebandQueueAdvance pass) s = .next t ∧ t.dev.side.queue = rest ∧
      t.dev.energy.sidebandCap = u16At 0 q.payload ∧ Answered t q sbSuccess (leBytes 2 s.dev.energy.inForce ++ zeros 2) := by
  refine ⟨_, sidebandQueueAdvance_runs free next pass, ?_⟩
  rw [onDev_silent (d := ({ s.dev with side := { s.dev.side with queue := rest } } : Dev).sbCap q) (sbRun_setCap code form _ _ _)
    ⟨rfl, rfl, rfl, rfl, rfl, rfl⟩]
  exact ⟨rfl, rfl, mem_sbAnswer_out _ _ _ _⟩

theorem setCap_refused {s : State} {msg : List Byte} {q : SbReq} (asks : Asks s msg 0x06 q) (free : SideFree s)
    (out : q.capOutside = true) :
    ∃ t k, exec (.setCap msg) s = .next t ∧ t.dev.energy = s.dev.energy ∧ Answered t q sbFormat [] ∧
      t.dev.regs.log.entries.head? = some k ∧ k.kind = 0x04 ∧ k.code = 5 ∧ k.detail = u16At 0 q.payload := by
  have run (now : W64) (pass : Bool) :=
    (sbArrive_turn asks free (fun h => absurd h (by decide)) now pass).trans (sbRun_capOutside out now pass s.dev)
  refine ⟨_, { LogEntry.plain s.clock.time 0x04 5 (u16At 0 q.payload) with seq := s.dev.regs.log.head + 1 }, rfl, ?_,
    onDev_answered ?_, ?_⟩
  · simp only [onDev, run, signal_energy]
    rfl
  · rw [run]
    exact mem_sbAnswer_out _ _ _ _
  · simp only [onDev, run, signal_log]
    exact ⟨log_newest _ _, rfl, rfl, rfl⟩

/-! ## A rood at rest has nothing to drain (Table 16.4) -/

/-- A rood whose intake has stopped. -/
def Rood.intakeStopped (x : Rood) : Rood := { x with intakeOn := false }

theorem drain_rests {x : Rood} (h : x.Rests) (ctx : Ctx) : x.drain ctx = x.intakeStopped := by
  obtain ⟨-, -, -, cmds, seqs, moves, -, -, arrivals, run, restore, -, -⟩ := h
  simp [Rood.drain, Rood.drainSeqs, Rood.drainText, Rood.drainMoves, Rood.drainCkp, Rood.drainArrivals, Rood.endArrivalsOf, cmds, seqs,
    moves, arrivals, run, restore, Rood.intakeStopped]

theorem settled_drain_rests {x : Rood} (h : x.Rests) (ctx : Ctx) : (x.settled (x.drain ctx)).Rests := by
  rw [drain_rests h]
  obtain ⟨held, posted, -, rest⟩ := h
  exact ⟨held, posted, rfl, rest⟩

theorem settled_drain_intakeOn {x : Rood} (h : x.Rests) (ctx : Ctx) : (x.settled (x.drain ctx)).intakeOn = false := by
  rw [drain_rests h]
  rfl

theorem Rood.Rests.drained {x : Rood} (h : x.Rests) : x.drained = true := by
  obtain ⟨-, -, -, cmds, -, moves, -, -, arrivals, -, -, -, crews⟩ := h
  have idle : x.crews.all Crew.idle = true := by
    refine List.all_eq_true.mpr (fun k hk => ?_)
    simp [Crew.idle, crews k hk]
  simp [Rood.drained, cmds, moves, arrivals, idle]

/-! ## ENTER_RECOVERY (R469, R473) -/

theorem drainRoods_bound (now : W64) (d : Dev) : RoodsFx d (d.drainRoods now) := by
  unfold Dev.drainRoods
  split
  · exact atEach_bound d _ now
  · exact FxOnly.refl d

theorem drainRoods_underReset {d : Dev} (h : d.integ.resets ≠ []) (now : W64) : d.drainRoods now = d := by
  simp [Dev.drainRoods, h]

theorem drainRoods_rests {d : Dev} (h : ∀ x ∈ d.roods, x.Rests) (now : W64) : ∀ x ∈ (d.drainRoods now).roods, x.Rests := by
  unfold Dev.drainRoods
  split
  · exact fun x hx => (atEach_all (Q := fun _ => True) (fun ctx y hy => ⟨settled_drain_rests hy ctx, trivial⟩) h x hx).1
  · exact h

/-- Roods that rest stop their intake at once. -/
theorem drainRoods_stops {d : Dev} (entering : d.entering = true) (free : d.integ.resets = []) (recovery : d.integ.recovery = false)
    (h : ∀ x ∈ d.roods, x.Rests) (now : W64) : ∀ x ∈ (d.drainRoods now).roods, x.intakeOn = false := by
  have drains : d.drainRoods now = d.atEach Rood.drain now := by simp [Dev.drainRoods, entering, free, recovery]
  rw [drains]
  exact fun x hx => (atEach_all (Q := fun y => y.intakeOn = false)
    (fun ctx y hy => ⟨settled_drain_rests hy ctx, settled_drain_intakeOn hy ctx⟩) h x hx).2

theorem sbRun_enterRecovery {q : SbReq} (code : q.code = 0x03) (form : q.formatOk = true) {d : Dev} (ready : d.boot.phase = .ready)
    (recovery : d.integ.recovery = false) (now : W64) (pass : Bool) : d.sbRun now pass q = (d.sbRunning q).drainRoods now := by
  simp [Dev.sbRun, Dev.sbIsBusy, Dev.sbWrongState, Dev.ready, code, form, ready, recovery]

theorem enterRecovery_judged {s : State} {msg : List Byte} {q : SbReq} (rest : AtRest s) (h : HasTurn s msg 0x03 q) :
    (s.dev.integ.recovery = true → ∃ t, exec (.enterRecovery msg) s = .next t ∧ OnlyAnswers s t q sbState []) ∧
    (s.dev.integ.recovery = false →
      ∃ t, exec (.enterRecovery msg) s = .next t ∧ t.clock = s.clock ∧ t.dev.side.running = some q ∧
        t.dev.integ = s.dev.integ ∧ (s.dev.integ.resets ≠ [] → t.dev.roods = s.dev.roods) ∧
        (s.dev.integ.resets = [] → ∀ x ∈ t.dev.roods, x.intakeOn = false)) := by
  obtain ⟨ready, -, -, roods⟩ := rest
  have code := h.1.2.2
  refine ⟨fun recovery => sideRow_wrongState (by decide) h (by simp [Dev.sbIsBusy, code, Dev.ready, ready])
    (by simp [Dev.sbWrongState, code, recovery]) false, fun recovery => ⟨_, sideRow_runs (by decide) h false, rfl, ?_⟩⟩
  have run (pass : Bool) := sbRun_enterRecovery code h.2.2 ready recovery s.clock.time pass
  have bound := drainRoods_bound s.clock.time (s.dev.sbRunning q)
  simp only [onDev, run, signal_side, signal_integ, signal_roods]
  refine ⟨by rw [bound.side]; rfl, bound.integ, fun resets => ?_,
    fun resets => drainRoods_stops (d := s.dev.sbRunning q) ?_ resets recovery roods _⟩
  · rw [drainRoods_underReset (d := s.dev.sbRunning q) resets]
    rfl
  · simp [Dev.entering, Dev.sbRunning, code]

/-! ## The end of the drain (Table 16.4 step 5) -/

theorem recoveryDrainDone_waits {s : State} (h : s.dev.entering = false ∨ s.dev.integ.resets ≠ []) :
    exec .recoveryDrainDone s = .next s := by
  refine congrArg _ (onDev_idle ?_)
  obtain h | h := h
  · simp [h]
  · simp [drainRoods_underReset h, h]

theorem finishRunning_answers {d : Dev} {q : SbReq} (h : d.side.running = some q) (result : Nat) (payload : List Byte) :
    d.finishRunning result payload = ({ d with side := { d.side with running := none } } : Dev).sbAnswer q result payload := by
  simp only [Dev.finishRunning, h]

/-- The device in the recovery state, with the request for it answered. -/
def Dev.recovered (q : SbReq) (d : Dev) : Dev :=
  ({ d with integ := { d.integ with recovery := true }, side := { d.side with running := none } } : Dev).sbAnswer q sbSuccess []

theorem recoveryDrainDone_ends {s : State} {q : SbReq} (running : s.dev.side.running = some q) (code : q.code = 0x03)
    (free : s.dev.integ.resets = []) (rest : ∀ x ∈ s.dev.roods, x.Rests) :
    exec .recoveryDrainDone s = .next (onDev (fun t d => (d.drainRoods t).recovered q) s) := by
  have entering : s.dev.entering = true := by simp [Dev.entering, running, code]
  have bound := drainRoods_bound s.clock.time s.dev
  have noReset : (s.dev.drainRoods s.clock.time).integ.resets = [] := by rw [bound.integ, free]
  have waits : (s.dev.drainRoods s.clock.time).side.running = some q := by rw [bound.side, running]
  have drained : (s.dev.drainRoods s.clock.time).roods.all Rood.drained = true :=
    List.all_eq_true.mpr (fun x hx => (drainRoods_rests rest _ x hx).drained)
  show execRecoveryDrainDone s = _
  simp [execRecoveryDrainDone, onDev, entering, noReset, drained, finishRunning_answers, waits, Dev.recovered]

theorem recoveryDrainDone_answers {s : State} {q : SbReq} (running : s.dev.side.running = some q) (code : q.code = 0x03)
    (free : s.dev.integ.resets = []) (rest : ∀ x ∈ s.dev.roods, x.Rests) :
    ∃ t, exec .recoveryDrainDone s = .next t ∧ t.dev.integ = { s.dev.integ with recovery := true } ∧ t.dev.side.running = none ∧
      Answered t q sbSuccess [] := by
  refine ⟨_, recoveryDrainDone_ends running code free rest, ?_, ?_, onDev_answered (mem_sbAnswer_out _ _ _ _)⟩
  · rw [← (drainRoods_bound s.clock.time s.dev).integ]
    exact signal_integ _ _
  · exact congrArg Sideband.running (signal_side _ _)

end Sys2Proof.Machine
end

section
/-! PROOF. The requests of the recovery state and the layout that EXIT_RECOVERY applies (R49, R50, R473, Table 19.18), and with them
obligation O53. -/
namespace Sys2Proof.Machine
open Sys2Proof

/-! ## SET_LAYOUT (R49, R50) -/

theorem sbRun_setLayout {q : SbReq} (code : q.code = 0x05) (form : q.formatOk = true) {d : Dev} (recovery : d.integ.recovery = true)
    (now : W64) (pass : Bool) : d.sbRun now pass q = d.sbLayout now q := by
  simp [Dev.sbRun, Dev.sbIsBusy, Dev.sbWrongState, code, form, recovery]

theorem sbLayout_refused {q : SbReq} {d : Dev} (h : d.sbLayoutCheck q ≠ 0) (now : W64) :
    d.sbLayout now q = (d.log (LogEntry.plain now 0x04 6 (d.sbLayoutCheck q))).sbAnswer q sbRefused
      (leBytes 1 (d.sbLayoutCheck q) ++ zeros 3) :=
  if_pos h

theorem sbLayout_recorded {q : SbReq} {d : Dev} (h : d.sbLayoutCheck q = 0) (now : W64) :
    d.sbLayout now q =
      ({ d with pendingLayout := some ((layoutEntries q.payload).map readLayoutEntry) } : Dev).sbAnswer q sbSuccess [] :=
  if_neg (not_not.mpr h)

theorem setLayout_judged {s : State} {msg : List Byte} {q : SbReq} (h : HasTurn s msg 0x05 q) (recovery : s.dev.integ.recovery = true) :
    (s.dev.sbLayoutCheck q ≠ 0 →
      ∃ t k, exec (.setLayout msg) s = .next t ∧ t.dev.layout = s.dev.layout ∧ t.dev.pendingLayout = s.dev.pendingLayout ∧
        Answered t q sbRefused (leBytes 1 (s.dev.sbLayoutCheck q) ++ zeros 3) ∧ t.dev.regs.log.entries.head? = some k ∧
        k.kind = 0x04 ∧ k.code = 6 ∧ k.detail = s.dev.sbLayoutCheck q) ∧
    (s.dev.sbLayoutCheck q = 0 →
      ∃ t, exec (.setLayout msg) s = .next t ∧ t.dev.layout = s.dev.layout ∧ t.dev.roods = s.dev.roods ∧
        t.dev.pendingLayout = some ((layoutEntries q.payload).map readLayoutEntry) ∧ Answered t q sbSuccess []) := by
  have run (pass : Bool) := sbRun_setLayout h.1.2.2 h.2.2 recovery s.clock.time pass
  refine ⟨fun fails => ⟨_, { LogEntry.plain s.clock.time 0x04 6 (s.dev.sbLayoutCheck q) with seq := s.dev.regs.log.head + 1 },
    sideRow_runs (by decide) h false, ?_, ?_, onDev_answered ?_, ?_⟩, fun passes => ⟨_, sideRow_runs (by decide) h false, ?_⟩⟩
  · simp only [onDev, run, sbLayout_refused fails, signal_layout]
    rfl
  · simp only [onDev, run, sbLayout_refused fails, signal_pendingLayout]
    rfl
  · rw [run, sbLayout_refused fails]
    exact mem_sbAnswer_out _ _ _ _
  · simp only [onDev, run, sbLayout_refused fails, signal_log]
    exact ⟨log_newest _ _, rfl, rfl, rfl⟩
  · have silent : SameSigns s.dev (s.dev.sbLayout s.clock.time q) := by
      rw [sbLayout_recorded passes]
      exact ⟨rfl, rfl, rfl, rfl, rfl, rfl⟩
    rw [onDev_silent (run _) silent, sbLayout_recorded passes]
    exact ⟨rfl, rfl, rfl, mem_sbAnswer_out _ _ _ _⟩

/-! ## ASSAY_SG (R473) -/

/-- A mark that is cleared is gone, and every other mark stays. -/
theorem bvClear_getLsbD {n g : Nat} (h : g < n) (i : Nat) (v : BitVec n) : (bvClear i v).getLsbD g = (v.getLsbD g && decide (i ≠ g)) := by
  simp only [bvClear, BitVec.getLsbD_and, BitVec.getLsbD_not, BitVec.getLsbD_ofNat, Nat.testBit_two_pow, h, decide_true, Bool.true_and,
    decide_not]

theorem sbRun_assay {q : SbReq} (code : q.code = 0x08) (form : q.formatOk = true) {d : Dev} (recovery : d.integ.recovery = true)
    (failed : d.integ.sgFailed.getLsbD (u8At 0 q.payload) = true) (now : W64) (pass : Bool) : d.sbRun now pass q = d.sbAssay pass q := by
  simp [Dev.sbRun, Dev.sbIsBusy, Dev.sbWrongState, code, form, recovery, failed]

theorem assaySg_judged {s : State} {msg : List Byte} {q : SbReq} (h : HasTurn s msg 0x08 q) (recovery : s.dev.integ.recovery = true)
    (failed : s.dev.integ.sgFailed.getLsbD (u8At 0 q.payload) = true) :
    (∃ t, exec (.assaySg msg false) s = .next t ∧ OnlyAnswers s t q sbSuccess (leBytes 1 1 ++ zeros 3)) ∧
    ∃ t, exec (.assaySg msg true) s = .next t ∧ Answered t q sbSuccess (leBytes 1 0 ++ zeros 3) ∧
      t.dev.integ.sgFailed.getLsbD (u8At 0 q.payload) = false ∧
      ∀ g, g < 24 → g ≠ u8At 0 q.payload → t.dev.integ.sgFailed.getLsbD g = s.dev.integ.sgFailed.getLsbD g := by
  have run (pass : Bool) := sbRun_assay h.1.2.2 h.2.2 recovery failed s.clock.time pass
  refine ⟨⟨_, sideRow_runs (by decide) h false, onDev_onlyAnswers (run _)⟩, _, sideRow_runs (by decide) h true, ?_⟩
  have marks : (onDev (fun t d => d.sbRun t (8 == 8 && true) q) s).dev.integ.sgFailed =
      bvClear (u8At 0 q.payload) s.dev.integ.sgFailed := by
    simp only [onDev, signal_integ, run]
    rfl
  refine ⟨onDev_answered ?_, ?_, fun g hg other => ?_⟩
  · rw [run]
    exact mem_sbAnswer_out _ _ _ _
  · rw [marks, bvClear_getLsbD (BitVec.lt_of_getLsbD failed)]
    simp
  · rw [marks, bvClear_getLsbD hg]
    simp [other.symm]

/-! ## The roods of a new layout (R45, R50) -/

/-- The rood that an entry keeps has the entry's stack groups, and every rood of a new layout has its entry's place. -/
theorem layoutRood_place (i : Nat) (e : LayoutEntry) (d : Dev) : (d.layoutRood i e).place = (i, e.firstSg, e.width) := by
  unfold Dev.layoutRood
  split
  · next x kept =>
    have same := List.find?_some kept
    rw [Bool.and_eq_true, beq_iff_eq, beq_iff_eq] at same
    rw [← same.1, ← same.2]
    by_cases hn : x.num = i
    · simp [Rood.place, hn]
    · simp [Rood.place, Rood.renumber, hn]
  · rfl

theorem layoutRood_holdsStill {e : LayoutEntry} {d : Dev} {x : Rood} (kept : d.keptRood e = some x) (i : Nat) :
    HoldsStill { x with flashShare := e.flashShare } (d.layoutRood i e) := by
  unfold Dev.layoutRood
  simp only [kept]
  refine ⟨rfl, ?_⟩
  by_cases hn : x.num = i
  · simp [hn]
  · simp [hn, Rood.renumber]

/-- The places of a layout's roods. -/
def layoutPlaces (l : List LayoutEntry) : List (Nat × Nat × Nat) := l.zipIdx.map (fun p => (p.2, p.1.firstSg, p.1.width))

theorem layoutPlaces_nodup (l : List LayoutEntry) : ((layoutPlaces l).map Prod.fst).Nodup := by
  have numbers : (layoutPlaces l).map Prod.fst = List.range' 0 l.length := by
    rw [layoutPlaces, List.map_map, ← List.zipIdx_map_snd]
    rfl
  rw [numbers]
  exact List.nodup_range'

/-- The device once its layout is replaced, before the roods that come anew are opened. -/
def Dev.relaid (now : W64) (l : List LayoutEntry) (d : Dev) : Dev :=
  let gone := d.droppedRoods l
  let d' := gone.foldl (fun d x => d.freePlaces x) d
  ({ d' with
    layout := l, pendingLayout := none, roods := l.zipIdx.map (fun p => d.layoutRood p.2 p.1)
    comp := { d'.comp with
      closed := if d'.comp.composed then closeTallies d'.comp.closed (gone.map (fun x => x.takeTally now)) else d'.comp.closed }
    energy := { d'.energy with bank := List.replicate 24 0, active := List.replicate 24 false } } : Dev).repower d.layoutSgs

/-- The roods of a new layout that the one in force does not keep. -/
def Dev.freshRoods (l : List LayoutEntry) (d : Dev) : List Rood :=
  (l.zipIdx.map (fun p => d.layoutRood p.2 p.1)).filter (fun x =>
    (l.filter (fun e => (d.keptRood e).isNone)).any (fun e => e.firstSg == x.firstSg))

theorem applyLayout_eq (now : W64) (l : List LayoutEntry) (d : Dev) :
    d.applyLayout now l = if (d.relaid now l).comp.composed then (d.freshRoods l).foldl (fun d x => d.openRood now x) (d.relaid now l)
      else d.relaid now l := rfl

theorem relaid_roods (now : W64) (l : List LayoutEntry) (d : Dev) :
    (d.relaid now l).roods = l.zipIdx.map (fun p => d.layoutRood p.2 p.1) := rfl

theorem relaid_places (now : W64) (l : List LayoutEntry) (d : Dev) : (d.relaid now l).places = layoutPlaces l := by
  rw [Dev.places, relaid_roods, List.map_map, layoutPlaces]
  exact List.map_congr_left (fun p _ => layoutRood_place p.2 p.1 d)

/-- Where no two roods have one number, a rood is found by its number. -/
theorem rood?_of_mem {d : Dev} (h : (d.places.map Prod.fst).Nodup) {x : Rood} (hx : x ∈ d.roods) : d.rood? x.num = some x := by
  rw [Dev.places, List.map_map] at h
  cases hf : d.rood? x.num with
  | none => exact absurd rfl (num_ne_of_missing hf hx)
  | some y => rw [List.inj_on_of_nodup_map h hx (List.mem_of_find?_eq_some hf) (rood?_num hf).symm]

theorem relaid_rood? {l : List LayoutEntry} {i : Nat} {e : LayoutEntry} (h : l[i]? = some e) (now : W64) (d : Dev) :
    (d.relaid now l).rood? i = some (d.layoutRood i e) := by
  have listed : d.layoutRood i e ∈ (d.relaid now l).roods :=
    List.mem_map.mpr ⟨(e, i), List.mk_mem_zipIdx_iff_getElem?.mpr h, rfl⟩
  have number : (d.layoutRood i e).num = i := congrArg Prod.fst (layoutRood_place i e d)
  rw [← rood?_of_mem (relaid_places now l d ▸ layoutPlaces_nodup l) listed, number]

/-! ## The opening of the roods that come anew -/

theorem takeRoom_place (use : FrameUse) (needs : List (Nat × Nat)) (x : Rood) : (x.takeRoom use needs).2.place = x.place := by
  unfold Rood.takeRoom
  generalize ([] : List Nat) = taken
  induction needs generalizing taken x with
  | nil => rfl
  | cons n needs ih => exact ih _ _

/-- The rood that `openRood` puts in the place of `x`. -/
def Dev.opened (now : W64) (x : Rood) (d : Dev) : Rood :=
  d.startRood (freshLineage (d.boot.draws + 1))
    { x with storageKey := Config.random256 d.boot.draws, tally := Tally.fresh x.num x.width d.comp.serial now, carried := none }

theorem openRood_eq (now : W64) (x : Rood) (d : Dev) :
    d.openRood now x = ({ d with boot := { d.boot with draws := d.boot.draws + 2 } } : Dev).setRood (d.opened now x) := rfl

theorem opened_place (now : W64) (x : Rood) (d : Dev) : (d.opened now x).place = x.place := takeRoom_place _ _ _

theorem opened_num (now : W64) (x : Rood) (d : Dev) : (d.opened now x).num = x.num := congrArg Prod.fst (opened_place now x d)

theorem openRood_bound (now : W64) (x : Rood) (d : Dev) : RoodsFx d (d.openRood now x) := rfl

theorem openRood_rood? {i : Nat} {x : Rood} (h : x.num ≠ i) (now : W64) (d : Dev) : (d.openRood now x).rood? i = d.rood? i := by
  rw [openRood_eq, setRood_rood?, if_neg (fun same => h ((opened_num now x d).symm.trans same.symm))]
  rfl

theorem openRood_places {d : Dev} (h : (d.places.map Prod.fst).Nodup) {x : Rood} (hx : x.place ∈ d.places) (now : W64) :
    (d.openRood now x).places = d.places := by
  rw [openRood_eq]
  refine setRood_places (d := { d with boot := { d.boot with draws := d.boot.draws + 2 } }) (fun p hp same => ?_)
  rw [opened_place]
  exact List.inj_on_of_nodup_map h hp hx (same.trans (opened_num now x d))

theorem foldl_openRood_bound (now : W64) (l : List Rood) (d : Dev) : RoodsFx d (l.foldl (fun d x => d.openRood now x) d) := by
  induction l generalizing d with
  | nil => exact FxOnly.refl d
  | cons x l ih => exact (openRood_bound now x d).trans (ih _)

theorem foldl_openRood_rood? {i : Nat} {l : List Rood} (h : ∀ x ∈ l, x.num ≠ i) (now : W64) (d : Dev) :
    (l.foldl (fun d x => d.openRood now x) d).rood? i = d.rood? i := by
  induction l generalizing d with
  | nil => rfl
  | cons x l ih =>
    obtain ⟨hx, hl⟩ := List.forall_mem_cons.mp h
    exact (ih hl _).trans (openRood_rood? hx now d)

theorem foldl_openRood_places {l : List Rood} {d : Dev} (h : (d.places.map Prod.fst).Nodup) (hl : ∀ x ∈ l, x.place ∈ d.places)
    (now : W64) : (l.foldl (fun d x => d.openRood now x) d).places = d.places := by
  induction l generalizing d with
  | nil => rfl
  | cons x l ih =>
    obtain ⟨hx, hl⟩ := List.forall_mem_cons.mp hl
    have same := openRood_places h hx now
    exact (ih (same ▸ h) (same ▸ hl)).trans same

/-! ## What a new layout leaves (R50) -/

theorem applyLayout_bound (now : W64) (l : List LayoutEntry) (d : Dev) : RoodsFx (d.relaid now l) (d.applyLayout now l) := by
  rw [applyLayout_eq]
  split
  · exact foldl_openRood_bound _ _ _
  · exact FxOnly.refl _

theorem freshRoods_places {l : List LayoutEntry} {d : Dev} {x : Rood} (h : x ∈ d.freshRoods l) : x.place ∈ layoutPlaces l := by
  obtain ⟨p, hp, rfl⟩ := List.mem_map.mp (List.mem_of_mem_filter h)
  rw [layoutRood_place]
  exact List.mem_map.mpr ⟨p, hp, rfl⟩

theorem applyLayout_places (now : W64) (l : List LayoutEntry) (d : Dev) : (d.applyLayout now l).places = layoutPlaces l := by
  have relaid := relaid_places now l d
  rw [applyLayout_eq]
  split
  · rw [foldl_openRood_places (relaid ▸ layoutPlaces_nodup l) (fun x hx => relaid ▸ freshRoods_places hx), relaid]
  · exact relaid

/-- A rood that stays is not among those that come anew, since no two entries of a layout begin at one stack group. -/
theorem freshRoods_num {l : List LayoutEntry} (apart : (l.map (fun e => e.firstSg)).Nodup) {i : Nat} {e : LayoutEntry}
    (listed : l[i]? = some e) {d : Dev} (kept : (d.keptRood e).isSome = true) : ∀ x ∈ d.freshRoods l, x.num ≠ i := by
  intro x hx same
  obtain ⟨hx, fresh⟩ := List.mem_filter.mp hx
  obtain ⟨⟨e', j⟩, hp, rfl⟩ := List.mem_map.mp hx
  have place := layoutRood_place j e' d
  obtain rfl : j = i := (congrArg Prod.fst place).symm.trans same
  obtain rfl : e' = e := Option.some.inj ((List.mk_mem_zipIdx_iff_getElem?.mp hp).symm.trans listed)
  obtain ⟨f, hf, start⟩ := List.any_eq_true.mp fresh
  obtain ⟨hf, unkept⟩ := List.mem_filter.mp hf
  have begins : f.firstSg = e'.firstSg := (beq_iff_eq.mp start).trans (congrArg (fun p => p.2.1) place)
  obtain rfl := List.inj_on_of_nodup_map apart hf (List.mem_of_getElem? listed) begins
  rw [Option.isNone_iff_eq_none.mp unkept] at kept
  exact absurd kept (by decide)

theorem applyLayout_kept {l : List LayoutEntry} (apart : (l.map (fun e => e.firstSg)).Nodup) {i : Nat} {e : LayoutEntry}
    (listed : l[i]? = some e) {d : Dev} {x : Rood} (kept : d.keptRood e = some x) (now : W64) :
    (d.applyLayout now l).rood? i = some (d.layoutRood i e) := by
  rw [applyLayout_eq]
  split
  · rw [foldl_openRood_rood? (freshRoods_num apart listed (by rw [kept]; rfl)), relaid_rood? listed]
  · exact relaid_rood? listed now d

/-! ## EXIT_RECOVERY (R50, R473) -/

/-- The device out of the recovery state, with the request answered. -/
def Dev.leftRecovery (q : SbReq) (d : Dev) : Dev :=
  (({ d with integ := { d.integ with recovery := false } } : Dev).resumeIntake).sbAnswer q sbSuccess
    (leBytes 1 d.layout.length ++ zeros 7)

theorem sbExit_sameLayout {d : Dev} (h : d.pendingLayout = none) (now : W64) (q : SbReq) :
    d.sbExit now q = (d.leftRecovery q).settleAll now := by
  unfold Dev.sbExit
  rw [h]
  rfl

theorem sbExit_newLayout {d : Dev} {l : List LayoutEntry} (h : d.pendingLayout = some l) (now : W64) (q : SbReq) :
    d.sbExit now q = ((d.applyLayout now l).leftRecovery q).settleAll now := by
  unfold Dev.sbExit
  rw [h]
  rfl

theorem leftRecovery_roods (q : SbReq) (d : Dev) : (d.leftRecovery q).roods =
    d.roods.map (fun x => { x with intakeOn := d.roodsLive && x.scrubbing.isEmpty && !x.fenced }) := rfl

theorem leftRecovery_places (q : SbReq) (d : Dev) : (d.leftRecovery q).places = d.places := by
  rw [Dev.places, leftRecovery_roods, List.map_map]
  rfl

theorem leftRecovery_holdsStill {d : Dev} {i : Nat} {x y : Rood} (h : d.rood? i = some y) (still : HoldsStill x y) (q : SbReq) :
    ∃ z, (d.leftRecovery q).rood? i = some z ∧ HoldsStill x z := by
  refine ⟨{ y with intakeOn := d.roodsLive && y.scrubbing.isEmpty && !y.fenced }, ?_, still⟩
  unfold Dev.rood? at h ⊢
  rw [leftRecovery_roods, List.find?_map]
  exact congrArg (Option.map _) h

theorem sbRun_exitRecovery {q : SbReq} (code : q.code = 0x04) (form : q.formatOk = true) {d : Dev} (recovery : d.integ.recovery = true)
    (now : W64) (pass : Bool) : d.sbRun now pass q = d.sbExit now q := by
  simp [Dev.sbRun, Dev.sbIsBusy, Dev.sbWrongState, code, form, recovery]

/-- What EXIT_RECOVERY leaves of the device `e`, in which its layout is in force. -/
theorem exitRecovery_leaves {s : State} {msg : List Byte} {q : SbReq} (h : HasTurn s msg 0x04 q)
    (recovery : s.dev.integ.recovery = true) {e : Dev} (exits : s.dev.sbExit s.clock.time q = (e.leftRecovery q).settleAll s.clock.time) :
    ∃ t, exec (.exitRecovery msg) s = .next t ∧ t.dev.integ.recovery = false ∧ t.dev.layout = e.layout ∧
      t.dev.pendingLayout = e.pendingLayout ∧ t.dev.energy.bank = e.energy.bank ∧
      Answered t q sbSuccess (leBytes 1 e.layout.length ++ zeros 7) ∧
      t.dev.roods = ((e.leftRecovery q).settleAll s.clock.time).roods := by
  have run (pass : Bool) := (sbRun_exitRecovery h.1.2.2 h.2.2 recovery s.clock.time pass).trans exits
  have bound := settleAll_bound s.clock.time (e.leftRecovery q)
  refine ⟨_, sideRow_runs (by decide) h false, ?_, ?_, ?_, ?_, onDev_answered ?_, ?_⟩
  · simp only [onDev, run, signal_integ, bound.integ]
    rfl
  · simp only [onDev, run, signal_layout, bound.layout]
    rfl
  · simp only [onDev, run, signal_pendingLayout, bound.pendingLayout]
    rfl
  · simp only [onDev, run, signal_energy, bound.bank]
    rfl
  · rw [run]
    exact (settleAll_out _ _).subset (mem_sbAnswer_out _ _ _ _)
  · simp only [onDev, run, signal_roods]

theorem exitRecovery_judged {s : State} {msg : List Byte} {q : SbReq} (h : HasTurn s msg 0x04 q) :
    (s.dev.integ.recovery = false → ∃ t, exec (.exitRecovery msg) s = .next t ∧ OnlyAnswers s t q sbState []) ∧
    (s.dev.integ.recovery = true → s.dev.pendingLayout = none →
      ∃ t, exec (.exitRecovery msg) s = .next t ∧ t.dev.integ.recovery = false ∧ t.dev.layout = s.dev.layout ∧
        Answered t q sbSuccess (leBytes 1 s.dev.layout.length ++ zeros 7)) := by
  constructor
  · intro recovery
    exact sideRow_wrongState (by decide) h (by simp [Dev.sbIsBusy, h.1.2.2]) (by simp [Dev.sbWrongState, h.1.2.2, recovery]) false
  · intro recovery none
    obtain ⟨t, ht, out, layout, -, -, answered, -⟩ := exitRecovery_leaves h recovery (sbExit_sameLayout none s.clock.time q)
    exact ⟨t, ht, out, layout, answered⟩

theorem exitRecovery_applies {s : State} {msg : List Byte} {q : SbReq} (h : HasTurn s msg 0x04 q)
    {l : List LayoutEntry} (recovery : s.dev.integ.recovery = true) (pending : s.dev.pendingLayout = some l)
    (apart : (l.map (fun e => e.firstSg)).Nodup) :
    ∃ t, exec (.exitRecovery msg) s = .next t ∧ t.dev.integ.recovery = false ∧ t.dev.layout = l ∧
      t.dev.pendingLayout = none ∧ t.dev.energy.bank = List.replicate 24 0 ∧
      Answered t q sbSuccess (leBytes 1 l.length ++ zeros 7) ∧ t.dev.places = layoutPlaces l ∧
      ∀ i e x, l[i]? = some e → s.dev.keptRood e = some x →
        ∃ y, t.dev.rood? i = some y ∧ HoldsStill { x with flashShare := e.flashShare } y := by
  have bound := applyLayout_bound s.clock.time l s.dev
  have places := (leftRecovery_places q _).trans (applyLayout_places s.clock.time l s.dev)
  have layout : (s.dev.applyLayout s.clock.time l).layout = l := bound.layout
  obtain ⟨t, ht, out, hlayout, hpending, bank, answered, roods⟩ :=
    exitRecovery_leaves h recovery (sbExit_newLayout pending s.clock.time q)
  rw [layout] at hlayout answered
  refine ⟨t, ht, out, hlayout, hpending.trans bound.pendingLayout, bank.trans bound.bank, answered, ?_, fun i e x listed kept => ?_⟩
  · rw [Dev.places, roods]
    exact (settleAll_places (places ▸ layoutPlaces_nodup l) _).trans places
  · obtain ⟨y, hy, still⟩ := settleAll_holdsStill
      (leftRecovery_holdsStill (applyLayout_kept apart listed kept s.clock.time) (layoutRood_holdsStill kept i) q) s.clock.time
    exact ⟨y, (congrArg (List.find? _) roods).trans hy, still⟩

/-- Settles O53: each control request runs in its turn, and what it does is said of the device that the turn finds. -/
theorem controlRequestsTakeTheirTurn : Obligations.ControlRequestsTakeTheirTurn := by
  unfold Obligations.ControlRequestsTakeTheirTurn
  intro msg q s
  refine ⟨fun code pass hc asks taken accepted => ⟨_, sideRow_waits hc asks taken accepted pass, rfl⟩,
    fun pass => ⟨fun idle => sidebandQueueAdvance_idle idle pass,
      fun rest free next code form => setCap_waited free next code form pass⟩,
    setCap_takes, setCap_refused, enterRecovery_judged, recoveryDrainDone_waits, recoveryDrainDone_answers, setLayout_judged,
    assaySg_judged, fun h => ?_⟩
  obtain ⟨wrongState, sameLayout⟩ := exitRecovery_judged h
  refine ⟨wrongState, sameLayout, fun l recovery pending apart => ?_⟩
  obtain ⟨t, ht, out, layout, pendingAfter, bank, answered, places, keeps⟩ := exitRecovery_applies h recovery pending apart
  refine ⟨t, ht, out, layout, pendingAfter, bank, answered, places, fun i e x listed kept => ?_⟩
  obtain ⟨y, hy, -, still⟩ := keeps i e x listed kept
  exact ⟨y, hy, still⟩

end Sys2Proof.Machine
end

section
/-! PROOF. What the host interface's operations on rings and messages give, one by one: enabled rings in which no line is posted,
records that are written, and messages of the rood's function (R132 to R140, R158). -/
namespace Sys2Proof.Machine
open Sys2Proof

/-! ## A list with one element replaced -/

@[simp] theorem modIdx_self {α : Type} (i : Nat) (f : α → α) (l : List α) : (modIdx i f l)[i]? = l[i]?.map f := by
  simp [modIdx]

theorem modIdx_other {α : Type} {i j : Nat} (h : j ≠ i) (f : α → α) (l : List α) : (modIdx i f l)[j]? = l[j]? := by
  simp [modIdx, h.symm]

/-- Only the value at the element that is replaced counts. -/
theorem modIdx_congr {α : Type} {i : Nat} {f g : α → α} {l : List α} {a : α} (at_i : l[i]? = some a) (same : f a = g a) :
    modIdx i f l = modIdx i g l := by
  refine List.ext_getElem? (fun j => ?_)
  by_cases hj : j = i
  · subst hj
    simp [at_i, same]
  · rw [modIdx_other hj, modIdx_other hj]

theorem modIdx_modIdx {α : Type} (i : Nat) (f g : α → α) (l : List α) :
    modIdx i g (modIdx i f l) = modIdx i (fun a => g (f a)) l := by
  refine List.ext_getElem? (fun j => ?_)
  by_cases hj : j = i
  · subst hj
    simp [Option.map_map, Function.comp_def]
  · simp only [modIdx_other hj]

/-- An element that the replacement leaves as it is leaves the list as it is. -/
theorem modIdx_fixed {α : Type} {i : Nat} {f : α → α} {l : List α} {a : α} (at_i : l[i]? = some a) (fixed : f a = a) :
    modIdx i f l = l :=
  (modIdx_congr at_i (g := id) fixed).trans (List.modify_id i l)

/-! ## Rings in which no line is posted (R136) -/

/-- Every enabled intake ring but ring `n` has nothing posted. -/
def OthersIdle (n : Nat) (x : Rood) : Prop := ∀ m j, m ≠ n → x.irings[m]? = some j → j.enable = true → j.idle = true

theorem NonePosted.othersIdle {x : Rood} (h : NonePosted x) (n : Nat) : OthersIdle n x :=
  fun _ j _ hj he => h j (List.mem_of_getElem? hj) he

/-- A rood whose ring `n` becomes one that is idle, or not enabled, has nothing posted when the others have not. -/
theorem nonePosted_of_othersIdle {n : Nat} {x y : Rood} {i : IRing} (others : OthersIdle n x) {f : IRing → IRing}
    (irings : y.irings = modIdx n f x.irings) (ring : x.irings[n]? = some i) (idle : (f i).enable = true → (f i).idle = true) :
    NonePosted y := by
  intro j hj enabled
  obtain ⟨m, hm⟩ := List.mem_iff_getElem?.mp hj
  rw [irings] at hm
  by_cases hmn : m = n
  · subst hmn
    obtain rfl : f i = j := by simpa [ring] using hm
    exact idle enabled
  · exact others m j hmn ((modIdx_other hmn f x.irings).symm.trans hm) enabled

/-- Whether lines are posted is a question about the intake rings alone. -/
theorem NonePosted.of_irings {x y : Rood} (h : NonePosted x) (irings : y.irings = x.irings) : NonePosted y := by
  rwa [NonePosted, irings]

theorem pumpAux_nonePosted {x : Rood} (h : NonePosted x) (now : W64) (fuel : Nat) : x.pumpAux now fuel = x := by
  cases fuel with
  | zero => rfl
  | succ fuel =>
    have none : (List.range 8).findSome? (fun n => (x.acceptable n).map (fun p => (n, p))) = none :=
      List.findSome?_eq_none_iff.mpr (fun n _ => by rw [acceptable_none h]; rfl)
    rw [Rood.pumpAux, none]

/-- What a ring offers is judged on that ring alone, so that a rood in which every ring is like it says the same. -/
theorem acceptable_idle {n : Nat} {x : Rood} (h : ∀ i, x.irings[n]? = some i → i.enable = true → i.idle = true) :
    x.acceptable n = none := by
  cases hi : x.irings[n]? with
  | none => simp [Rood.acceptable, hi]
  | some i =>
    have posted : NonePosted { x with irings := List.replicate (n + 1) i } := fun j hj he => by
      rw [List.eq_of_mem_replicate hj] at he ⊢
      exact h i hi he
    rw [← acceptable_none posted n]
    simp [Rood.acceptable, hi]

/-! ## Records and messages (R133, R151, R158) -/

/-- A request that counts or sends a message. -/
def Fx.reports : Fx → Bool
  | .count _ _ | .out _ => true
  | _ => false

/-- Only completion rings, host memory, MSI-X entries and requests differ, and the new requests count or send messages: what
writing records comes to. -/
structure RecordSide (x y : Rood) : Prop where
  only : y = { x with crings := y.crings, host := y.host, fx := y.fx, regs := { x.regs with msix := y.regs.msix } }
  asks : ∀ f ∈ y.fx, f ∈ x.fx ∨ f.reports = true

namespace RecordSide

theorem refl (x : Rood) : RecordSide x x := ⟨rfl, fun _ h => .inl h⟩

theorem trans {x y z : Rood} (h : RecordSide x y) (k : RecordSide y z) : RecordSide x z := by
  constructor
  · have only := k.only
    rw [h.only] at only
    exact only
  · exact fun f hf => (k.asks f hf).elim (h.asks f) .inr

/-- A change of completion rings, host memory and MSI-X entries that asks for nothing. -/
theorem of_only {x y : Rood}
    (only : y = { x with crings := y.crings, host := y.host, regs := { x.regs with msix := y.regs.msix } }) : RecordSide x y := by
  constructor
  · rw [only]
  · rw [only]
    exact fun _ h => .inl h

theorem ask {f : Fx} (h : f.reports = true) (x : Rood) : RecordSide x (x.ask f) :=
  ⟨rfl, fun _ hg => (List.mem_cons.mp hg).elim (fun e => .inr (e ▸ h)) .inl⟩

theorem count (i n : Nat) (x : Rood) : RecordSide x (x.count i n) := by
  unfold Rood.count
  split
  · exact refl x
  · exact ask rfl x

theorem hostWrite (a : Nat) (bs : List Byte) (x : Rood) : RecordSide x (x.hostWrite a bs) := by
  unfold Rood.hostWrite
  split
  · exact refl x
  · exact of_only rfl

theorem modCring (n : Nat) (f : CRing → CRing) (x : Rood) : RecordSide x (x.modCring n f) := of_only rfl

theorem msix (vec : Nat) (x : Rood) : RecordSide x (x.msix vec) := by
  have entries : RecordSide x { x with regs := { x.regs with msix := (msixRaise vec x.regs.msix).1 } } := of_only rfl
  unfold Rood.msix
  dsimp only
  split
  · exact refl x
  · split
    · exact (entries.trans (ask rfl _)).trans (count _ _ _)
    · exact entries

theorem moderate (now : W64) (n : Nat) (irq : Bool) (x : Rood) : RecordSide x (x.moderate now n irq) := by
  unfold Rood.moderate
  split
  · split
    · exact (modCring _ _ _).trans (msix _ _)
    · exact refl x
  · exact refl x

theorem writeRecord (now : W64) (n : Nat) (r : CRec) (x : Rood) : RecordSide x (x.writeRecord now n r) := by
  unfold Rood.writeRecord
  split
  · exact refl x
  · split
    · exact refl x
    · split
      · exact modCring _ _ _
      · exact (((hostWrite _ _ _).trans (modCring _ _ _)).trans (count _ _ _)).trans (moderate _ _ _ _)

/-- An entry of the rood's own log sends at most a message. -/
theorem logOwn (e : LogEntry) (x : Rood) :
    RecordSide { x with regs := { x.regs with log := x.regs.log.write 64 e, logEvent := true } } (x.logOwn e) := by
  unfold Rood.logOwn
  dsimp only
  split
  · exact msix _ _
  · exact refl _

theorem foldl {α : Type} {f : Rood → α → Rood} (h : ∀ x a, RecordSide x (f x a)) (l : List α) (x : Rood) :
    RecordSide x (l.foldl f x) := by
  induction l generalizing x with
  | nil => exact refl x
  | cons a l ih => exact (h x a).trans (ih _)

theorem releaseHeld (now : W64) (n : Nat) (x : Rood) : RecordSide x (x.releaseHeld now n) := by
  unfold Rood.releaseHeld
  split
  · exact refl x
  · exact (modCring _ _ _).trans (foldl (fun x r => writeRecord now n r x) _ _)

/-- A command completes: it is gone, and its record is written. -/
theorem complete (now : W64) (c : Cmd) (r : CRec) (x : Rood) :
    RecordSide { x with cmds := x.cmds.filter (fun d => d.id != c.id) } (x.complete now c r) := writeRecord _ _ _ _

theorem hostSide {x y : Rood} (h : RecordSide x y) : HostSide x y := by
  unfold HostSide
  rw [h.only]

theorem irings {x y : Rood} (h : RecordSide x y) : y.irings = x.irings := by rw [h.only]
theorem cmds {x y : Rood} (h : RecordSide x y) : y.cmds = x.cmds := by rw [h.only]
theorem nextCmd {x y : Rood} (h : RecordSide x y) : y.nextCmd = x.nextCmd := by rw [h.only]
theorem log {x y : Rood} (h : RecordSide x y) : y.regs.log = x.regs.log := by rw [h.only]
theorem logEvent {x y : Rood} (h : RecordSide x y) : y.regs.logEvent = x.regs.logEvent := by rw [h.only]

end RecordSide

/-- A vector that is not masked sends its message. -/
theorem msix_sends {x : Rood} {vec : Nat} {e : MsixEntry} (quiet : x.quiet = false) (entry : x.regs.msix[vec]? = some e)
    (unmasked : e.masked = false) : x.msix vec = (x.ask (.out (.msix (x.num + 1) vec))).count 3 1 := by
  have raised : msixRaise vec x.regs.msix = (x.regs.msix, true) := by simp [msixRaise, entry, unmasked]
  rw [Rood.msix, if_neg (by simp [quiet])]
  simp only [raised, if_true]

/-- A masked vector sets its pending bit. -/
theorem msix_pends {x : Rood} {vec : Nat} {e : MsixEntry} (quiet : x.quiet = false) (entry : x.regs.msix[vec]? = some e)
    (masked : e.masked = true) :
    x.msix vec = { x with regs := { x.regs with msix := x.regs.msix.set vec { e with pend := true } } } := by
  simp [Rood.msix, msixRaise, quiet, entry, masked]

/-- A rood that takes part in work becomes what the work is found to make of it. -/
theorem onRood_becomes_of {s : State} {r : Nat} {x y : Rood} (hw : Works s r x) {f : Ctx → Rood → Rood}
    (work : f (ctxOf s) x = y) : Becomes (onRood r f s) r x y := work ▸ onRood_becomes hw f

theorem onCxl_becomes_of {s : State} {r : Nat} {x y : Rood} (hw : Works s r x) (link : s.dev.linkFull = true)
    {f : Ctx → Rood → Rood} (work : f (ctxOf s) x = y) : Becomes (onCxl r f s) r x y := work ▸ onCxl_becomes hw link f

/-- What a rood asks for leaves it with its work. -/
theorem Becomes.unasked {t : State} {r : Nat} {x y z : Rood} (h : Becomes t r x z) (only : z = { y with fx := z.fx }) :
    Becomes t r x y := by
  rw [only] at h
  exact h

/-- A message among the requests of a rood leaves the package when they are carried out. -/
theorem foldr_sends {l : List Fx} {o : Output} (asked : .out o ∈ l) (r : Nat) (d : Dev) :
    o ∈ (l.foldr (fun g d => d.applyFx r g) d).out := by
  induction l with
  | nil => cases asked
  | cons g l ih =>
    rcases List.mem_cons.mp asked with rfl | later
    · exact List.mem_append_right _ (List.mem_singleton.mpr rfl)
    · exact (applyFx_out _ _ _).subset (ih later)

/-- What a rood asks to be sent leaves the package with its work. -/
theorem onRood_sends {s : State} {r : Nat} {x : Rood} (hw : Works s r x) {f : Ctx → Rood → Rood} {o : Output}
    (asked : .out o ∈ (f (ctxOf s) x).fx) : o ∈ (onRood r f s).dev.out := by
  unfold onRood
  rw [onDev_dev, if_pos hw.1]
  apply signal_out
  unfold Dev.atRood
  rw [hw.2]
  exact foldr_sends asked _ _

end Sys2Proof.Machine
end

section
/-! PROOF. The index lines, the moderation timeout of a ring, and a vector that is unmasked (R134, R135, R140, R158), and with them
obligation O25. -/
namespace Sys2Proof.Machine
open Sys2Proof

/-- A rood that is not quiet writes host memory where CXL.cache is presented. -/
theorem hostWrite_exact {x : Rood} (quiet : x.quiet = false) (a : Nat) (bs : List Byte) :
    x.hostWrite a bs = { x with host := if x.cacheOff then x.host else memWrite x.host a bs } := by
  rw [Rood.hostWrite, show (x.quiet || x.cacheOff) = x.cacheOff by simp [quiet]]
  split <;> rfl

theorem writeCons_exact {x : Rood} {n : Nat} {i : IRing} (ring : x.irings[n]? = some i) (quiet : x.quiet = false) :
    x.writeCons n = { x with
      host := if x.cacheOff then x.host else memWrite x.host (x.regs.idxBase.toNat + 64 + 4 * n) (leBytes 4 i.next)
      irings := modIdx n (fun j => { j with consWritten := j.next }) x.irings } := by
  rw [Rood.writeCons, ring]
  simp only [hostWrite_exact quiet]

theorem hostIndexLineSnoop_frees {r : Nat} {s : State} {x : Rood} (hw : Works s r x) (link : s.dev.linkFull = true)
    (posted : NonePosted x) (n cons : Nat) :
    ∃ t, exec (.hostIndexLineSnoop r n cons) s = .next t ∧
      Becomes t r x { x with crings := modIdx n (fun q => { q with cons := cons % 2 ^ 32 }) x.crings } :=
  ⟨_, rfl, onCxl_becomes_of hw link (pump_nonePosted (x := x.modCring n _) (posted.of_irings rfl) _)⟩

theorem iringConsWrite_writes {r n : Nat} {s : State} {x : Rood} {i : IRing} (hw : Works s r x) (link : s.dev.linkFull = true)
    (ring : x.irings[n]? = some i) (quiet : x.quiet = false) (cache : x.cacheOff = false) :
    ∃ t, exec (.iringConsWrite r n) s = .next t ∧
      Becomes t r x { x with
        host := memWrite x.host (x.regs.idxBase.toNat + 64 + 4 * n) (leBytes 4 i.next)
        irings := modIdx n (fun j => { j with consWritten := j.next }) x.irings } := by
  refine ⟨_, rfl, onCxl_becomes_of hw link ((writeCons_exact ring quiet).trans ?_)⟩
  rw [if_neg (by simp [cache])]

/-- The rood with every record of a ring signalled (R158). -/
def Rood.signalled (n : Nat) (x : Rood) : Rood := x.modCring n (fun k => { k with unsignalled := 0, oldest := 0 })

/-- A ring that holds unsignalled records signals them when it has to. -/
theorem moderate_signals {x : Rood} {n : Nat} {q : CRing} (ring : x.crings[n]? = some q) (waits : 0 < q.unsignalled) (now : W64) :
    x.moderate now n true = (x.signalled n).msix q.vector := by
  simp [Rood.moderate, Rood.signalled, ring, CRing.due, waits]

theorem cringModTimeout_signals {r n : Nat} {s : State} {x : Rood} {q : CRing} {e : MsixEntry} (hw : Works s r x)
    (ring : x.crings[n]? = some q) (waits : 0 < q.unsignalled) (quiet : x.quiet = false)
    (entry : x.regs.msix[q.vector]? = some e) :
    ∃ t, exec (.cringModTimeout r n) s = .next t ∧
      (e.masked = false → .msix (r + 1) q.vector ∈ t.dev.out) ∧
      Becomes t r x { x with
        crings := modIdx n (fun k => { k with unsignalled := 0, oldest := 0 }) x.crings
        regs := { x.regs with msix := if e.masked then x.regs.msix.set q.vector { e with pend := true } else x.regs.msix } } := by
  have signals := moderate_signals ring waits s.clock.time
  replace quiet : (x.signalled n).quiet = false := quiet
  replace entry : (x.signalled n).regs.msix[q.vector]? = some e := entry
  refine ⟨_, rfl, fun unmasked => onRood_sends hw ?_, ?_⟩
  · show _ ∈ (x.moderate s.clock.time n true).fx
    rw [signals, msix_sends quiet entry unmasked, ← rood?_num hw.2]
    exact List.mem_cons_of_mem _ List.mem_cons_self
  · by_cases masked : e.masked = true
    · rw [if_pos masked]
      exact onRood_becomes_of hw (signals.trans (msix_pends quiet entry masked))
    · rw [if_neg masked]
      exact (onRood_becomes_of hw (signals.trans (msix_sends quiet entry (Bool.eq_false_of_not_eq_true masked)))).unasked rfl

/-- Settles O25, from what each of the three writes and signals. -/
theorem indexLinesAndSignals : Obligations.IndexLinesAndSignals := by
  unfold Obligations.IndexLinesAndSignals
  exact fun r n s x hw => ⟨fun cons link posted => hostIndexLineSnoop_frees hw link posted n cons,
    fun i link ring quiet cache => iringConsWrite_writes hw link ring quiet cache,
    fun q e ring waits quiet entry => cringModTimeout_signals hw ring waits quiet entry⟩

end Sys2Proof.Machine
end

section
/-! PROOF. A vector that is unmasked, and a translation that is lost while a command's text is converted (R148, R150, R158, R514),
and with them obligation O26. -/
namespace Sys2Proof.Machine
open Sys2Proof

/-! ## MSIX_UNMASK (R158, R514) -/

theorem msixClear_at {vec : Nat} {l : List MsixEntry} {e : MsixEntry} (entry : l[vec]? = some e) :
    msixClear vec l = (l.set vec { e with masked := false, pend := false }, e.pend) := by
  simp [msixClear, entry]

theorem pfUnmask_exact {vec : Nat} {d : Dev} {e : MsixEntry} (entry : d.regs.msix[vec]? = some e) :
    d.pfUnmask vec = { d with
      regs := { d.regs with msix := d.regs.msix.set vec { e with masked := false, pend := false } }
      out := d.out ++ if e.pend then [.msix 0 vec] else [] } := by
  rw [Dev.pfUnmask, msixClear_at entry]
  cases e.pend <;> simp

theorem msixUnmask_device {vec : Nat} {e : MsixEntry} {s : State} (entry : s.dev.regs.msix[vec]? = some e) :
    exec (.msixUnmask 0 vec) s = .next { s with dev := { s.dev with
      regs := { s.dev.regs with msix := s.dev.regs.msix.set vec { e with masked := false, pend := false } }
      out := s.dev.out ++ if e.pend then [.msix 0 vec] else [] } } :=
  congrArg Host.Outcome.next (onDev_silent (pfUnmask_exact entry) ⟨rfl, rfl, rfl, rfl, rfl, rfl⟩)

/-- The rood with a vector unmasked and nothing pending in it. -/
def Rood.unmasked (vec : Nat) (e : MsixEntry) (x : Rood) : Rood :=
  { x with regs := { x.regs with msix := x.regs.msix.set vec { e with masked := false, pend := false } } }

/-- A message that was held is sent, as the vector is no longer masked. -/
theorem unmask_exact {vec : Nat} {e : MsixEntry} {x : Rood} (quiet : x.quiet = false) (entry : x.regs.msix[vec]? = some e) :
    x.unmask vec = if e.pend then ((x.unmasked vec e).ask (.out (.msix (x.num + 1) vec))).count 3 1 else x.unmasked vec e := by
  have cleared : (x.unmasked vec e).regs.msix[vec]? = some { e with masked := false, pend := false } :=
    List.getElem?_set_self (List.getElem?_eq_some_iff.mp entry).1
  have sent : (x.unmasked vec e).msix vec = ((x.unmasked vec e).ask (.out (.msix (x.num + 1) vec))).count 3 1 :=
    msix_sends quiet cleared rfl
  rw [Rood.unmask, msixClear_at entry, ← sent]
  rfl

/-- Unmasking a vector of a rood that takes part in work is the work of `Rood.unmask`. -/
theorem exec_msixUnmask_rood {s : State} (live : s.dev.roodsLive = true) (r vec : Nat) :
    exec (.msixUnmask (r + 1) vec) s = .next (onRood r (fun _ x => x.unmask vec) s) := by
  show execMsixUnmask (r + 1) vec s = _
  simp [execMsixUnmask, onRood, onDev, live]

theorem msixUnmask_rood {vec r : Nat} {e : MsixEntry} {s : State} {x : Rood} (hw : Works s r x) (quiet : x.quiet = false)
    (entry : x.regs.msix[vec]? = some e) :
    ∃ t, exec (.msixUnmask (r + 1) vec) s = .next t ∧ (e.pend = true → .msix (r + 1) vec ∈ t.dev.out) ∧
      Becomes t r x (x.unmasked vec e) := by
  have work := unmask_exact quiet entry
  refine ⟨_, exec_msixUnmask_rood hw.1 r vec, fun pending => onRood_sends hw ?_, ?_⟩
  · rw [work, if_pos pending, rood?_num hw.2]
    exact List.mem_cons_of_mem _ List.mem_cons_self
  · refine (onRood_becomes_of hw work).unasked ?_
    split <;> rfl

/-! ## ATS_INVALIDATION (R148, R150) -/

/-- A buffer that translates again keeps its command going. -/
theorem atsInvalidation_renewed {r c : Nat} {s : State} {x : Rood} {d : Cmd} (hw : Works s r x) (cmd : x.cmd? c = some d) :
    ∃ t, exec (.atsInvalidation r c true) s = .next t ∧ Becomes t r x x :=
  ⟨_, rfl, onRood_becomes_of hw (by simp only [cmd, Bool.true_or, if_true])⟩

/-- The fault of a translation stands in the rood's log, and ROOD_STATUS shows it. -/
theorem addrFault_keeps (now : W64) (d : Cmd) (x : Rood) :
    HostSide { x with regs := { x.regs with addrFault := true } } (x.addrFault now d) ∧
      (x.addrFault now d).regs.log.head = x.regs.log.head + 1 ∧ (x.addrFault now d).irings = x.irings ∧
      (x.addrFault now d).crings = x.crings ∧ (x.addrFault now d).cmds = x.cmds ∧ (x.addrFault now d).host = x.host := by
  obtain ⟨log, irings, crings, cmds, host⟩ := Rood.logOwn_keeps
    { LogEntry.plain now 0x06 d.opcode (if namesSession d.opcode then d.handle else 0) with rood := x.num }
    { x with regs := { x.regs with addrFault := true } }
  exact ⟨logOwn_hostSide _ _, congrArg Log.head log, irings, crings, cmds, host⟩

/-- A lost translation ends a command whose text is being converted. -/
theorem loseTranslation_converting {x : Rood} {d : Cmd} (op : d.opcode = 0x02 ∨ d.opcode = 0x04) (stage : d.stage = .converting)
    (ctx : Ctx) : x.loseTranslation ctx d = x.faultInput ctx.time d := by
  have converts : [0x02, 0x03, 0x04].contains d.opcode = true := by rcases op with h | h <;> rw [h] <;> rfl
  simp only [Rood.loseTranslation, converts, if_true, Rood.loseBuffer, stage]

theorem faultInput_ends {x : Rood} {d : Cmd} {q : CRing} (h : CanReport x d q) (now : W64) :
    HostSide { x with regs := { x.regs with addrFault := true } } (x.faultInput now d) ∧
      (x.faultInput now d).regs.log.head = x.regs.log.head + 1 ∧ NonePosted (x.faultInput now d) ∧
      Reported x (x.faultInput now d) d q { d.record stCancelled with yield := yCancel } := by
  obtain ⟨quiet, cache, posted, ring, enabled⟩ := h
  obtain ⟨side, head, irings, crings, cmds, host⟩ := addrFault_keeps now d x
  have report : CanReport (x.addrFault now d) d q :=
    ⟨side.quiet.trans quiet, (by rw [side]; exact cache), posted.of_irings irings, (by rw [crings]; exact ring), enabled⟩
  have written := RecordSide.complete now d { d.record stCancelled with yield := yCancel } (x.addrFault now d)
  obtain ⟨gone, inside, outside⟩ := complete_reported report now { d.record stCancelled with yield := yCancel } rfl
  rw [cmds] at gone
  rw [host] at outside
  exact ⟨side.trans (complete_hostSide _ _ _ _), (congrArg Log.head written.log).trans head,
    posted.of_irings (written.irings.trans irings), gone, inside, outside⟩

theorem atsInvalidation_cancels {r c : Nat} {s : State} {x : Rood} {d : Cmd} {q : CRing} (hw : Works s r x)
    (cmd : x.cmd? c = some d) (op : d.opcode = 0x02 ∨ d.opcode = 0x04) (stage : d.stage = .converting) (h : CanReport x d q) :
    ∃ t y, exec (.atsInvalidation r c false) s = .next t ∧ Becomes t r x y ∧
      HostSide { x with regs := { x.regs with addrFault := true } } y ∧ y.regs.log.head = x.regs.log.head + 1 ∧
      Reported x y d q { d.record stCancelled with yield := yCancel } := by
  obtain ⟨side, head, posted, reported⟩ := faultInput_ends h s.clock.time
  refine ⟨_, _, rfl, onRood_becomes_of hw ?_, side, head, reported⟩
  have judged : (false || d.stage == .accepted || d.stage == .waiting) = false := by rw [stage]; rfl
  simp only [cmd, judged, Bool.false_eq_true, if_false, loseTranslation_converting op stage]
  exact pump_nonePosted posted _

/-- Settles O26, from what unmasking a vector of each function sends and what a lost translation ends. -/
theorem heldSignalsAndLostTranslations : Obligations.HeldSignalsAndLostTranslations := by
  unfold Obligations.HeldSignalsAndLostTranslations
  exact ⟨fun vec e s => ⟨fun entry => ⟨_, msixUnmask_device entry, rfl, rfl, rfl, rfl⟩,
      fun r x hw quiet entry => msixUnmask_rood hw quiet entry⟩,
    fun r c s x d q hw cmd => ⟨atsInvalidation_renewed hw cmd, fun op stage h => atsInvalidation_cancels hw cmd op stage h⟩⟩

end Sys2Proof.Machine
end

section
/-! PROOF. What a write of a ring control register leaves: a ring enabled, a write refused, a held record written (R131 to R133,
R135, R519), and with it obligation O28. -/
namespace Sys2Proof.Machine
open Sys2Proof

/-! ## Writes that are refused (R519, Table 19.18) -/

/-- A configuration entry refuses a write. -/
theorem configEntry_refused (now : W64) (code off : Nat) (x : Rood) : RefusedWrite x (x.configEntry now code off) code off := by
  obtain ⟨log, -, -, cmds, host⟩ := Rood.logOwn_keeps { LogEntry.plain now 0x04 code off with rood := x.num }
    { x with regs := { x.regs with configErr := true } }
  have side := configEntry_hostSide now code off x
  exact ⟨by rw [side], (RecordSide.logOwn _ _).logEvent, host, cmds, ⟨_, log, rfl, rfl, rfl, rfl⟩, side⟩

/-- A refusal is one whatever the write does to the rings. -/
theorem RefusedWrite.rings_before {x y z : Rood} {code off : Nat} (h : RefusedWrite z y code off)
    (only : z = { x with irings := z.irings, crings := z.crings }) : RefusedWrite x y code off := by
  rw [only] at h
  obtain ⟨err, event, host, cmds, log, side⟩ := h
  exact ⟨err, event, host, cmds, log, HostSide.trans (by rfl) side⟩

theorem RefusedWrite.rings_after {x y z : Rood} {code off : Nat} (h : RefusedWrite x y code off)
    (only : z = { y with irings := z.irings, crings := z.crings }) : RefusedWrite x z code off := by
  obtain ⟨err, event, host, cmds, log, side⟩ := h
  rw [only]
  exact ⟨err, event, host, cmds, log, side.trans rfl⟩

theorem configEntry_rings (now : W64) (code off : Nat) (x : Rood) :
    (x.configEntry now code off).irings = x.irings ∧ (x.configEntry now code off).crings = x.crings := by
  obtain ⟨-, irings, crings, -, -⟩ := Rood.logOwn_keeps { LogEntry.plain now 0x04 code off with rood := x.num }
    { x with regs := { x.regs with configErr := true } }
  exact ⟨irings, crings⟩

/-! ## ROOD_IRING_CTL_n (R131, R132, R135) -/

theorem legalSize_iff (v : Nat) : legalSize (bitsOf v 16 4) = decide (6 ≤ bitsOf v 16 4) := by
  have : bitsOf v 16 4 < 2 ^ 4 := Nat.mod_lt _ (by decide)
  simp [legalSize]
  omega

/-- The control fields of an intake ring as a write gives them. -/
def Rood.iringSet (n : Nat) (e : Bool) (k cring : Nat) (x : Rood) : Rood :=
  { x with irings := modIdx n (fun i => { i with enable := e, sizeLog2 := k, cring := cring }) x.irings }

/-- A write that enables a ring which is not enabled. -/
theorem writeIringCtl_disabled {x : Rood} {n : Nat} {i : IRing} (ring : x.irings[n]? = some i) (off : i.enable = false) {v : Nat}
    (on : bitAt v 31 = true) (now : W64) (ok : Bool) :
    x.writeIringCtl now n v ok =
      if 6 ≤ bitsOf v 16 4 then
        if ok then (x.enableIring n (bitsOf v 16 4) (bitsOf v 8 3)).pump now
        else (x.iringSet n false (bitsOf v 16 4) (bitsOf v 8 3)).configEntry now 3 (0x210 + 32 * n)
      else (x.iringSet n false (bitsOf v 16 4) (bitsOf v 8 3)).configEntry now 1 (0x210 + 32 * n) := by
  unfold Rood.writeIringCtl
  by_cases size : 6 ≤ bitsOf v 16 4
  · cases ok <;> simp [ring, off, on, legalSize_iff, size, Rood.iringSet]
  · simp [ring, off, on, legalSize_iff, size, Rood.iringSet]

/-- A write of another size to an enabled ring. -/
theorem writeIringCtl_clash {x : Rood} {n : Nat} {i : IRing} (ring : x.irings[n]? = some i) (enabled : i.enable = true) {v : Nat}
    (on : bitAt v 31 = true) (clash : bitsOf v 16 4 ≠ i.sizeLog2) (now : W64) (ok : Bool) :
    x.writeIringCtl now n v ok =
      ((x.configEntry now 2 (0x210 + 32 * n)).iringSet n true i.sizeLog2 (bitsOf v 8 3)).pump now := by
  unfold Rood.writeIringCtl
  simp [ring, enabled, on, clash, Rood.iringSet]

/-- The rood with an intake ring enabled at consumer index 0, with no line of it read (R132). -/
def Rood.iringBegun (n k cring : Nat) (x : Rood) : Rood :=
  { x with irings := modIdx n (fun i => { i with
      enable := true, sizeLog2 := k, cring := cring, next := 0, consWritten := 0, lines := [] }) x.irings }

/-- IRING_CONS_n is written as 0 when the ring is enabled (R135). -/
theorem enableIring_exact {x : Rood} {n k cring : Nat} {i : IRing} (ring : x.irings[n]? = some i) (quiet : x.quiet = false) :
    x.enableIring n k cring = { x.iringBegun n k cring with
      host := if x.cacheOff then x.host else memWrite x.host (x.regs.idxBase.toNat + 64 + 4 * n) (leBytes 4 0) } := by
  have begun : (x.iringBegun n k cring).irings[n]? = some { i with
      enable := true, sizeLog2 := k, cring := cring, next := 0, consWritten := 0, lines := [] } := by
    simp [Rood.iringBegun, ring]
  refine (writeCons_exact begun quiet).trans ?_
  dsimp only [Rood.iringBegun]
  rw [modIdx_modIdx]
  rfl

section
variable {r n : Nat} {v : W32} {s : State} {x : Rood} {i : IRing} (hw : Works s r x) (posted : NonePosted x)
  (on : bitAt v.toNat 31 = true) (ring : x.irings[n]? = some i)
include hw on ring

include posted in
theorem iringCtlWrite_enables (quiet : x.quiet = false) (off : i.enable = false) (size : 6 ≤ bitsOf v.toNat 16 4) :
    ∃ t, exec (.iringCtlWrite r n v true) s = .next t ∧
      Becomes t r x { x with
        host := if x.cacheOff then x.host else memWrite x.host (x.regs.idxBase.toNat + 64 + 4 * n) (leBytes 4 0)
        irings := modIdx n (fun j => { j with
          enable := true, sizeLog2 := bitsOf v.toNat 16 4, cring := bitsOf v.toNat 8 3, next := 0, consWritten := 0
          lines := [] }) x.irings } := by
  refine ⟨_, rfl, onRood_becomes_of hw ?_⟩
  rw [writeIringCtl_disabled ring off on, if_pos size, if_pos rfl, enableIring_exact ring quiet]
  exact pump_nonePosted (nonePosted_of_othersIdle (posted.othersIdle n) rfl ring (fun _ => rfl)) _

theorem iringCtlWrite_refused (off : i.enable = false) {ok : Bool} {code : Nat}
    (cause : (code = 1 ∧ bitsOf v.toNat 16 4 < 6) ∨ (code = 3 ∧ 6 ≤ bitsOf v.toNat 16 4 ∧ ok = false)) :
    ∃ t y, exec (.iringCtlWrite r n v ok) s = .next t ∧ Becomes t r x y ∧ RefusedWrite x y code (0x210 + 32 * n) ∧
      (y.irings[n]?).map (fun j => j.enable) = some false := by
  refine ⟨_, (x.iringSet n false (bitsOf v.toNat 16 4) (bitsOf v.toNat 8 3)).configEntry s.clock.time code (0x210 + 32 * n), rfl,
    onRood_becomes_of hw ?_, (configEntry_refused _ _ _ _).rings_before rfl, ?_⟩
  · rw [writeIringCtl_disabled ring off on]
    obtain ⟨rfl, size⟩ | ⟨rfl, size, rfl⟩ := cause
    · rw [if_neg (Nat.not_le.mpr size)]
      rfl
    · rw [if_pos size]
      rfl
  · rw [(configEntry_rings _ _ _ _).1]
    simp [Rood.iringSet, ring]

include posted in
theorem iringCtlWrite_clash (enabled : i.enable = true) (clash : bitsOf v.toNat 16 4 ≠ i.sizeLog2) (ok : Bool) :
    ∃ t y, exec (.iringCtlWrite r n v ok) s = .next t ∧ Becomes t r x y ∧ RefusedWrite x y 2 (0x210 + 32 * n) ∧
      y.irings[n]? = some { i with cring := bitsOf v.toNat 8 3 } := by
  have irings := (configEntry_rings s.clock.time 2 (0x210 + 32 * n) x).1
  refine ⟨_, (x.configEntry s.clock.time 2 (0x210 + 32 * n)).iringSet n true i.sizeLog2 (bitsOf v.toNat 8 3), rfl,
    onRood_becomes_of hw ?_, (configEntry_refused _ _ _ _).rings_after rfl, ?_⟩
  · exact (writeIringCtl_clash ring enabled on clash _ _).trans (pump_nonePosted (nonePosted_of_othersIdle (posted.othersIdle n)
      (congrArg (modIdx n _) irings) ring (fun _ => posted i (List.mem_of_getElem? ring) enabled)) _)
  · simp [Rood.iringSet, irings, ring, enabled]
end

/-! ## ROOD_CRING_CTL_n (R131 to R133) -/

/-- The control fields of a completion ring as a write gives them. -/
def Rood.cringSet (n : Nat) (e : Bool) (k vector : Nat) (x : Rood) : Rood :=
  x.modCring n (fun c => { c with enable := e, sizeLog2 := k, vector := vector })

/-- The rood with a completion ring enabled at producer index 0 and its held records taken out, to be written. -/
def Rood.cringBegun (n k vector : Nat) (x : Rood) : Rood :=
  x.modCring n (fun c => { c with enable := true, sizeLog2 := k, vector := vector, prod := 0, held := [] })

/-- Enabling a completion ring, whose size a held record has fixed, writes what it holds. -/
theorem writeCringCtl_enables {x : Rood} {n : Nat} {q : CRing} (ring : x.crings[n]? = some q) (off : q.enable = false) {v : Nat}
    (on : bitAt v 31 = true) (same : q.held = [] ∨ q.sizeLog2 = bitsOf v 16 4) (size : 6 ≤ bitsOf v 16 4) (now : W64) :
    x.writeCringCtl now n v true =
      (q.held.foldl (fun x r => x.writeRecord now n r) (x.cringBegun n (bitsOf v 16 4) (bitsOf v 8 5))).pump now := by
  have sized : (if q.active then q.sizeLog2 else bitsOf v 16 4) = bitsOf v 16 4 ∧
      (q.active && bitsOf v 16 4 != q.sizeLog2) = false := by
    rcases same with none | same
    · simp [CRing.active, off, none]
    · simp [same]
  unfold Rood.writeCringCtl
  simp only [ring, sized, off, on, legalSize_iff, size, decide_true, Bool.not_true, Bool.false_eq_true, if_false]
  simp [Rood.releaseHeld, Rood.modCring, Rood.cringBegun, ring, modIdx_modIdx]

theorem writeCringCtl_size {x : Rood} {n : Nat} {q : CRing} (ring : x.crings[n]? = some q) (off : q.enable = false)
    (none : q.held = []) {v : Nat} (on : bitAt v 31 = true) (size : bitsOf v 16 4 < 6) (now : W64) (ok : Bool) :
    x.writeCringCtl now n v ok =
      (x.cringSet n false (bitsOf v 16 4) (bitsOf v 8 5)).configEntry now 1 (0x214 + 32 * n) := by
  have idle : q.active = false := by simp [CRing.active, off, none]
  have illegal : legalSize (bitsOf v 16 4) = false := by rw [legalSize_iff]; simpa using size
  unfold Rood.writeCringCtl
  simp [ring, idle, off, on, illegal, Rood.cringSet]

/-- What a ring's signalling leaves of its ENABLE, its producer index and its held records. -/
theorem moderate_ring (now : W64) (n : Nat) (irq : Bool) (x : Rood) :
    ((x.moderate now n irq).crings[n]?).map (fun q => (q.enable, q.prod, q.held)) =
      (x.crings[n]?).map (fun q => (q.enable, q.prod, q.held)) := by
  unfold Rood.moderate
  split
  · split
    · simp [Rood.modCring, Option.map_map, Function.comp_def]
    · rfl
  · rfl

/-- A record written to an enabled ring moves its producer index on. -/
theorem writeRecord_ring {x : Rood} {n : Nat} {q : CRing} (ring : x.crings[n]? = some q) (enabled : q.enable = true)
    (quiet : x.quiet = false) (cache : x.cacheOff = false) (now : W64) (r : CRec) :
    ((x.writeRecord now n r).crings[n]?).map (fun q => (q.enable, q.prod, q.held)) =
      some (true, (q.prod + 1) % 2 ^ 32, q.held) := by
  unfold Rood.writeRecord
  simp only [ring, quiet, cache, enabled, Bool.not_true, Bool.or_false, Bool.false_eq_true, if_false, moderate_ring]
  simp [Rood.modCring, hostWrite_exact quiet, ring, enabled]

section
variable {r n : Nat} {v : W32} {s : State} {x : Rood} {q : CRing} (hw : Works s r x) (posted : NonePosted x)
  (on : bitAt v.toNat 31 = true) (ring : x.crings[n]? = some q) (off : q.enable = false)
include hw on ring off

include posted in
theorem cringCtlWrite_enables (none : q.held = []) (size : 6 ≤ bitsOf v.toNat 16 4) :
    ∃ t, exec (.cringCtlWrite r n v true) s = .next t ∧
      Becomes t r x { x with crings := modIdx n (fun j => { j with
        enable := true, sizeLog2 := bitsOf v.toNat 16 4, vector := bitsOf v.toNat 8 5, prod := 0 }) x.crings } := by
  refine ⟨_, rfl, onRood_becomes_of hw ?_⟩
  rw [writeCringCtl_enables ring off on (.inl none) size, none]
  refine (pump_nonePosted (x := x.cringBegun n _ _) (posted.of_irings rfl) _).trans ?_
  unfold Rood.cringBegun Rood.modCring
  rw [modIdx_congr ring]
  simp [none]

theorem cringCtlWrite_refused (none : q.held = []) (size : bitsOf v.toNat 16 4 < 6) (ok : Bool) :
    ∃ t y, exec (.cringCtlWrite r n v ok) s = .next t ∧ Becomes t r x y ∧ RefusedWrite x y 1 (0x214 + 32 * n) ∧
      (y.crings[n]?).map (fun j => j.enable) = some false := by
  refine ⟨_, _, rfl, onRood_becomes_of hw (writeCringCtl_size ring off none on size _ _),
    (configEntry_refused _ _ _ _).rings_before rfl, ?_⟩
  rw [(configEntry_rings _ _ _ _).2]
  simp [Rood.cringSet, Rood.modCring, ring]

include posted in
theorem cringCtlWrite_writesHeld {h : CRec} (quiet : x.quiet = false) (cache : x.cacheOff = false) (held : q.held = [h])
    (words : h.result.length = 4) (same : q.sizeLog2 = bitsOf v.toNat 16 4) (size : 6 ≤ bitsOf v.toNat 16 4) :
    ∃ t y, exec (.cringCtlWrite r n v true) s = .next t ∧ Becomes t r x y ∧ HostSide x y ∧
      (∀ i, i < 32 → memRead y.host (q.base.toNat + i) = (h.bytes 0 (bitsOf v.toNat 16 4)).getD i 0) ∧
      (y.crings[n]?).map (fun j => (j.enable, j.prod, j.held)) = some (true, 1, []) := by
  have work := writeCringCtl_enables ring off on (.inr same) size s.clock.time
  have begins : (x.cringBegun n (bitsOf v.toNat 16 4) (bitsOf v.toNat 8 5)).crings[n]? = some { q with
      enable := true, sizeLog2 := bitsOf v.toNat 16 4, vector := bitsOf v.toNat 8 5, prod := 0, held := [] } := by
    simp [Rood.cringBegun, Rood.modCring, ring]
  obtain ⟨host, -, irings⟩ := writeRecord_host s.clock.time h begins rfl quiet cache
  refine ⟨_, (x.cringBegun n (bitsOf v.toNat 16 4) (bitsOf v.toNat 8 5)).writeRecord s.clock.time n h, rfl,
    onRood_becomes_of hw ?_, HostSide.trans (by rfl) (writeRecord_hostSide _ _ _ _), fun i hi => ?_, ?_⟩
  · rw [held] at work
    exact work.trans (pump_nonePosted (posted.of_irings irings) _)
  · rw [host, show CRing.place _ = q.base.toNat by simp [CRing.place]]
    exact memRead_memWrite_inside _ _ _ _ (by rwa [record_bytes_length _ _ _ words])
  · exact writeRecord_ring begins rfl quiet cache _ _
end

/-- Settles O28, from what a write of each control register enables or refuses. -/
theorem ringsAreEnabled : Obligations.RingsAreEnabled := by
  unfold Obligations.RingsAreEnabled
  intro r n v s x hw posted on quiet k
  refine ⟨fun i ring off => ⟨iringCtlWrite_enables hw posted on ring quiet off,
      fun size ok => iringCtlWrite_refused hw on ring off (.inl ⟨rfl, size⟩),
      fun size => iringCtlWrite_refused hw on ring off (.inr ⟨rfl, size, rfl⟩)⟩,
    fun i ring enabled clash ok => iringCtlWrite_clash hw posted on ring enabled clash ok,
    fun q ring off none => ⟨cringCtlWrite_enables hw posted on ring off none,
      fun size ok => cringCtlWrite_refused hw on ring off none size ok⟩,
    fun q h ring off held words same size cache =>
      cringCtlWrite_writesHeld hw posted on ring off quiet cache held words same size⟩

end Sys2Proof.Machine
end

section
/-! PROOF. An intake line that is read, held or accepted, and NOP (R20, R136 to R143, R163, R470, R540), and with them obligation
O24. -/
namespace Sys2Proof.Machine
open Sys2Proof

/-! ## A line that is read (R136, R138, R540) -/

/-- The rood with a line kept at a slot of ring `n`. -/
def Rood.lineRead (n slot : Nat) (line : SlotLine) (x : Rood) : Rood :=
  { x with irings := modIdx n (fun j => { j with lines := putKey slot line j.lines }) x.irings }

/-- Any line is kept at the next expected slot. -/
theorem snoopIntake_next {x : Rood} {n : Nat} {i : IRing} (ring : x.irings[n]? = some i) (now : W64) (line : SlotLine) :
    x.snoopIntake now n (i.next % 2 ^ i.sizeLog2) line = (x.lineRead n (i.next % 2 ^ i.sizeLog2) line).pump now := by
  unfold Rood.snoopIntake Rood.lineRead
  rw [modIdx_congr ring]
  simp [IRing.readLine]

/-- The rood with no line kept at a slot of ring `n`. -/
def Rood.lineDropped (n slot : Nat) (x : Rood) : Rood :=
  { x with irings := modIdx n (fun j => { j with lines := delKey slot j.lines }) x.irings }

/-- A poisoned line read as a prefetch is not kept, and changes nothing of what may be accepted. -/
theorem snoopIntake_prefetch {x : Rood} {n slot : Nat} {i : IRing} (posted : NonePosted x) (ring : x.irings[n]? = some i)
    (ahead : slot ≠ i.next % 2 ^ i.sizeLog2) (now : W64) : x.snoopIntake now n slot .poison = x.lineDropped n slot := by
  unfold Rood.snoopIntake Rood.lineDropped
  rw [modIdx_congr (f := IRing.readLine slot .poison) (g := fun j => { j with lines := delKey slot j.lines }) ring
    (by simp [IRing.readLine, ahead])]
  refine pump_nonePosted (nonePosted_of_othersIdle (posted.othersIdle n) rfl ring (fun enabled => ?_)) now
  have idle := posted i (List.mem_of_getElem? ring) enabled
  unfold IRing.idle at idle ⊢
  rwa [lookKey_delKey_other ahead.symm]

/-! ## The slot that is offered (R137, R140, R153) -/

/-- The line is a descriptor of the phase that the ring expects, or poison (R136, R540). -/
def IRing.expects (i : IRing) : SlotLine → Bool
  | .clean raw => dField raw 0 8 1 == 1 - (i.next >>> i.sizeLog2) % 2
  | .poison => true

/-- A ring has nothing posted while the line at its next slot is of the other phase. -/
theorem idle_of_unexpected {i : IRing} {line : SlotLine} (kept : lookKey (i.next % 2 ^ i.sizeLog2) i.lines = some line)
    (h : i.expects line = false) : i.idle = true := by
  unfold IRing.idle
  rw [kept]
  cases line with
  | clean raw => simpa [IRing.expects, bne] using h
  | poison => cases h

/-- A posted line at the next slot of a ring without commands is offered when a record can be reserved. -/
theorem acceptable_posted {x : Rood} {n : Nat} {i : IRing} {q : CRing} {line : SlotLine} (on : x.intakeOn = true)
    (ring : x.irings[n]? = some i) (enabled : i.enable = true) (cring : x.crings[i.cring]? = some q) (room : q.canReserve = true)
    (kept : lookKey (i.next % 2 ^ i.sizeLog2) i.lines = some line) (posted : i.expects line = true)
    (first : ∀ d ∈ x.cmds, d.ring ≠ n) : x.acceptable n = some (i, line) := by
  have fence : (x.cmds.all fun d => d.ring != n) = true := by simpa using first
  unfold Rood.acceptable
  simp only [ring, on, enabled, kept, cring, room, fence, Bool.not_true, Bool.or_false, Bool.false_eq_true, if_false, Bool.and_true,
    Bool.or_true]
  cases line with
  | clean raw => exact if_pos posted
  | poison => rfl

/-- The ring that alone offers a slot is served. -/
theorem findSome?_alone {β : Type} {f : Nat → Option β} {n : Nat} {b : β} (found : f n = some b)
    (alone : ∀ m, m ≠ n → f m = none) {l : List Nat} (mem : n ∈ l) : l.findSome? f = some b := by
  induction l with
  | nil => cases mem
  | cons a l ih =>
    by_cases ha : a = n
    · simp [ha, found]
    · rw [List.findSome?_cons, alone a ha, ih ((List.mem_cons.mp mem).resolve_left (Ne.symm ha))]

theorem pump_accepts {x : Rood} {n : Nat} {i : IRing} {line : SlotLine} (low : n < 8) (offered : x.acceptable n = some (i, line))
    (others : OthersIdle n x) {now : W64} (after : NonePosted (x.acceptSlot now n i line)) :
    x.pump now = x.acceptSlot now n i line := by
  have served : (List.range 8).findSome? (fun m => (x.acceptable m).map (fun p => (m, p))) = some (n, i, line) :=
    findSome?_alone (by rw [offered]; rfl) (fun m hm => by rw [acceptable_idle (fun j => others m j hm)]; rfl)
      (List.mem_range.mpr low)
  rw [Rood.pump, Rood.pumpAux, served]
  exact pumpAux_nonePosted after _ _

/-! ## The command that a slot becomes (R137, R140) -/

/-- The command of the next slot of a ring. -/
def Rood.nextSlot (n : Nat) (i : IRing) (line : SlotLine) (x : Rood) : Cmd := (Cmd.ofLine x.nextCmd n i.cring line).accepting x.regs

/-- The rood with the next slot of ring `n` read and taken: its command has joined, and a record is reserved. -/
def Rood.slotTaken (n : Nat) (i : IRing) (line : SlotLine) (x : Rood) : Rood :=
  { x with
    nextCmd := x.nextCmd + 1, cmds := x.cmds ++ [x.nextSlot n i line]
    irings := modIdx n (fun j => { j with
      next := (j.next + 1) % 2 ^ 32, lines := putKey (i.next % 2 ^ i.sizeLog2) line j.lines }) x.irings
    crings := modIdx i.cring (fun k => { k with reserved := k.reserved + 1 }) x.crings }

/-- What holds when the next slot of ring `n` is to be judged: a full ring or an earlier command does not keep it waiting, no other
slot is posted, and IRING_CONS_n need not be written. -/
structure TakesSlot (x : Rood) (n : Nat) (i : IRing) (q : CRing) : Prop where
  low : n < 8
  on : x.intakeOn = true
  quiet : x.quiet = false
  ring : x.irings[n]? = some i
  enabled : i.enable = true
  sizeLo : 1 ≤ i.sizeLog2
  sizeHi : i.sizeLog2 ≤ 32
  cring : x.crings[i.cring]? = some q
  room : q.canReserve = true
  others : OthersIdle n x
  behind : lookKey ((i.next + 1) % 2 ^ i.sizeLog2) i.lines = none
  early : ((i.next + 1) % 2 ^ 32 + 2 ^ 32 - i.consWritten) % 2 ^ 32 < 16
  first : ∀ d ∈ x.cmds, d.id ≠ x.nextCmd ∧ d.ring ≠ n

theorem succ_mod_ne {m : Nat} (h : 1 < m) (a : Nat) : (a + 1) % m ≠ a % m := by
  intro same
  have one : 1 % m = 0 % m := Nat.ModEq.add_left_cancel' a same
  rw [Nat.mod_eq_of_lt h, Nat.zero_mod] at one
  cases one

/-- Whatever the judgement of a slot does, it leaves the intake rings alone. -/
theorem judgeSlot_irings (now : W64) (c : Cmd) (x : Rood) : (x.judgeSlot now c).irings = x.irings := by
  have poison : (x.poisonEvent now).irings = x.irings := by simp [Rood.poisonEvent]
  unfold Rood.judgeSlot
  split
  · exact (RecordSide.complete _ _ _ _).irings.trans poison
  · split
    · exact (RecordSide.complete _ _ _ _).irings
    · split
      · exact (RecordSide.complete _ _ _ _).irings
      · rfl

namespace TakesSlot
variable {x : Rood} {n : Nat} {i : IRing} {q : CRing} (h : TakesSlot x n i q)
include h

/-- The slot behind the one that is taken holds no line. -/
theorem nonePosted_of_taken {line : SlotLine} {y : Rood} (irings : y.irings = (x.slotTaken n i line).irings) : NonePosted y := by
  refine nonePosted_of_othersIdle h.others irings h.ring (fun _ => ?_)
  have next : (i.next + 1) % 2 ^ 32 % 2 ^ i.sizeLog2 = (i.next + 1) % 2 ^ i.sizeLog2 :=
    Nat.mod_mod_of_dvd _ (Nat.pow_dvd_pow 2 h.sizeHi)
  have apart := succ_mod_ne (Nat.one_lt_two_pow (Nat.one_le_iff_ne_zero.mp h.sizeLo)) i.next
  unfold IRing.idle
  rw [next, lookKey_putKey_other apart, h.behind]

/-- The next slot, once read, becomes a command, which is then judged. -/
theorem acceptSlot_taken (now : W64) (line : SlotLine) (l : List (Nat × SlotLine)) :
    (x.lineRead n (i.next % 2 ^ i.sizeLog2) line).acceptSlot now n { i with lines := l } line =
      ((x.slotTaken n i line).count 0 1).judgeSlot now (x.nextSlot n i line) := by
  have taken : (x.lineRead n (i.next % 2 ^ i.sizeLog2) line).takeSlot (x.nextSlot n i line) = x.slotTaken n i line := by
    unfold Rood.takeSlot Rood.lineRead Rood.slotTaken Rood.modCring
    dsimp only
    rw [show (x.nextSlot n i line).ring = n from rfl, modIdx_modIdx]
    rfl
  have notDue : ((x.slotTaken n i line).count 0 1).consDue n = false := by
    have := h.early
    simp [Rood.consDue, Rood.slotTaken, h.ring]
    omega
  unfold Rood.acceptSlot
  dsimp only
  rw [show (Cmd.ofLine (x.lineRead n (i.next % 2 ^ i.sizeLog2) line).nextCmd n i.cring line).accepting
    (x.lineRead n (i.next % 2 ^ i.sizeLog2) line).regs = x.nextSlot n i line from rfl, taken, notDue]
  rfl

/-- A posted line at the next slot is accepted, and no other is. -/
theorem snoopIntake_posted {line : SlotLine} (posted : i.expects line = true) (now : W64) :
    x.snoopIntake now n (i.next % 2 ^ i.sizeLog2) line =
      ((x.slotTaken n i line).count 0 1).judgeSlot now (x.nextSlot n i line) := by
  have ring : (x.lineRead n (i.next % 2 ^ i.sizeLog2) line).irings[n]? =
      some { i with lines := putKey (i.next % 2 ^ i.sizeLog2) line i.lines } := by simp [Rood.lineRead, h.ring]
  have offered := acceptable_posted (x := x.lineRead n (i.next % 2 ^ i.sizeLog2) line) h.on ring h.enabled h.cring h.room
    (lookKey_putKey_same _ _ _) (by cases line <;> exact posted) (fun d hd => (h.first d hd).2)
  have others : OthersIdle n (x.lineRead n (i.next % 2 ^ i.sizeLog2) line) := fun m j hm hj =>
    h.others m j hm ((modIdx_other hm _ _).symm.trans hj)
  have accepts := h.acceptSlot_taken now line (putKey (i.next % 2 ^ i.sizeLog2) line i.lines)
  rw [snoopIntake_next h.ring, pump_accepts h.low offered others, accepts]
  rw [accepts]
  exact h.nonePosted_of_taken (judgeSlot_irings _ _ _)

end TakesSlot

/-! ## The judgement of a slot (R142, R470, R540, Table 3.3) -/

/-- A poisoned line is logged, and leaves the rings, the commands and host memory alone. -/
theorem poisonEvent_keeps (now : W64) (x : Rood) :
    (x.poisonEvent now).nextCmd = x.nextCmd ∧ (x.poisonEvent now).irings = x.irings ∧ (x.poisonEvent now).crings = x.crings ∧
      (x.poisonEvent now).cmds = x.cmds ∧ (x.poisonEvent now).host = x.host ∧
      (x.poisonEvent now).regs.log.head = x.regs.log.head + 1 := by
  have nextCmd := (RecordSide.logOwn
    { LogEntry.plain now 0x01 0 0 with cls := 0x0D, reaction := 0x09, rood := x.num, quad := 0, unitKind := 0x09 } x).nextCmd
  refine ⟨?_, ?_⟩
  · simpa [Rood.poisonEvent, Rood.count] using nextCmd
  · simp [Rood.poisonEvent, Log.write]

theorem judgeSlot_poison {c : Cmd} (h : c.poisoned = true) (now : W64) (x : Rood) :
    x.judgeSlot now c = (x.poisonEvent now).fail now c stFormat := if_pos h

theorem judgeSlot_unlisted {c : Cmd} (h : c.poisoned = false) (k : bodyFields c.opcode = none) (now : W64) (x : Rood) :
    x.judgeSlot now c = x.fail now c stBadOpcode := by
  simp [Rood.judgeSlot, h, k]

theorem judgeSlot_fenced {c : Cmd} {x : Rood} (h : c.poisoned = false) (k : (bodyFields c.opcode).isSome = true)
    (fenced : x.fenced = true) (op : c.opcode ≠ 0x3F) (now : W64) : x.judgeSlot now c = x.fail now c stSuspect := by
  simp [Rood.judgeSlot, h, Option.isNone_eq_false_iff.mpr k, fenced, op]

theorem judgeSlot_passes {c : Cmd} {x : Rood} (h : c.poisoned = false) (k : (bodyFields c.opcode).isSome = true)
    (free : x.fenced = false ∨ c.opcode = 0x3F) (now : W64) : x.judgeSlot now c = x := by
  rcases free with free | op
  · simp [Rood.judgeSlot, h, Option.isNone_eq_false_iff.mpr k, free]
  · simp [Rood.judgeSlot, h, op, bodyFields]

/-- A record without a result is written as it stands (R150). -/
theorem tidy_record (d : Cmd) (st : Nat) : (d.record st).tidy = d.record st := by
  unfold CRec.tidy
  split <;> rfl

namespace TakesSlot
variable {x : Rood} {n : Nat} {i : IRing} {q : CRing} (h : TakesSlot x n i q)
include h

/-- A taken slot whose command ends at its judgement: its record is written, and the command is gone. -/
theorem fail_reported {line : SlotLine} {y : Rood} (enabled : q.enable = true) (cache : x.cacheOff = false)
    (side : HostSide x y) (nextCmd : y.nextCmd = x.nextCmd + 1) (irings : y.irings = (x.slotTaken n i line).irings)
    (crings : y.crings = (x.slotTaken n i line).crings) (cmds : y.cmds = (x.slotTaken n i line).cmds) (host : y.host = x.host)
    (now : W64) (st : Nat) :
    let c := x.nextSlot n i line
    HostSide x (y.fail now c st) ∧ (y.fail now c st).irings = (x.slotTaken n i line).irings ∧
      (y.fail now c st).nextCmd = x.nextCmd + 1 ∧ Reported x (y.fail now c st) c q (c.record st) ∧
      (y.fail now c st).regs.log = y.regs.log := by
  intro c
  have ring : y.crings[c.cring]? = some { q with reserved := q.reserved + 1 } := by
    rw [crings, show c.cring = i.cring from rfl]
    simp [Rood.slotTaken, h.cring]
  have report : CanReport y c { q with reserved := q.reserved + 1 } :=
    ⟨side.quiet.trans h.quiet, by rw [side]; exact cache, h.nonePosted_of_taken irings, ring, enabled⟩
  obtain ⟨gone, inside, outside⟩ := complete_reported report now (c.record st) rfl
  rw [tidy_record] at inside
  rw [host] at outside
  have written := RecordSide.complete now c (c.record st) y
  refine ⟨side.trans (fail_hostSide _ _ _ _), written.irings.trans irings, written.nextCmd.trans nextCmd,
    ⟨?_, inside, outside⟩, written.log⟩
  refine gone.trans ?_
  rw [cmds]
  simp [Rood.slotTaken, c]

end TakesSlot

/-- The line ends its command with this status at its judgement. -/
def EndsAtIntake (x : Rood) (i : IRing) (line : SlotLine) (st : Nat) : Prop :=
  (line = .poison ∧ st = stFormat) ∨ ∃ raw, line = .clean raw ∧ dField raw 0 8 1 = 1 - (i.next >>> i.sizeLog2) % 2 ∧
    ((bodyFields (dField raw 0 0 8) = none ∧ st = stBadOpcode) ∨
      ((bodyFields (dField raw 0 0 8)).isSome = true ∧ x.fenced = true ∧ dField raw 0 0 8 ≠ 0x3F ∧ st = stSuspect))

theorem EndsAtIntake.expects {x : Rood} {i : IRing} {line : SlotLine} {st : Nat} (h : EndsAtIntake x i line st) :
    i.expects line = true := by
  obtain ⟨rfl, -⟩ | ⟨raw, rfl, phase, -⟩ := h
  · rfl
  · exact beq_iff_eq.mpr phase

/-- What judges such a line fails its command, a poisoned one after its entry in the log. -/
theorem EndsAtIntake.judged {x : Rood} {n : Nat} {i : IRing} {line : SlotLine} {st : Nat} (h : EndsAtIntake x i line st) (now : W64)
    {y : Rood} (fenced : y.fenced = x.fenced) :
    y.judgeSlot now (x.nextSlot n i line) =
      (if line = .poison then y.poisonEvent now else y).fail now (x.nextSlot n i line) st := by
  obtain ⟨rfl, rfl⟩ | ⟨raw, rfl, -, ⟨unlisted, rfl⟩ | ⟨listed, fence, op, rfl⟩⟩ := h
  · exact judgeSlot_poison rfl now y
  · exact judgeSlot_unlisted (c := x.nextSlot n i (.clean raw)) rfl unlisted now y
  · exact judgeSlot_fenced (c := x.nextSlot n i (.clean raw)) rfl listed (fenced.trans fence) op now

section
variable {r n : Nat} {s : State} {x : Rood} {i : IRing} {q : CRing} (hw : Works s r x) (link : s.dev.linkFull = true)
  (h : TakesSlot x n i q)
include hw link h

theorem intakeLineSnoop_held {raw : BitVec 512} (phase : dField raw 0 8 1 ≠ 1 - (i.next >>> i.sizeLog2) % 2) :
    ∃ t, exec (.intakeLineSnoop r n (i.next % 2 ^ i.sizeLog2) (.clean raw)) s = .next t ∧
      Becomes t r x (x.lineRead n (i.next % 2 ^ i.sizeLog2) (.clean raw)) := by
  refine ⟨_, rfl, onCxl_becomes_of hw link ((snoopIntake_next h.ring _ _).trans (pump_nonePosted
    (nonePosted_of_othersIdle h.others rfl h.ring (fun _ => ?_)) _))⟩
  exact idle_of_unexpected (lookKey_putKey_same _ _ _) (beq_eq_false_iff_ne.mpr phase)

theorem intakeLineSnoop_accepts {raw : BitVec 512} (phase : dField raw 0 8 1 = 1 - (i.next >>> i.sizeLog2) % 2)
    (listed : (bodyFields (dField raw 0 0 8)).isSome = true) (free : x.fenced = false ∨ dField raw 0 0 8 = 0x3F) :
    ∃ t, exec (.intakeLineSnoop r n (i.next % 2 ^ i.sizeLog2) (.clean raw)) s = .next t ∧
      Becomes t r x (x.slotTaken n i (.clean raw)) := by
  have taken := h.snoopIntake_posted (line := .clean raw) (beq_iff_eq.mpr phase) s.clock.time
  have passes := judgeSlot_passes (c := x.nextSlot n i (.clean raw)) (x := (x.slotTaken n i (.clean raw)).count 0 1) rfl listed free
    s.clock.time
  exact ⟨_, rfl, (onCxl_becomes_of hw link (taken.trans passes)).unasked rfl⟩

theorem intakeLineSnoop_ends {line : SlotLine} {st : Nat} (enabled : q.enable = true) (cache : x.cacheOff = false)
    (ends : EndsAtIntake x i line st) :
    let c := x.nextSlot n i line
    ∃ t y, exec (.intakeLineSnoop r n (i.next % 2 ^ i.sizeLog2) line) s = .next t ∧ Becomes t r x y ∧ HostSide x y ∧
      y.irings = (x.slotTaken n i line).irings ∧ y.nextCmd = x.nextCmd + 1 ∧ Reported x y c q (c.record st) ∧
      (line = .poison → (c.record st).opcode = 0 ∧ (c.record st).handle = 0 ∧ (c.record st).tag = 0 ∧
        y.regs.log.head = x.regs.log.head + 1) := by
  intro c
  have joined : HostSide x ((x.slotTaken n i line).count 0 1) := rfl
  have taken := h.snoopIntake_posted ends.expects s.clock.time
  rw [ends.judged (y := (x.slotTaken n i line).count 0 1) s.clock.time rfl] at taken
  by_cases poison : line = .poison
  · rw [if_pos poison] at taken
    obtain ⟨nextCmd, irings, crings, cmds, host, head⟩ := poisonEvent_keeps s.clock.time ((x.slotTaken n i line).count 0 1)
    obtain ⟨side, ringsAfter, nextAfter, reported, log⟩ := h.fail_reported enabled cache
      (joined.trans (poisonEvent_hostSide _ _)) nextCmd irings crings cmds host s.clock.time st
    refine ⟨_, _, rfl, onCxl_becomes_of hw link taken, side, ringsAfter, nextAfter, reported, fun _ => ?_⟩
    subst poison
    exact ⟨rfl, rfl, rfl, (congrArg Log.head log).trans head⟩
  · rw [if_neg poison] at taken
    obtain ⟨side, ringsAfter, nextAfter, reported, -⟩ := h.fail_reported (line := line) enabled cache joined rfl rfl rfl rfl rfl
      s.clock.time st
    exact ⟨_, _, rfl, onCxl_becomes_of hw link taken, side, ringsAfter, nextAfter, reported, fun is => absurd is poison⟩
end

/-! ## NOP (R20, R142, R143) -/

theorem nop_wellFormed {d : Cmd} (op : d.opcode = 0x3F) :
    d.wellFormed = true ↔ reservedSet d.raw 0x3F = false ∧ d.handle = 0 := by
  simp [Cmd.wellFormed, op, namesSession]

theorem nop_ends {r c : Nat} {s : State} {x : Rood} {d : Cmd} {q : CRing} (hw : Works s r x) (accepted : Accepted x c 0x3F d)
    (report : CanReport x d q) :
    ∃ t, exec (.nop r c) s = .next t ∧
      Ends t r x x d q (d.record (if reservedSet d.raw 0x3F = false ∧ d.handle = 0 then stOk else stFormat)) := by
  obtain ⟨cmd, op, stage⟩ := accepted
  have listed : [0x3F].contains d.opcode = true := by rw [op]; rfl
  have status : (if d.wellFormed then stOk else stFormat) =
      if reservedSet d.raw 0x3F = false ∧ d.handle = 0 then stOk else stFormat := if_congr (nop_wellFormed op) rfl rfl
  have reported := complete_reported report s.clock.time
    (d.record (if reservedSet d.raw 0x3F = false ∧ d.handle = 0 then stOk else stFormat)) rfl
  rw [tidy_record] at reported
  refine ⟨_, rfl, _, onRood_becomes_of hw ?_, complete_hostSide _ _ _ _, reported⟩
  rw [onCmd_runs cmd listed stage, Rood.runNop, status]
  exact pump_nonePosted (report.2.2.1.of_irings (RecordSide.complete _ _ _ _).irings) _

/-- Settles O24, from what a line of each kind leaves and how NOP ends. -/
theorem intakeLinesBecomeCommands : Obligations.IntakeLinesBecomeCommands := by
  unfold Obligations.IntakeLinesBecomeCommands
  refine ⟨fun r n line s x i q hw link low on quiet ring enabled sizeLo sizeHi cring room others behind early first => ?_,
    fun r n slot line s x i => ⟨fun link => congrArg Host.Outcome.next (onCxl_noLink link r _),
      fun hw link posted ring ahead => ⟨_, rfl, onCxl_becomes_of hw link (snoopIntake_prefetch posted ring ahead _)⟩⟩,
    fun r c s x d q hw accepted report => nop_ends hw accepted report⟩
  have h : TakesSlot x n i q := ⟨low, on, quiet, ring, enabled, sizeLo, sizeHi, cring, room, others, behind, early, first⟩
  refine ⟨?held, ?accepted, fun st enabled cache ends => intakeLineSnoop_ends hw link h enabled cache ends⟩
  case held =>
    rintro raw rfl phase
    exact intakeLineSnoop_held hw link h phase
  case accepted =>
    rintro raw rfl phase listed free
    exact intakeLineSnoop_accepts hw link h phase listed free

end Sys2Proof.Machine
end

section
/-! PROOF. A host link that is trained (R163, Tables 18.1 and 19.7), with what CXL.cache brings to every rood, and with it
obligation O12. -/
namespace Sys2Proof.Machine
open Sys2Proof

/-! ## CXL.cache as it is presented to a rood (R163) -/

theorem present_recordSide (now : W64) (up : Bool) (x : Rood) : RecordSide { x with cacheOff := !up } (x.present now up) := by
  unfold Rood.present
  dsimp only
  split
  · refine RecordSide.foldl (fun x n => ?_) _ _
    split
    · exact RecordSide.releaseHeld _ _ _
    · exact RecordSide.refl x
  · exact RecordSide.refl _

theorem releaseHeld_none {x : Rood} (h : ∀ q ∈ x.crings, q.held = []) (now : W64) (n : Nat) : x.releaseHeld now n = x := by
  unfold Rood.releaseHeld
  split
  · rfl
  · next q ring =>
    have none := h q (List.mem_of_getElem? ring)
    rw [none, List.foldl_nil, Rood.modCring, modIdx_fixed ring (by rw [← none])]

/-- Where no record is held, only the rood's view of the link changes. -/
theorem present_none {x : Rood} (h : ∀ q ∈ x.crings, q.held = []) (now : W64) (up : Bool) :
    x.present now up = { x with cacheOff := !up } := by
  unfold Rood.present
  dsimp only
  split
  · refine List.foldl_fixed' (fun n => ?_) _
    split
    · exact releaseHeld_none (x := { x with cacheOff := !up }) h now n
    · rfl
  · rfl

/-- Work on the side of the host interface that comes upon a rood after such work is one such work. -/
theorem settled_again {x y w : Rood} {off : Bool} (side : HostSide { x with cacheOff := off } y)
    (again : RecordSide { x.settled y with cacheOff := off } w) :
    ∃ z, (x.settled y).settled w = x.settled z ∧ z.cmds = y.cmds ∧ HostSide { x with cacheOff := off } z := by
  refine ⟨{ w with tally := { w.tally with peakFrames := x.tally.peakFrames } }, ?_, again.cmds, ?_⟩
  · have peak : w.tally.peakFrames = max x.tally.peakFrames w.kv.frames.length := by
      rw [again.only]
      show max y.tally.peakFrames y.kv.frames.length = max x.tally.peakFrames y.kv.frames.length
      rw [show y.tally.peakFrames = x.tally.peakFrames by rw [side]]
    unfold Rood.settled
    rw [peak, max_assoc, max_self]
  · have only := again.only
    unfold HostSide at *
    rw [side] at only
    rw [only]
    rfl

/-! ## The link as every rood meets it -/

/-- A part of the device that no request in a list touches stays when they are carried out. -/
theorem foldr_keeps {β : Type} (part : Dev → β) {r : Nat} {l : List Fx}
    (h : ∀ g ∈ l, ∀ e : Dev, part (e.applyFx r g) = part e) (d : Dev) :
    part (l.foldr (fun g d => d.applyFx r g) d) = part d := by
  induction l with
  | nil => rfl
  | cons g l ih => exact (h g List.mem_cons_self _).trans (ih (fun k hk => h k (List.mem_cons_of_mem _ hk)))

/-- A part of the device that no request of a rood's work touches stays. -/
theorem atRood_keeps {β : Type} (part : Dev → β) (roods : ∀ d x, part (Dev.setRood x d) = part d) {d : Dev} {r : Nat}
    {f : Ctx → Rood → Rood} {t : W64}
    (asks : ∀ x, d.rood? r = some x → ∀ g ∈ (f ⟨t, d⟩ x).fx, ∀ e : Dev, part (e.applyFx x.num g) = part e) :
    part (d.atRood r f t) = part d := by
  unfold Dev.atRood
  split
  · next x hx => exact (foldr_keeps part (asks x hx) _).trans (roods _ _)
  · rfl

/-- Counts and messages write no log. -/
theorem applyFx_reports {g : Fx} (h : g.reports = true) (r : Nat) (d : Dev) : (d.applyFx r g).regs = d.regs := by
  cases g
  case count | out => rfl
  all_goals cases h

section
variable {P Q : Rood → Prop} {f : Ctx → Rood → Rood} {t : W64} (work : ∀ ctx x, P x → Q (x.settled (f ctx x)))
  (stays : ∀ x, Q x → P x) {i : Nat}
include work stays

/-- A rood for which its work brings about `Q`, and which `Q` leaves fit for that work, shows `Q` once it has worked. -/
theorem foldl_atRood_reaches (l : List Nat) (d : Dev) (h : ∃ x, d.rood? i = some x ∧ (Q x ∨ (P x ∧ i ∈ l))) :
    ∃ y, (l.foldl (fun d r => d.atRood r f t) d).rood? i = some y ∧ Q y := by
  induction l generalizing d with
  | nil => simpa using h
  | cons r l ih =>
    obtain ⟨x, hx, h⟩ := h
    refine ih (d.atRood r f t) ?_
    by_cases hr : i = r
    · subst hr
      exact ⟨_, rood_after hx f t, .inl (work _ x (h.elim (stays x) And.left))⟩
    · exact ⟨x, (other_roods_stay d r i f t hr).trans hx,
        h.imp_right (fun k => ⟨k.1, (List.mem_cons.mp k.2).resolve_left hr⟩)⟩

theorem atEach_reaches {d : Dev} {x : Rood} (hx : d.rood? i = some x) (first : P x) :
    ∃ y, (d.atEach f t).rood? i = some y ∧ Q y :=
  foldl_atRood_reaches work stays _ d
    ⟨x, hx, .inr ⟨first, List.mem_map.mpr ⟨x, List.mem_of_find?_eq_some hx, rood?_num hx⟩⟩⟩
end

/-! ## CXL_LINK_TRAINED -/

/-- The device with a trained link in its registers, and a retraining counted. -/
def Dev.trained (rate width : Nat) (d : Dev) : Dev :=
  let c := if d.regs.linkRate = 0 then d else d.count .device 0 7 1
  { c with regs := { c.regs with linkRate := rate, linkWidth := width } }

/-- The device once its roods, if they take part in work, have met the link. -/
def Dev.hostLinkMet (now : W64) (rate width : Nat) (d : Dev) : Dev :=
  if d.roodsLive then (d.trained rate width).atEach (fun _ x => x.present now (decide (5 ≤ rate) && decide (4 ≤ width))) now
  else d.trained rate width

theorem trained_keeps (rate width : Nat) (d : Dev) :
    (d.trained rate width).roods = d.roods ∧ (d.trained rate width).roodsLive = d.roodsLive ∧
      (d.trained rate width).regs = { d.regs with linkRate := rate, linkWidth := width } ∧
      (d.trained rate width).counters =
        if d.regs.linkRate = 0 then d.counters else counterAdd ⟨.device, 0, 7⟩ 1 d.counters := by
  unfold Dev.trained
  dsimp only
  split <;> exact ⟨rfl, rfl, rfl, rfl⟩

theorem exec_cxlLinkTrained {rate width : Nat} {s : State} (pwrgd : s.pins.pwrgd = true) (lo : 1 ≤ rate) (hi : rate ≤ 7)
    (hw : width ∈ [1, 2, 4, 8, 16]) :
    exec (.cxlLinkTrained rate width) s = .next (onDev (fun t d => d.hostLinkMet t rate width) s) := by
  have widths : [1, 2, 4, 8, 16].contains width = true := List.contains_iff_mem.mpr hw
  have link : (s.dev.trained rate width).cxlReady = (s.dev.roodsLive && (decide (5 ≤ rate) && decide (4 ≤ width))) := by
    obtain ⟨-, live, regs, -⟩ := trained_keeps rate width s.dev
    rw [Dev.cxlReady, live, Dev.linkFull, regs]
  have same : (if (s.dev.trained rate width).roodsLive then
      (s.dev.trained rate width).atEach (fun _ x => x.present s.clock.time (s.dev.trained rate width).cxlReady) s.clock.time
      else s.dev.trained rate width) = s.dev.hostLinkMet s.clock.time rate width := by
    rw [link, (trained_keeps rate width s.dev).2.1, Dev.hostLinkMet]
    cases s.dev.roodsLive <;> rfl
  have holds : s.pins.pwrgd ∧ 1 ≤ rate ∧ rate ≤ 7 ∧ [1, 2, 4, 8, 16].contains width := ⟨pwrgd, lo, hi, widths⟩
  show execCxlLinkTrained rate width s = _
  unfold execCxlLinkTrained onDev
  beta_reduce
  rw [if_pos holds]
  exact congrArg (fun d => Host.Outcome.next { s with dev := Dev.signal s.dev d }) same

theorem hostLinkMet_bound (now : W64) (rate width : Nat) (d : Dev) :
    RoodsFx (d.trained rate width) (d.hostLinkMet now rate width) := by
  unfold Dev.hostLinkMet
  split
  · exact atEach_bound _ _ _
  · exact FxOnly.refl _

/-- A property of each rood and a part of the device stay together while every rood meets the link. -/
theorem hostLinkMet_keeps {β : Type} {P : Rood → Prop} (part : Dev → β) (roods : ∀ d x, part (Dev.setRood x d) = part d)
    {now : W64} {rate width : Nat} {d : Dev}
    (work : ∀ up x, P x → P (x.settled (x.present now up)) ∧
      ∀ g ∈ (x.present now up).fx, ∀ (n : Nat) (e : Dev), part (e.applyFx n g) = part e)
    (h : ∀ x ∈ d.roods, P x) : part (d.hostLinkMet now rate width) = part (d.trained rate width) := by
  unfold Dev.hostLinkMet
  split
  · refine (atEach_induction (P := fun e => (∀ x ∈ e.roods, P x) ∧ part e = part (d.trained rate width)) ?_
      ⟨by rwa [(trained_keeps rate width d).1], rfl⟩).2
    rintro e r ⟨all, same⟩
    have found : ∀ x, e.rood? r = some x → P x := fun x hx => all x (List.mem_of_find?_eq_some hx)
    refine ⟨?_, (atRood_keeps part roods (fun x hx g hg => (work _ x (found x hx)).2 g hg x.num)).trans same⟩
    cases hr : e.rood? r with
    | none => rwa [atRood_missing hr]
    | some x =>
      rw [atRood_roods hr]
      intro y hy
      obtain ⟨z, hz, rfl⟩ := List.mem_map.mp hy
      split
      · exact (work _ x (found x hr)).1
      · exact all z hz
  · rfl

/-- Roods without open requests have nothing logged when they meet the link. -/
theorem hostLinkMet_log {d : Dev} (h : ∀ x ∈ d.roods, x.fx = []) (now : W64) (rate width : Nat) :
    (d.hostLinkMet now rate width).regs = (d.trained rate width).regs := by
  refine hostLinkMet_keeps (P := fun x => x.fx = []) (fun e => e.regs) (fun _ _ => rfl)
    (fun up x unasked => ⟨rfl, fun g hg n e => ?_⟩) h
  have asks := (present_recordSide now up x).asks g hg
  exact applyFx_reports (asks.resolve_left (by simp [unasked])) n e

/-- Roods that hold no record ask for nothing when they meet the link. -/
theorem hostLinkMet_counters {d : Dev} (h : ∀ x ∈ d.roods, x.fx = [] ∧ ∀ q ∈ x.crings, q.held = []) (now : W64)
    (rate width : Nat) : (d.hostLinkMet now rate width).counters = (d.trained rate width).counters := by
  refine hostLinkMet_keeps (P := fun x => x.fx = [] ∧ ∀ q ∈ x.crings, q.held = []) (fun e => e.counters) (fun _ _ => rfl)
    (fun up x ⟨unasked, held⟩ => ?_) h
  rw [present_none held]
  exact ⟨⟨rfl, held⟩, fun g hg => absurd hg (by simp [unasked])⟩

/-- A rood that has met the link, with its records written. -/
def Presented (off : Bool) (x z : Rood) : Prop :=
  ∃ y, z = x.settled y ∧ y.cmds = x.cmds ∧ HostSide { x with cacheOff := off } y

theorem hostLinkMet_rood {d : Dev} (live : d.roodsLive = true) {r : Nat} {x : Rood} (hx : d.rood? r = some x) (now : W64)
    (rate width : Nat) :
    ∃ z, (d.hostLinkMet now rate width).rood? r = some z ∧ Presented (!(decide (5 ≤ rate) && decide (4 ≤ width))) x z := by
  unfold Dev.hostLinkMet
  rw [if_pos live]
  generalize (decide (5 ≤ rate) && decide (4 ≤ width)) = up
  have found : (d.trained rate width).rood? r = some x := by rwa [Dev.rood?, (trained_keeps rate width d).1]
  refine atEach_reaches (P := fun z => z = x ∨ Presented (!up) x z) ?_ (fun _ => .inr) found (.inl rfl)
  rintro ctx z (rfl | ⟨y, rfl, cmds, side⟩)
  · exact ⟨_, rfl, (present_recordSide now up z).cmds, (present_recordSide now up z).hostSide⟩
  · obtain ⟨w, same, cmdsAgain, again⟩ := settled_again side (present_recordSide now up (x.settled y))
    exact ⟨w, same, cmdsAgain.trans cmds, again⟩

theorem hostLinkMet_fields (now : W64) (rate width : Nat) (d : Dev) :
    (d.hostLinkMet now rate width).regs.linkRate = rate ∧ (d.hostLinkMet now rate width).regs.linkWidth = width ∧
      (d.hostLinkMet now rate width).roodsLive = d.roodsLive := by
  have bound := hostLinkMet_bound now rate width d
  unfold RoodsFx FxOnly at bound
  obtain ⟨-, live, regs, -⟩ := trained_keeps rate width d
  rw [bound]
  exact ⟨congrArg (fun g => g.linkRate) regs, congrArg (fun g => g.linkWidth) regs, live⟩

/-- Settles O12, from what the device and each rood keep when the link is trained. -/
theorem linkTrainingIsShown : Obligations.LinkTrainingIsShown := by
  unfold Obligations.LinkTrainingIsShown
  intro rate width s pwrgd lo hi hw
  obtain ⟨roods, -, regs, counters⟩ := trained_keeps rate width s.dev
  obtain ⟨linkRate, linkWidth, live⟩ := hostLinkMet_fields s.clock.time rate width s.dev
  refine ⟨_, exec_cxlLinkTrained pwrgd lo hi hw, rfl, rfl, (signal_linkRate _ _).trans linkRate,
    (signal_linkWidth _ _).trans linkWidth, fun none => ?log, ?ready, fun dead => ?dead, fun live r x hx => ?rood,
    fun none => ?counters⟩
  case log => rw [onDev_dev, signal_log, hostLinkMet_log none, regs]
  case ready =>
    rw [onDev_dev]
    simp only [Dev.cxlReady, Dev.roodsLive, Dev.linkFull, signal_boot, signal_comp, signal_linkRate, signal_linkWidth, linkRate,
      linkWidth] at live ⊢
    rw [live]
    simp only [Bool.and_eq_true, decide_eq_true_eq]
  case dead => rw [onDev_dev, signal_roods, Dev.hostLinkMet, dead, if_neg (by decide), roods]
  case rood =>
    obtain ⟨z, hz, y, rfl, cmds, side⟩ := hostLinkMet_rood live hx s.clock.time rate width
    exact ⟨y, by rw [Becomes, onDev_dev, signal_rood?]; exact hz, cmds, side⟩
  case counters => rw [onDev_dev, signal_counters, hostLinkMet_counters none, counters]

end Sys2Proof.Machine
end

section
/-! PROOF. The judgement of a command of the load queue (R145, R238, R241, Table 7.10): it fails its first checks, waits behind an
earlier one, or has its turn at once; and with it obligation O32. -/
namespace Sys2Proof.Machine
open Sys2Proof

/-! ## A command that completes where no slot can be accepted -/

/-- The rood with other requests to the rest of the device. -/
def Rood.asking (f : List Fx) (x : Rood) : Rood := { x with fx := f }

theorem CanReport.posted {x : Rood} {d : Cmd} {q : CRing} (h : CanReport x d q) : NonePosted x := by
  obtain ⟨-, -, posted, -, -⟩ := h
  exact posted

/-- A rood that completes a command, whatever it asks for besides, ends the command. -/
theorem ends_of_completed {t : State} {r : Nat} {x z : Rood} {d : Cmd} {q : CRing} {k : CRec} {f : List Fx} {now : W64}
    (h : Becomes t r x (((z.asking f).complete now d k).pump now)) (report : CanReport z d q) (full : k.result.length = 4) :
    Ends t r x z d q k.tidy := by
  have asked : CanReport (z.asking f) d q := report
  have posted := asked.posted.of_irings (RecordSide.complete now d k (z.asking f)).irings
  rw [pump_nonePosted posted] at h
  have side : HostSide z (z.asking f) := rfl
  exact ⟨_, h, side.trans (complete_hostSide now d k _), complete_reported asked now k full⟩

/-! ## The judgement (R238, R241) -/

/-- The rood once a command has joined the load queue. -/
def Rood.queued (d : Cmd) (x : Rood) : Rood := { x with obj := { x.obj with queue := x.obj.queue ++ [d.id] } }

theorem judgeLoad_failsFirst {x : Rood} {d : Cmd} (bad : d.loadCheck ≠ 0) (ctx : Ctx) :
    x.judgeLoad ctx d = (x.fail ctx.time d d.loadCheck).pump ctx.time := by
  simp only [Rood.judgeLoad, bad, if_true, ne_eq, not_false_eq_true]

theorem judgeLoad_refusesPart {x : Rood} {d : Cmd} (passes : d.loadCheck = 0) (bad : x.partCheck d ≠ 0) (ctx : Ctx) :
    x.judgeLoad ctx d = (x.fail ctx.time d (x.partCheck d)).pump ctx.time := by
  simp only [Rood.judgeLoad, passes, bad, if_true, if_false, ne_eq, not_true_eq_false, not_false_eq_true]

theorem judgeLoad_waits {x : Rood} {d : Cmd} (passes : d.loadCheck = 0) (allowed : x.partCheck d = 0)
    (behind : x.obj.queue ≠ []) (ctx : Ctx) :
    x.judgeLoad ctx d = ((x.queued d).setCmd { d with stage := .waiting }).pump ctx.time := by
  have later : x.obj.queue.isEmpty = false := by simpa using behind
  simp only [Rood.judgeLoad, passes, allowed, later, if_false, ne_eq, not_true_eq_false, Bool.false_eq_true]
  rfl

theorem judgeLoad_runs {x : Rood} {d : Cmd} (passes : d.loadCheck = 0) (allowed : x.partCheck d = 0) (first : x.obj.queue = [])
    (ctx : Ctx) : x.judgeLoad ctx d = ((x.queued d).runLoad ctx d).pump ctx.time := by
  have now : x.obj.queue.isEmpty = true := by simp [first]
  simp only [Rood.judgeLoad, passes, allowed, now, if_false, if_true, ne_eq, not_true_eq_false]
  rfl

/-! ## The rows -/

/-- Each row of the load queue judges its own opcode in the order of acceptance. -/
theorem exec_loadRow {op : Nat} (lo : 0x10 ≤ op) (hi : op ≤ 0x13) (r c : Nat) (s : State) :
    exec (loadRow op r c) s =
      .next (onRood r (fun ctx x => x.onNext c [op] loadOps (fun d x => x.judgeLoad ctx d)) s) := by
  obtain rfl | rfl | rfl | rfl : op = 0x10 ∨ op = 0x11 ∨ op = 0x12 ∨ op = 0x13 := by omega
  · rfl
  · rfl
  · rfl
  · rfl

theorem mem_loadOps {op : Nat} : op ∈ loadOps ↔ 0x10 ≤ op ∧ op ≤ 0x13 := by
  simp only [loadOps, List.mem_cons, List.not_mem_nil, or_false]
  omega

/-- An earlier command of the queue that is accepted still has to be judged. -/
theorem unjudgedBefore_of_earlier {x : Rood} {d : Cmd}
    (earlier : ∃ k ∈ x.cmds, k.id < d.id ∧ k.stage = .accepted ∧ 0x10 ≤ k.opcode ∧ k.opcode ≤ 0x13) :
    x.unjudgedBefore loadOps d = true := by
  obtain ⟨k, mem, before, stage, range⟩ := earlier
  have listed : loadOps.contains k.opcode = true := List.contains_iff_mem.mpr (mem_loadOps.mpr range)
  refine List.any_eq_true.mpr ⟨k, mem, ?_⟩
  rw [stage, listed, decide_eq_true before]
  rfl

theorem onNext_accepted {x : Rood} {c op : Nat} {d : Cmd} (accepted : Accepted x c op d) (fam : List Nat)
    (f : Cmd → Rood → Rood) : x.onNext c [op] fam f = if x.unjudgedBefore fam d then x else f d x := by
  obtain ⟨cmd, opcode, stage⟩ := accepted
  exact onCmd_runs cmd (by simp [opcode]) stage _

theorem loadRow_heldBack {op r c : Nat} {s : State} {x : Rood} {d : Cmd} (lo : 0x10 ≤ op) (hi : op ≤ 0x13) (hw : Works s r x)
    (accepted : Accepted x c op d) (behind : x.unjudgedBefore loadOps d = true) :
    ∃ t, exec (loadRow op r c) s = .next t ∧ Becomes t r x x := by
  refine ⟨_, exec_loadRow lo hi r c s, onRood_becomes_of hw ?_⟩
  rw [onNext_accepted accepted, if_pos behind]

theorem loadRow_judges {op r c : Nat} {s : State} {x : Rood} {d : Cmd} (lo : 0x10 ≤ op) (hi : op ≤ 0x13) (hw : Works s r x)
    (accepted : Accepted x c op d) (next : x.unjudgedBefore loadOps d = false) :
    ∃ t, exec (loadRow op r c) s = .next t ∧ Becomes t r x (x.judgeLoad (ctxOf s) d) := by
  refine ⟨_, exec_loadRow lo hi r c s, onRood_becomes_of hw ?_⟩
  rw [onNext_accepted accepted, next, if_neg Bool.false_ne_true]

/-- A command that is judged to fail ends, and leaves the rood as it is. -/
theorem loadRow_fails {op r c : Nat} {s : State} {x : Rood} {d : Cmd} {q : CRing} {st : Nat} (lo : 0x10 ≤ op) (hi : op ≤ 0x13)
    (hw : Works s r x) (accepted : Accepted x c op d) (report : CanReport x d q) (next : x.unjudgedBefore loadOps d = false)
    (judged : x.judgeLoad (ctxOf s) d = (x.fail s.clock.time d st).pump s.clock.time) :
    ∃ t, exec (loadRow op r c) s = .next t ∧ Ends t r x x d q (d.record st) := by
  obtain ⟨t, run, becomes⟩ := loadRow_judges lo hi hw accepted next
  rw [judged] at becomes
  have ends := ends_of_completed (f := x.fx) becomes report rfl
  rw [tidy_record] at ends
  exact ⟨t, run, ends⟩

/-- A command that passes its first checks behind another joins the queue and waits. -/
theorem loadRow_waits {op r c : Nat} {s : State} {x : Rood} {d : Cmd} {q : CRing} (lo : 0x10 ≤ op) (hi : op ≤ 0x13)
    (hw : Works s r x) (accepted : Accepted x c op d) (report : CanReport x d q) (next : x.unjudgedBefore loadOps d = false)
    (passes : d.loadCheck = 0) (allowed : x.partCheck d = 0) (behind : x.obj.queue ≠ []) :
    ∃ t, exec (loadRow op r c) s = .next t ∧ Becomes t r x ((x.queued d).setCmd { d with stage := .waiting }) := by
  obtain ⟨t, run, becomes⟩ := loadRow_judges lo hi hw accepted next
  have posted : NonePosted ((x.queued d).setCmd { d with stage := .waiting }) := report.posted
  rw [judgeLoad_waits passes allowed behind, pump_nonePosted posted] at becomes
  exact ⟨t, run, becomes⟩

/-- Settles O32, from the order in which commands of the queue are judged and from what the judgement of each does (log entry 33
says which open load a part behind another command is judged against). -/
theorem loadsWaitTheirTurn : Obligations.LoadsWaitTheirTurn := by
  unfold Obligations.LoadsWaitTheirTurn
  intro op r c s x d q lo hi hw accepted
  refine ⟨fun earlier => loadRow_heldBack lo hi hw accepted (unjudgedBefore_of_earlier earlier),
    fun report next => ⟨?first, ?part, ?waits⟩⟩
  case first => exact fun bad => loadRow_fails lo hi hw accepted report next (judgeLoad_failsFirst bad _)
  case part => exact fun passes bad => loadRow_fails lo hi hw accepted report next (judgeLoad_refusesPart passes bad _)
  case waits => exact loadRow_waits lo hi hw accepted report next

end Sys2Proof.Machine
end

section
/-! PROOF. A command of the load queue whose turn it is (R237, R240, R241), what MDL_UNLOAD then does, and with it obligation
O35. -/
namespace Sys2Proof.Machine
open Sys2Proof

/-! ## A command in its turn -/

/-- A command of the queue is next to be judged, passes its first checks, and finds the queue empty. -/
structure LoadTurn (op r c : Nat) (s : State) (x : Rood) (d : Cmd) (q : CRing) : Prop where
  lo : 0x10 ≤ op
  hi : op ≤ 0x13
  works : Works s r x
  accepted : Accepted x c op d
  report : CanReport x d q
  passes : d.loadCheck = 0
  next : x.unjudgedBefore loadOps d = false
  first : x.obj.queue = []

/-- The command leaves the queue that it joined alone. -/
theorem dequeued_queued {z : Rood} (first : z.obj.queue = []) (d : Cmd) : (z.queued d).dequeued d = z := by
  have alone : (z.obj.queue ++ [d.id]).filter (fun i => i != d.id) = z.obj.queue := by simp [first]
  simp only [Rood.dequeued, Rood.queued, alone]

/-- The record of a command of the queue carries LOAD_SEQ. -/
theorem finishLoad_eq (now : W64) (d : Cmd) (st : Nat) (y : Rood) :
    y.finishLoad now d st = (y.dequeued d).complete now d { d.record st with result := [y.obj.loadSeq, 0, 0, 0] } := rfl

/-- A record that says that a command succeeded or was cancelled carries it as it is (R150). -/
theorem tidy_carried {st : Nat} (h : st ∈ [stOk, stCancelled]) (d : Cmd) (result : List Nat) :
    ({ d.record st with result := result } : CRec).tidy = { d.record st with result := result } := by
  simp only [List.mem_cons, List.not_mem_nil, or_false] at h
  obtain rfl | rfl := h
  · rfl
  · rfl

/-- A record that says that a command failed carries no LOAD_SEQ (R150). -/
theorem tidy_refused {st : Nat} (h : st ∈ [stBadState, stFormat, stAuth, stSuspect]) (d : Cmd) (result : List Nat) :
    ({ d.record st with result := result } : CRec).tidy = d.record st := by
  simp only [List.mem_cons, List.not_mem_nil, or_false] at h
  obtain rfl | rfl | rfl | rfl := h
  · rfl
  · rfl
  · rfl
  · rfl

section
variable {op r c : Nat} {s : State} {x : Rood} {d : Cmd} {q : CRing} (h : LoadTurn op r c s x d q)
include h

/-- A part that check 2 of Table 7.10 refuses ends, and leaves the rood as it is. -/
theorem LoadTurn.refused {st : Nat} (part : x.partCheck d = st) (bad : st ≠ 0) :
    ∃ t, exec (loadRow op r c) s = .next t ∧ Ends t r x x d q (d.record st) := by
  subst part
  exact loadRow_fails h.lo h.hi h.works h.accepted h.report h.next (judgeLoad_refusesPart h.passes bad _)

theorem LoadTurn.runs (allowed : x.partCheck d = 0) :
    ∃ t, exec (loadRow op r c) s = .next t ∧ Becomes t r x (((x.queued d).runLoad (ctxOf s) d).pump s.clock.time) := by
  obtain ⟨t, run, becomes⟩ := loadRow_judges h.lo h.hi h.works h.accepted h.next
  rw [judgeLoad_runs h.passes allowed h.first] at becomes
  exact ⟨t, run, becomes⟩

/-- A command that finishes in its turn ends, and the rood stands as `z`. -/
theorem LoadTurn.finishes (allowed : x.partCheck d = 0) {z : Rood} {f : List Fx} {st : Nat}
    (run : (x.queued d).runLoad (ctxOf s) d = ((z.queued d).asking f).finishLoad s.clock.time d st)
    (first : z.obj.queue = []) (report : CanReport z d q) :
    ∃ t, exec (loadRow op r c) s = .next t ∧
      Ends t r x z d q ({ d.record st with result := [z.obj.loadSeq, 0, 0, 0] } : CRec).tidy := by
  obtain ⟨t, ran, becomes⟩ := h.runs allowed
  have gone : ((z.queued d).asking f).dequeued d = z.asking f := dequeued_queued (z := z.asking f) first d
  rw [run, finishLoad_eq, gone] at becomes
  exact ⟨t, ran, ends_of_completed becomes report rfl⟩

/-- A command that succeeds or is cancelled in its turn ends with LOAD_SEQ. -/
theorem LoadTurn.succeeds (allowed : x.partCheck d = 0) {z : Rood} {f : List Fx} {st : Nat}
    (run : (x.queued d).runLoad (ctxOf s) d = ((z.queued d).asking f).finishLoad s.clock.time d st)
    (status : st ∈ [stOk, stCancelled]) (first : z.obj.queue = []) (report : CanReport z d q) :
    ∃ t, exec (loadRow op r c) s = .next t ∧
      Ends t r x z d q { d.record st with result := [z.obj.loadSeq, 0, 0, 0] } := by
  have finished := h.finishes allowed run first report
  rwa [tidy_carried status] at finished

/-- A command that fails in its turn ends without LOAD_SEQ. -/
theorem LoadTurn.fails (allowed : x.partCheck d = 0) {z : Rood} {f : List Fx} {st : Nat}
    (run : (x.queued d).runLoad (ctxOf s) d = ((z.queued d).asking f).finishLoad s.clock.time d st)
    (status : st ∈ [stBadState, stFormat, stAuth, stSuspect]) (first : z.obj.queue = []) (report : CanReport z d q) :
    ∃ t, exec (loadRow op r c) s = .next t ∧ Ends t r x z d q (d.record st) := by
  have finished := h.finishes allowed run first report
  rwa [tidy_refused status] at finished

end

/-! ## MDL_UNLOAD (R237, R240) -/

theorem runUnload_cancels {y : Rood} {d : Cmd} {l : OpenLoad} (collects : y.obj.openLoad = some l) (kind : l.kind = d.kind)
    (slot : l.slot = d.objSlot) (now : W64) : y.runUnload now d = y.abandonLoad.finishLoad now d stCancelled := by
  simp [Rood.runUnload, collects, kind, slot]

theorem runUnload_empty {y : Rood} {d : Cmd} (closed : y.obj.openLoad = none) (empty : y.heldImage d.kind d.objSlot = none)
    (now : W64) : y.runUnload now d = y.finishLoad now d stBadState := by
  simp [Rood.runUnload, closed, empty]

theorem runUnload_held {y : Rood} {d : Cmd} (closed : y.obj.openLoad = none)
    (held : (y.heldImage d.kind d.objSlot).isSome = true) (now : W64) :
    y.runUnload now d = y.setCmd { d with stage := .ready } := by
  have full : (y.heldImage d.kind d.objSlot).isNone = false := by
    rw [Option.isNone_eq_false_iff]
    exact held
  simp [Rood.runUnload, closed, full]

theorem runLoad_unload {d : Cmd} (op : d.opcode = 0x11) (ctx : Ctx) (y : Rood) : y.runLoad ctx d = y.runUnload ctx.time d := by
  rw [Rood.runLoad, op]
  rfl

/-- The rood once its open load and the frames of that load have gone. -/
def Rood.withoutOpen (l : OpenLoad) (x : Rood) : Rood :=
  ({ x with obj := { x.obj with openLoad := none } } : Rood).giveRoom l.frames

theorem abandonLoad_open {y : Rood} {l : OpenLoad} (collects : y.obj.openLoad = some l) : y.abandonLoad = y.withoutOpen l := by
  rw [Rood.abandonLoad, collects]
  rfl

theorem partCheck_notPart {d : Cmd} (op : d.opcode = 0x11) (x : Rood) : x.partCheck d = 0 := by
  simp [Rood.partCheck, op]

section
variable {r c : Nat} {s : State} {x : Rood} {d : Cmd} {q : CRing}

theorem mdlUnload_cancels (h : LoadTurn 0x11 r c s x d q) {l : OpenLoad} (collects : x.obj.openLoad = some l)
    (kind : l.kind = d.kind) (slot : l.slot = d.objSlot) :
    ∃ t, exec (.mdlUnload r c) s = .next t ∧
      Ends t r x (x.withoutOpen l) d q { d.record stCancelled with result := [x.obj.loadSeq, 0, 0, 0] } := by
  obtain ⟨-, op, -⟩ := h.accepted
  have found : (x.queued d).obj.openLoad = some l := collects
  refine h.succeeds (partCheck_notPart op x) (z := x.withoutOpen l) (f := x.fx) ?_ (by decide) h.first h.report
  rw [runLoad_unload op, runUnload_cancels found kind slot, abandonLoad_open found]
  rfl

theorem mdlUnload_empty (h : LoadTurn 0x11 r c s x d q) (closed : x.obj.openLoad = none)
    (empty : x.heldImage d.kind d.objSlot = none) :
    ∃ t, exec (.mdlUnload r c) s = .next t ∧ Ends t r x x d q (d.record stBadState) := by
  obtain ⟨-, op, -⟩ := h.accepted
  refine h.fails (partCheck_notPart op x) (f := x.fx) ?_ (by decide) h.first h.report
  rw [runLoad_unload op, runUnload_empty (y := x.queued d) closed empty]
  rfl

theorem mdlUnload_held (h : LoadTurn 0x11 r c s x d q) (closed : x.obj.openLoad = none)
    (held : (x.heldImage d.kind d.objSlot).isSome = true) :
    ∃ t, exec (.mdlUnload r c) s = .next t ∧ Becomes t r x ((x.queued d).setCmd { d with stage := .ready }) := by
  obtain ⟨-, op, -⟩ := h.accepted
  obtain ⟨t, run, becomes⟩ := h.runs (partCheck_notPart op x)
  have posted : NonePosted ((x.queued d).setCmd { d with stage := .ready }) := h.report.posted
  rw [runLoad_unload op, runUnload_held (y := x.queued d) closed held, pump_nonePosted posted] at becomes
  exact ⟨t, run, becomes⟩

/-- LOAD_QUEUE_ADVANCE lets the waiting head of the queue proceed (R241). -/
theorem loadQueueAdvance_runs (hw : Works s r x) (cmd : x.cmd? c = some d) (stage : d.stage = .waiting)
    (head : x.obj.queue.head? = some c) :
    ∃ t, exec (.loadQueueAdvance r) s = .next t ∧ Becomes t r x ((x.runLoad (ctxOf s) d).pump s.clock.time) := by
  refine ⟨_, rfl, onRood_becomes_of hw ?_⟩
  simp only [head, Option.bind_some, cmd, stage, if_true]
  rfl

theorem loadQueueAdvance_unload (hw : Works s r x) (cmd : x.cmd? c = some d) (op : d.opcode = 0x11) (report : CanReport x d q)
    (stage : d.stage = .waiting) (head : x.obj.queue.head? = some c) (closed : x.obj.openLoad = none)
    (held : (x.heldImage d.kind d.objSlot).isSome = true) :
    ∃ t, exec (.loadQueueAdvance r) s = .next t ∧ Becomes t r x (x.setCmd { d with stage := .ready }) := by
  obtain ⟨t, run, becomes⟩ := loadQueueAdvance_runs hw cmd stage head
  have posted : NonePosted (x.setCmd { d with stage := .ready }) := report.posted
  rw [runLoad_unload op, runUnload_held closed held, pump_nonePosted posted] at becomes
  exact ⟨t, run, becomes⟩

end

/-- Settles O35, from what an unload finds in its slot at once and at its turn. -/
theorem unloadsBegin : Obligations.UnloadsBegin := by
  unfold Obligations.UnloadsBegin
  intro r c s x d q hw cmd op report passes
  refine ⟨fun stage next first => ?now, fun stage head closed held =>
    loadQueueAdvance_unload hw cmd op report stage head closed held⟩
  have h : LoadTurn 0x11 r c s x d q := ⟨by decide, by decide, hw, ⟨cmd, op, stage⟩, report, passes, next, first⟩
  refine ⟨fun l collects kind slot => ?_, mdlUnload_empty h, fun closed held => ?_⟩
  · obtain ⟨t, run, ends⟩ := mdlUnload_cancels h collects kind slot
    exact ⟨t, x.withoutOpen l, run, rfl, rfl, rfl, ends⟩
  · have waits := mdlUnload_held h closed held
    rw [Rood.queued, first] at waits
    exact waits

end Sys2Proof.Machine
end

section
/-! PROOF. A part of an image in its turn (R62, R64, R236 to R238, Tables 7.10 and 16.2), and with it obligation O33. -/
namespace Sys2Proof.Machine
open Sys2Proof

/-! ## The bytes of a part (Table 16.2) -/

theorem readBulk_clean {x : Rood} {d : Cmd} {bytes : List Byte} (clean : CleanBulk x d bytes) (now : W64) :
    x.readBulk now d.bulkOff d.bulkLen = (x.count 4 d.bulkLen, 0, bytes) := by
  obtain ⟨some_bytes, rfl, unmarked⟩ := clean
  have marks : (touchedLines d.bulkOff d.bulkLen).filterMap (fun l => lookKey l x.stagingBad) = [] := by
    rw [List.filterMap_eq_nil_iff]
    exact unmarked
  simp [Rood.readBulk, marks, some_bytes]

theorem readBulk_suspect {x : Rood} {off len : Nat} (some_bytes : len ≠ 0)
    (bad : ∃ k ∈ touchedLines off len, lookKey k x.stagingBad = some true) (now : W64) :
    x.readBulk now off len = (x, stSuspect, []) := by
  have marked : ((touchedLines off len).filterMap (fun l => lookKey l x.stagingBad)).contains true = true :=
    List.contains_iff_mem.mpr (List.mem_filterMap.mpr bad)
  simp only [Rood.readBulk, some_bytes, marked, if_false, if_true]

/-- Counting the bytes read is a request alone. -/
theorem count_asking (i n : Nat) (x : Rood) : x.count i n = x.asking (x.count i n).fx := by
  unfold Rood.count
  split <;> rfl

/-! ## Check 2 of Table 7.10 (R236, R237) -/

theorem partCheck_first {x : Rood} {d : Cmd} {bytes : List Byte} (op : d.opcode = 0x10) (alone : x.obj.queue = [])
    (closed : x.obj.openLoad = none) (clean : CleanBulk x d bytes) :
    x.partCheck d = if imgCutOk bytes bytes.length then 0 else stFormat := by
  obtain ⟨-, rfl, -⟩ := clean
  have place : x.openPlace = none := by simp [Rood.openPlace, alone, closed]
  simp only [Rood.partCheck, op, place, ne_eq, not_true_eq_false, if_false]
  rfl

theorem partCheck_further {x : Rood} {d : Cmd} {l : OpenLoad} (op : d.opcode = 0x10) (alone : x.obj.queue = [])
    (collects : x.obj.openLoad = some l) (short : l.file.length < imgFileLen l.file) :
    x.partCheck d =
      if l.kind ≠ d.kind ∨ l.slot ≠ d.objSlot then stBadState
      else if imgCutOk l.file (l.file.length + d.bulkLen) then 0 else stFormat := by
  have place : x.openPlace = some { kind := l.kind, slot := l.slot, head := l.file, len := l.file.length } := by
    simp [Rood.openPlace, alone, collects, Option.filter, short]
  simp only [Rood.partCheck, op, place, ne_eq, not_true_eq_false, if_false]

/-! ## A part that is taken -/

/-- The load that the first part of an image opens. -/
def firstPart (d : Cmd) (bytes : List Byte) (cek : BitVec 256) : OpenLoad :=
  { kind := d.kind, slot := d.objSlot, file := bytes, chunks := 0, body := [], cek := cek, image := none, frames := [] }

theorem runLoad_part {d : Cmd} (op : d.opcode = 0x10) (ctx : Ctx) (y : Rood) : y.runLoad ctx d = y.runMdlLoad ctx d := by
  rw [Rood.runLoad, op]
  rfl

/-- No load of another slot is open. -/
def Rood.collectsFor (d : Cmd) (x : Rood) : Prop := ∀ l, x.obj.openLoad = some l → l.kind = d.kind ∧ l.slot = d.objSlot

theorem no_other_load {x : Rood} {d : Cmd} (own : x.collectsFor d) :
    x.obj.openLoad.any (fun l => l.kind != d.kind || l.slot != d.objSlot) = false := by
  cases collects : x.obj.openLoad with
  | none => rfl
  | some l =>
    obtain ⟨kind, slot⟩ := own l collects
    simp [kind, slot]

theorem runMdlLoad_clean {x : Rood} {d : Cmd} {bytes : List Byte} (own : x.collectsFor d) (clean : CleanBulk x d bytes)
    (ctx : Ctx) : x.runMdlLoad ctx d = (x.asking (x.count 4 d.bulkLen).fx).runPartOf ctx d bytes := by
  rw [← count_asking]
  simp [Rood.runMdlLoad, no_other_load own, readBulk_clean clean]

theorem runMdlLoad_suspect {x : Rood} {d : Cmd} (own : x.collectsFor d) (some_bytes : d.bulkLen ≠ 0)
    (bad : ∃ k ∈ touchedLines d.bulkOff d.bulkLen, lookKey k x.stagingBad = some true) (ctx : Ctx) :
    x.runMdlLoad ctx d = x.finishLoad ctx.time d stSuspect := by
  simp [Rood.runMdlLoad, no_other_load own, readBulk_suspect some_bytes bad]

theorem runPartOf_badHeader {y : Rood} {d : Cmd} {bytes : List Byte} (closed : y.obj.openLoad = none)
    (bad : imgHeaderOk d.kind bytes = false) (ctx : Ctx) :
    y.runPartOf ctx d bytes = y.finishLoad ctx.time d stFormat := by
  simp [Rood.runPartOf, closed, bad]

theorem runPartOf_badEnvelope {y : Rood} {d : Cmd} {bytes : List Byte} {ctx : Ctx} (closed : y.obj.openLoad = none)
    (cutOk : imgCutOk bytes bytes.length = true) (header : imgHeaderOk d.kind bytes = true)
    (wrapped : imgUnwrap ctx.dev.boot.dxk bytes = none) : y.runPartOf ctx d bytes = y.finishLoad ctx.time d stAuth := by
  simp only [Rood.runPartOf, closed, cutOk, header, wrapped, Bool.not_true, Bool.or_self, Bool.false_eq_true, if_false]

theorem runPartOf_opens {y : Rood} {d : Cmd} {bytes : List Byte} {ctx : Ctx} {k : BitVec 256} (closed : y.obj.openLoad = none)
    (cutOk : imgCutOk bytes bytes.length = true) (header : imgHeaderOk d.kind bytes = true)
    (unwrapped : imgUnwrap ctx.dev.boot.dxk bytes = some k) :
    y.runPartOf ctx d bytes = y.processPart ctx.time d (firstPart d bytes k) := by
  simp only [Rood.runPartOf, closed, cutOk, header, unwrapped, Bool.not_true, Bool.or_self, Bool.false_eq_true, if_false]
  rfl

theorem runPartOf_further {y : Rood} {d : Cmd} {l : OpenLoad} {bytes : List Byte} (collects : y.obj.openLoad = some l)
    (cutOk : imgCutOk (l.file ++ bytes) (l.file ++ bytes).length = true) (ctx : Ctx) :
    y.runPartOf ctx d bytes = y.processPart ctx.time d { l with file := l.file ++ bytes } := by
  simp only [Rood.runPartOf, collects, cutOk, if_true]

/-- A part that brings no whole chunk leaves the load open. -/
theorem processPart_noChunk {y : Rood} {d : Cmd} {l : OpenLoad} (noChunk : wholeChunks l.file = 0)
    (short : l.file.length < imgFileLen l.file) (now : W64) :
    y.processPart now d l = (y.setOpen l).finishLoad now d stOk := by
  simp [Rood.processPart, noChunk, short, Rood.loadChunks]

theorem loadChunk_bad {y : Rood} {l : OpenLoad} (collects : y.obj.openLoad = some l)
    (bad : imgChunk l.cek l.file l.chunks = none) : y.loadChunk = (stAuth, y) := by
  have never : ∀ {m bs}, y.obj.openLoad = some m → imgChunk m.cek m.file m.chunks ≠ some bs := by
    intro m bs found opened
    obtain rfl : l = m := Option.some.inj (collects.symm.trans found)
    exact nomatch bad.symm.trans opened
  fun_cases Rood.loadChunk y
  case case1 closed => exact nomatch closed.symm.trans collects
  case case2 => rfl
  case case3 found _ opened _ _ _ => exact absurd opened (never found)
  case case4 found _ opened _ _ _ _ _ => exact absurd opened (never found)
  case case5 found _ opened _ _ _ _ => exact absurd opened (never found)

theorem loadChunks_bad {y : Rood} {l : OpenLoad} (collects : y.obj.openLoad = some l)
    (bad : imgChunk l.cek l.file l.chunks = none) (n : Nat) : y.loadChunks (n + 1) = (stAuth, y) := by
  rw [Rood.loadChunks, loadChunk_bad collects bad]
  rfl

/-- A part whose next chunk does not authenticate ends the load (R64). -/
theorem processPart_badChunk {y : Rood} {d : Cmd} {l : OpenLoad} (more : l.chunks < wholeChunks l.file)
    (bad : imgChunk l.cek l.file l.chunks = none) (now : W64) :
    y.processPart now d l = (y.withoutOpen l).finishLoad now d stAuth := by
  have collects : (y.setOpen l).obj.openLoad = some l := rfl
  have chunks : (y.setOpen l).loadChunks (wholeChunks l.file - l.chunks) = (stAuth, y.setOpen l) := by
    rw [← Nat.sub_one_add_one (Nat.sub_ne_zero_of_lt more)]
    exact loadChunks_bad collects bad _
  have ends : y.processPart now d l = (y.setOpen l).abandonLoad.finishLoad now d stAuth := by
    rw [Rood.processPart, chunks]
    rfl
  rw [ends, abandonLoad_open collects]
  rfl

/-! ## The first part (Table 7.10) -/

section
variable {r c : Nat} {s : State} {x : Rood} {d : Cmd} {q : CRing} {bytes : List Byte}

/-- A first part that is cut as it should be is read. -/
theorem mdlLoad_firstRead (h : LoadTurn 0x10 r c s x d q) (closed : x.obj.openLoad = none) (clean : CleanBulk x d bytes)
    (cutOk : imgCutOk bytes bytes.length = true) :
    x.partCheck d = 0 ∧ ∃ f, (x.queued d).runLoad (ctxOf s) d = ((x.queued d).asking f).runPartOf (ctxOf s) d bytes := by
  obtain ⟨-, op, -⟩ := h.accepted
  have own : (x.queued d).collectsFor d := fun l collects => nomatch closed.symm.trans collects
  refine ⟨by rw [partCheck_first op h.first closed clean, cutOk]; rfl, ((x.queued d).count 4 d.bulkLen).fx, ?_⟩
  rw [runLoad_part op, runMdlLoad_clean own clean]

theorem mdlLoad_firstRefused (h : LoadTurn 0x10 r c s x d q) (closed : x.obj.openLoad = none) (clean : CleanBulk x d bytes)
    (bad : imgCutOk bytes bytes.length = false ∨ imgHeaderOk d.kind bytes = false) :
    ∃ t, exec (.mdlLoad r c) s = .next t ∧ Ends t r x x d q (d.record stFormat) := by
  obtain ⟨-, op, -⟩ := h.accepted
  have check := partCheck_first op h.first closed clean
  cases cutOk : imgCutOk bytes bytes.length with
  | false => exact h.refused (by rw [check, cutOk]; rfl) (by decide)
  | true =>
    have header : imgHeaderOk d.kind bytes = false := bad.resolve_left (by rw [cutOk]; decide)
    obtain ⟨allowed, f, run⟩ := mdlLoad_firstRead h closed clean cutOk
    refine h.fails allowed (f := f) ?_ (by decide) h.first h.report
    rw [run, runPartOf_badHeader (y := (x.queued d).asking f) closed header]
    rfl

theorem mdlLoad_badEnvelope (h : LoadTurn 0x10 r c s x d q) (closed : x.obj.openLoad = none) (clean : CleanBulk x d bytes)
    (cutOk : imgCutOk bytes bytes.length = true) (header : imgHeaderOk d.kind bytes = true)
    (wrapped : imgUnwrap s.dev.boot.dxk bytes = none) :
    ∃ t, exec (.mdlLoad r c) s = .next t ∧ Ends t r x x d q (d.record stAuth) := by
  obtain ⟨allowed, f, run⟩ := mdlLoad_firstRead h closed clean cutOk
  refine h.fails allowed (f := f) ?_ (by decide) h.first h.report
  rw [run, runPartOf_badEnvelope (ctx := ctxOf s) (y := (x.queued d).asking f) closed cutOk header wrapped]
  rfl

theorem mdlLoad_opens (h : LoadTurn 0x10 r c s x d q) (closed : x.obj.openLoad = none) (clean : CleanBulk x d bytes)
    (cutOk : imgCutOk bytes bytes.length = true) (header : imgHeaderOk d.kind bytes = true) {k : BitVec 256}
    (unwrapped : imgUnwrap s.dev.boot.dxk bytes = some k) (noChunk : wholeChunks bytes = 0)
    (short : bytes.length < imgFileLen bytes) :
    ∃ t, exec (.mdlLoad r c) s = .next t ∧
      Ends t r x (x.setOpen (firstPart d bytes k)) d q { d.record stOk with result := [x.obj.loadSeq, 0, 0, 0] } := by
  obtain ⟨allowed, f, run⟩ := mdlLoad_firstRead h closed clean cutOk
  refine h.succeeds allowed (z := x.setOpen (firstPart d bytes k)) (f := f) ?_ (by decide) h.first h.report
  rw [run, runPartOf_opens (ctx := ctxOf s) (y := (x.queued d).asking f) closed cutOk header unwrapped,
    processPart_noChunk (l := firstPart d bytes k) noChunk short]
  rfl

/-! ## A further part (R236 to R238) -/

variable {l : OpenLoad}

theorem mdlLoad_otherSlot (h : LoadTurn 0x10 r c s x d q) (collects : x.obj.openLoad = some l)
    (short : l.file.length < imgFileLen l.file) (other : l.kind ≠ d.kind ∨ l.slot ≠ d.objSlot) :
    ∃ t, exec (.mdlLoad r c) s = .next t ∧ Ends t r x x d q (d.record stBadState) := by
  obtain ⟨-, op, -⟩ := h.accepted
  exact h.refused (by rw [partCheck_further op h.first collects short, if_pos other]) (by decide)

/-- A part of the slot whose load is open is judged by where it is cut alone. -/
theorem partCheck_sameSlot (h : LoadTurn 0x10 r c s x d q) (collects : x.obj.openLoad = some l)
    (short : l.file.length < imgFileLen l.file) (kind : l.kind = d.kind) (slot : l.slot = d.objSlot) :
    x.partCheck d = if imgCutOk l.file (l.file.length + d.bulkLen) then 0 else stFormat := by
  obtain ⟨-, op, -⟩ := h.accepted
  rw [partCheck_further op h.first collects short, if_neg (by simp [kind, slot])]

theorem collectsFor_sameSlot (collects : x.obj.openLoad = some l) (kind : l.kind = d.kind) (slot : l.slot = d.objSlot) :
    (x.queued d).collectsFor d := by
  intro m found
  obtain rfl : l = m := Option.some.inj (collects.symm.trans found)
  exact ⟨kind, slot⟩

theorem mdlLoad_badCut (h : LoadTurn 0x10 r c s x d q) (collects : x.obj.openLoad = some l)
    (short : l.file.length < imgFileLen l.file) (kind : l.kind = d.kind) (slot : l.slot = d.objSlot)
    (bad : imgCutOk l.file (l.file.length + d.bulkLen) = false) :
    ∃ t, exec (.mdlLoad r c) s = .next t ∧ Ends t r x x d q (d.record stFormat) :=
  h.refused (by rw [partCheck_sameSlot h collects short kind slot, bad]; rfl) (by decide)

theorem mdlLoad_suspectLine (h : LoadTurn 0x10 r c s x d q) (collects : x.obj.openLoad = some l)
    (short : l.file.length < imgFileLen l.file) (kind : l.kind = d.kind) (slot : l.slot = d.objSlot)
    (cutOk : imgCutOk l.file (l.file.length + d.bulkLen) = true) (some_bytes : d.bulkLen ≠ 0)
    (bad : ∃ k ∈ touchedLines d.bulkOff d.bulkLen, lookKey k x.stagingBad = some true) :
    ∃ t, exec (.mdlLoad r c) s = .next t ∧ Ends t r x x d q (d.record stSuspect) := by
  obtain ⟨-, op, -⟩ := h.accepted
  have allowed : x.partCheck d = 0 := by rw [partCheck_sameSlot h collects short kind slot, cutOk]; rfl
  refine h.fails allowed (f := x.fx) ?_ (by decide) h.first h.report
  rw [runLoad_part op]
  exact runMdlLoad_suspect (collectsFor_sameSlot collects kind slot) some_bytes bad _

theorem mdlLoad_badChunk (h : LoadTurn 0x10 r c s x d q) (collects : x.obj.openLoad = some l)
    (short : l.file.length < imgFileLen l.file) (kind : l.kind = d.kind) (slot : l.slot = d.objSlot)
    (cutOk : imgCutOk l.file (l.file.length + d.bulkLen) = true) (clean : CleanBulk x d bytes)
    (cutThere : imgCutOk (l.file ++ bytes) (l.file ++ bytes).length = true) (more : l.chunks < wholeChunks (l.file ++ bytes))
    (bad : imgChunk l.cek (l.file ++ bytes) l.chunks = none) :
    ∃ t, exec (.mdlLoad r c) s = .next t ∧ Ends t r x (x.withoutOpen l) d q (d.record stAuth) := by
  obtain ⟨-, op, -⟩ := h.accepted
  have allowed : x.partCheck d = 0 := by rw [partCheck_sameSlot h collects short kind slot, cutOk]; rfl
  have own : (x.queued d).collectsFor d := collectsFor_sameSlot collects kind slot
  refine h.fails allowed (z := x.withoutOpen l) (f := ((x.queued d).count 4 d.bulkLen).fx) ?_ (by decide) h.first h.report
  rw [runLoad_part op, runMdlLoad_clean own clean, runPartOf_further (y := (x.queued d).asking _) collects cutThere,
    processPart_badChunk (l := { l with file := l.file ++ bytes }) more bad]
  rfl

end

/-- Settles O33, part by part. -/
theorem partsOfAnImageAreCollected : Obligations.PartsOfAnImageAreCollected := by
  unfold Obligations.PartsOfAnImageAreCollected
  intro r c s x d q hw accepted report passes next first
  have h : LoadTurn 0x10 r c s x d q := ⟨by decide, by decide, hw, accepted, report, passes, next, first⟩
  refine ⟨fun bytes closed clean => ⟨mdlLoad_firstRefused h closed clean, fun cutOk header => ⟨?envelope, ?opens⟩⟩,
    fun l collects short => ⟨mdlLoad_otherSlot h collects short, mdlLoad_badCut h collects short, fun kind slot cutOk =>
      ⟨mdlLoad_suspectLine h collects short kind slot cutOk, ?chunk⟩⟩⟩
  case envelope => exact mdlLoad_badEnvelope h closed clean cutOk header
  case opens => exact fun k unwrapped noChunk short => mdlLoad_opens h closed clean cutOk header unwrapped noChunk short
  case chunk =>
    exact fun bytes clean cutThere more bad => mdlLoad_badChunk h collects short kind slot cutOk clean cutThere more bad

end Sys2Proof.Machine
end

section
/-! PROOF. What the parts of a step, what is measured over it and its boundary events leave of a rood (R105, R116, R275, R279, R290,
R291, R446, R460, R461). -/
namespace Sys2Proof.Machine
open Sys2Proof

/-! ## The slot that an entry is written to -/

theorem slot_setSlot (i j : Nat) (s : Slot) (x : Rood) : (x.setSlot i s).slot j = if j = i then s else x.slot j := by
  unfold Rood.slot Rood.setSlot
  dsimp only
  by_cases hj : j = i
  · subst hj
    split
    · next free => simp [lookKey_delKey_same, free]
    · simp [lookKey_putKey_same]
  · split
    · simp [lookKey_delKey_other hj]
    · simp [lookKey_putKey_other hj]

theorem slot_setEntry_other {i j : Nat} (h : j ≠ i) (e : Entry) (x : Rood) : (x.setEntry i e).slot j = x.slot j := by
  rw [Rood.setEntry, slot_setSlot, if_neg h]

theorem entry?_setEntry (i j : Nat) (e : Entry) (x : Rood) :
    (x.setEntry i e).entry? j = if j = i then some e else x.entry? j := by
  rw [Rood.entry?, Rood.setEntry, slot_setSlot]
  split <;> rfl

theorem slot_congr {x y : Rood} (slots : y.slots = x.slots) (gen : y.baseGen = x.baseGen) (i : Nat) : y.slot i = x.slot i := by
  rw [Rood.slot, Rood.slot, slots, gen]

/-! ## What a step may reach -/

/-- Only what a step works on differs: sessions, stored positions, sequences, commands, window stores, and what it reports. -/
def StepOnly (x y : Rood) : Prop :=
  y = { x with
    slots := y.slots, kv := y.kv, seqs := y.seqs, cmds := y.cmds, wins := y.wins, tally := y.tally, crings := y.crings
    host := y.host, fx := y.fx
    regs := { x.regs with
      addrFault := y.regs.addrFault, msix := y.regs.msix, log := y.regs.log, logEvent := y.regs.logEvent } }

theorem StepOnly.trans {x y z : Rood} (h : StepOnly x y) (k : StepOnly y z) : StepOnly x z := by
  unfold StepOnly at *
  rw [k, h]

/-- A sequence as the rood held it before the step: its command, its session and the cancel that waits on it. -/
def Known (o : Rood) (q : Seq) : Prop := ∃ p ∈ o.seqs, p.cmd = q.cmd ∧ p.slot = q.slot ∧ p.cancel = q.cancel

/-- A sequence of the step. -/
def InParts (o : Rood) (parts : List Part) (q : Seq) : Prop := Known o q ∧ ∃ pt ∈ parts, q.cmd = pt.cmd

/-- The slots that the parts of a step name, themselves or by their sequences. -/
def Reached (o : Rood) (parts : List Part) (i : Nat) : Prop :=
  ∃ pt ∈ parts, pt.slot = i ∨ ∃ q ∈ o.seqs, q.cmd = pt.cmd ∧ q.slot = i

/-- A command that is no sequence's, nor a cancel that waits on one. -/
def Spared (o : Rood) (id : Nat) : Prop := ∀ q ∈ o.seqs, q.cmd ≠ id ∧ q.cancel ≠ some id

/-- What work for the parts of a step leaves, where it charges each session what `paid` says. -/
structure StepLeaves (o : Rood) (parts : List Part) (paid : Nat → Nat) (x y : Rood) : Prop where
  only : StepOnly x y
  known : ∀ q ∈ y.seqs, Known o q
  slots : ∀ i, ¬ Reached o parts i → y.slot i = x.slot i
  cmds : ∀ c ∈ x.cmds, Spared o c.id → ∃ d ∈ y.cmds, d.id = c.id ∧ d.stage = c.stage
  grains : ∀ i e, x.entry? i = some e → ∃ f, y.entry? i = some f ∧ f.grains = e.grains + paid i

/-- Work for the parts of a step of rood `o`, which charges each session what `paid` says. -/
def ChargedWork (o : Rood) (parts : List Part) (paid : Nat → Nat) (x y : Rood) : Prop :=
  (∀ q ∈ x.seqs, Known o q) → StepLeaves o parts paid x y

/-- Work for the parts of a step that charges nothing. -/
abbrev StepWork (o : Rood) (parts : List Part) (x y : Rood) : Prop := ChargedWork o parts (fun _ => 0) x y

variable {o : Rood} {parts : List Part}

theorem ChargedWork.trans {p q : Nat → Nat} {x y z : Rood} (h : ChargedWork o parts p x y) (k : ChargedWork o parts q y z) :
    ChargedWork o parts (fun i => p i + q i) x z := by
  intro known
  have first := h known
  have second := k first.known
  refine ⟨first.only.trans second.only, second.known, fun i hi => (second.slots i hi).trans (first.slots i hi), ?cmds, ?grains⟩
  case cmds =>
    intro c hc spared
    obtain ⟨d, hd, did, dstage⟩ := first.cmds c hc spared
    obtain ⟨g, hg, gid, gstage⟩ := second.cmds d hd (did ▸ spared)
    exact ⟨g, hg, gid.trans did, gstage.trans dstage⟩
  case grains =>
    intro i e he
    obtain ⟨f, hf, fpaid⟩ := first.grains i e he
    obtain ⟨g, hg, gpaid⟩ := second.grains i f hf
    exact ⟨g, hg, by rw [gpaid, fpaid, Nat.add_assoc]⟩

theorem StepWork.trans {x y z : Rood} (h : StepWork o parts x y) (k : StepWork o parts y z) : StepWork o parts x z :=
  ChargedWork.trans h k

/-- The same, from the last work back. -/
theorem StepWork.after {x y z : Rood} (k : StepWork o parts y z) (h : StepWork o parts x y) : StepWork o parts x z := h.trans k

theorem StepWork.thenCharged {p : Nat → Nat} {x y z : Rood} (h : StepWork o parts x y) (k : ChargedWork o parts p y z) :
    ChargedWork o parts p x z := by
  have both := ChargedWork.trans h k
  simpa only [Nat.zero_add] using both

theorem ChargedWork.thenWork {p : Nat → Nat} {x y z : Rood} (h : ChargedWork o parts p x y) (k : StepWork o parts y z) :
    ChargedWork o parts p x z := ChargedWork.trans h k

/-! ## Work that leaves the sessions -/

/-- Work that writes no entry. -/
theorem StepWork.of_slots {x y : Rood} (only : StepOnly x y) (slots : y.slots = x.slots)
    (seqs : ∀ q ∈ y.seqs, q ∈ x.seqs ∨ Known o q)
    (cmds : ∀ c ∈ x.cmds, Spared o c.id → ∃ d ∈ y.cmds, d.id = c.id ∧ d.stage = c.stage) : StepWork o parts x y := by
  have same : ∀ i, y.slot i = x.slot i := slot_congr slots (by rw [only])
  intro known
  refine ⟨only, fun q hq => (seqs q hq).elim (known q) id, fun i _ => same i, cmds, fun i e he => ⟨e, ?_, rfl⟩⟩
  rw [Rood.entry?, same]
  exact he

/-- Work that leaves sessions, sequences and commands. -/
theorem StepWork.of_report {x y : Rood} (only : StepOnly x y) (slots : y.slots = x.slots) (seqs : y.seqs = x.seqs)
    (cmds : y.cmds = x.cmds) : StepWork o parts x y :=
  .of_slots only slots (fun _ hq => .inl (seqs ▸ hq)) (fun c hc _ => ⟨c, cmds ▸ hc, rfl, rfl⟩)

theorem StepWork.refl (x : Rood) : StepWork o parts x x := .of_report rfl rfl rfl rfl

theorem StepWork.of_record {x y : Rood} (h : RecordSide x y) : StepWork o parts x y :=
  .of_report (by unfold StepOnly; rw [h.only]) (by rw [h.only]) (by rw [h.only]) h.cmds

theorem StepWork.foldl {α : Type} {f : Rood → α → Rood} {l : List α} (h : ∀ x, ∀ a ∈ l, StepWork o parts x (f x a)) (x : Rood) :
    StepWork o parts x (l.foldl f x) := by
  induction l generalizing x with
  | nil => exact .refl x
  | cons a l ih =>
    exact (h x a List.mem_cons_self).trans (ih (fun y b hb => h y b (List.mem_cons_of_mem a hb)) _)

/-- The same for a rood that is carried with a result. -/
theorem StepWork.foldl_fst {α β : Type} {f : Rood × β → α → Rood × β} (h : ∀ r a, StepWork o parts r.1 (f r a).1) (l : List α)
    (r : Rood × β) : StepWork o parts r.1 (l.foldl f r).1 := by
  induction l generalizing r with
  | nil => exact .refl r.1
  | cons a l ih => exact (h r a).trans (ih _)

theorem ask_work (f : Fx) (x : Rood) : StepWork o parts x (x.ask f) := .of_report rfl rfl rfl rfl

/-- A count asks for nothing where it is 0. -/
theorem askUnless_work (n : Nat) (f : Fx) (x : Rood) : StepWork o parts x (if n = 0 then x else x.ask f) := by
  split
  · exact .refl x
  · exact ask_work f x

theorem count_work (i n : Nat) (x : Rood) : StepWork o parts x (x.count i n) := askUnless_work _ _ x
theorem countSlice_work (pos i n : Nat) (x : Rood) : StepWork o parts x (x.countSlice pos i n) := askUnless_work _ _ x
theorem countBank_work (pos c i n : Nat) (x : Rood) : StepWork o parts x (x.countBank pos c i n) := askUnless_work _ _ x
theorem countAssigned_work (slot pos i n : Nat) (x : Rood) : StepWork o parts x (x.countAssigned slot pos i n) :=
  askUnless_work _ _ x
theorem countSegments_work (t n : Nat) (x : Rood) : StepWork o parts x (x.countSegments t n) := askUnless_work _ _ x
theorem mapTally_work (f : Tally → Tally) (x : Rood) : StepWork o parts x (x.mapTally f) := .of_report rfl rfl rfl rfl
theorem setKv_work (k : Kv) (x : Rood) : StepWork o parts x { x with kv := k } := .of_report rfl rfl rfl rfl

theorem countSel_work (slot p : Nat) (r : SelResult) (x : Rood) : StepWork o parts x (x.countSel slot p r) :=
  ((countAssigned_work _ _ _ _ _).trans (countAssigned_work _ _ _ _ _)).trans (countAssigned_work _ _ _ _ _)

theorem walk_work (t : LabTag) (x : Rood) : StepWork o parts x (x.walk t) := by
  unfold Rood.walk
  exact .after (countSlice_work _ _ _ _) (setKv_work _ x)

theorem kvEvent_work (slot gen p : Nat) (x : Rood) (e : KvEvent) : StepWork o parts x (x.kvEvent slot gen p e) := by
  cases e with
  | partials key n => exact countBank_work _ _ _ _ _
  | box key => exact countBank_work _ _ _ _ _
  | sel r => exact countSel_work _ _ _ _
  | walk kind layer line => exact walk_work _ x

theorem setWin_work (t : Nat) (w : WindowStore) (x : Rood) : StepWork o parts x (x.setWin t w) := .of_report rfl rfl rfl rfl

theorem closeWindows_work (l : List (Nat × List Segment)) (x : Rood) : StepWork o parts x (x.closeWindows l) :=
  .foldl (fun x _ _ => .after (setWin_work _ _ _) (countSegments_work _ _ x)) x

theorem countStep_work (s : Step) (sgs : List Nat) (x : Rood) : StepWork o parts x (x.countStep s sgs) :=
  StepWork.trans (.foldl (fun _ _ _ => ask_work _ _) x) (countSlice_work _ _ _ _)

theorem writeStream_work (now : W64) (c : Cmd) (addr : Nat) (bs : List Byte) (fault : Bool) (x : Rood) :
    StepWork o parts x (x.writeStream now c addr bs fault) := by
  unfold Rood.writeStream
  split
  · exact .after (.of_record (.logOwn _ _)) (.of_report rfl rfl rfl rfl)
  · exact .after (mapTally_work _ _) (.after (count_work _ _ _) (.of_record (.hostWrite _ _ _)))

/-! ## Sequences and commands of the step -/

/-- A sequence changes in all but its command, its session and its cancel. -/
theorem setSeq_work {q p : Seq} (hq : Known o q) (x : Rood)
    (same : p.cmd = q.cmd ∧ p.slot = q.slot ∧ p.cancel = q.cancel := by exact ⟨rfl, rfl, rfl⟩) :
    StepWork o parts x (x.setSeq p) := by
  obtain ⟨cmd, slot, cancel⟩ := same
  have known : Known o p := by
    rw [Known, cmd, slot, cancel]
    exact hq
  refine .of_slots rfl rfl (fun b hb => ?_) (fun c hc _ => ⟨c, hc, rfl, rfl⟩)
  obtain ⟨a, ha, rfl⟩ := List.mem_map.mp hb
  split
  · exact .inr known
  · exact .inl ha

theorem dropSeqs_work (p : Seq → Bool) (x : Rood) : StepWork o parts x { x with seqs := x.seqs.filter p } :=
  .of_slots rfl rfl (fun _ hq => .inl (List.mem_filter.mp hq).1) (fun c hc _ => ⟨c, hc, rfl, rfl⟩)

theorem flagCmd_work (id : Nat) (x : Rood) : StepWork o parts x (x.flagCmd id) := by
  refine .of_slots rfl rfl (fun _ hq => .inl hq) (fun c hc _ => ⟨_, List.mem_map_of_mem hc, ?_⟩)
  split <;> exact ⟨rfl, rfl⟩

theorem complete_work {c : Cmd} (hc : ¬ Spared o c.id) (now : W64) (r : CRec) (x : Rood) :
    StepWork o parts x (x.complete now c r) := by
  have gone : StepWork o parts x { x with cmds := x.cmds.filter (fun d => d.id != c.id) } := by
    refine .of_slots rfl rfl (fun _ hq => .inl hq) (fun d hd spared => ⟨d, List.mem_filter.mpr ⟨hd, ?_⟩, rfl, rfl⟩)
    exact bne_iff_ne.mpr (fun same => hc (same ▸ spared))
  exact gone.trans (.of_record (.complete now c r x))

theorem Known.cmd_notSpared {q : Seq} (h : Known o q) : ¬ Spared o q.cmd := by
  obtain ⟨p, hp, cmd, -, -⟩ := h
  exact fun spared => (spared p hp).1 cmd

theorem Known.cancel_notSpared {q : Seq} {id : Nat} (h : Known o q) (hid : q.cancel = some id) : ¬ Spared o id := by
  obtain ⟨p, hp, -, -, cancel⟩ := h
  exact fun spared => (spared p hp).2 (cancel.trans hid)

theorem InParts.reached {q : Seq} (h : InParts o parts q) : Reached o parts q.slot := by
  obtain ⟨⟨p, hp, cmd, slot, -⟩, pt, hpt, own⟩ := h
  exact ⟨pt, hpt, .inr ⟨p, hp, cmd.trans own, slot⟩⟩

theorem inParts_of_seq? {x : Rood} {pt : Part} {q : Seq} (known : ∀ q ∈ x.seqs, Known o q) (hpt : pt ∈ parts)
    (hq : x.seq? pt.cmd = some q) : InParts o parts q :=
  ⟨known q (List.mem_of_find?_eq_some hq), pt, hpt, by simpa using List.find?_some hq⟩

theorem cmd?_id {x : Rood} {id : Nat} {c : Cmd} (h : x.cmd? id = some c) : c.id = id := by
  simpa using List.find?_some h

/-! ## Entries of the sessions of the step -/

theorem setEntry_charged {i n : Nat} {x : Rood} {e f : Entry} (hi : Reached o parts i) (he : x.entry? i = some e)
    (paid : f.grains = e.grains + n) : ChargedWork o parts (fun j => if j = i then n else 0) x (x.setEntry i f) := by
  intro known
  refine ⟨rfl, known, fun j hj => slot_setEntry_other ?_ f x, fun c hc _ => ⟨c, hc, rfl, rfl⟩, fun j g hg => ?_⟩
  · rintro rfl
    exact hj hi
  rw [entry?_setEntry]
  by_cases same : j = i
  · subst same
    obtain rfl : e = g := Option.some.inj (he.symm.trans hg)
    exact ⟨f, if_pos rfl, by rw [if_pos rfl]; exact paid⟩
  · exact ⟨g, (if_neg same).trans hg, by rw [if_neg same]; rfl⟩

theorem setEntry_work {i : Nat} {x : Rood} {e f : Entry} (hi : Reached o parts i) (he : x.entry? i = some e)
    (same : f.grains = e.grains) : StepWork o parts x (x.setEntry i f) := by
  simpa only [ite_self] using setEntry_charged (n := 0) hi he same

theorem modEntry_work {i : Nat} (hi : Reached o parts i) {f : Entry → Entry} (x : Rood)
    (same : ∀ e, (f e).grains = e.grains := by intro; rfl) :
    StepWork o parts x (x.modEntry i f) := by
  unfold Rood.modEntry
  split
  · next e he => exact setEntry_work hi he (same e)
  · exact .refl x

/-- Grains that a session is charged. -/
theorem charge_work {i : Nat} (hi : Reached o parts i) (n : Nat) (x : Rood) :
    ChargedWork o parts (fun j => if j = i then n else 0) x (x.modEntry i (fun e => { e with grains := e.grains + n })) := by
  unfold Rood.modEntry
  split
  · next e he => exact setEntry_charged hi he rfl
  · next none =>
    intro known
    have leaves := StepWork.refl (o := o) (parts := parts) x known
    refine ⟨leaves.only, leaves.known, leaves.slots, leaves.cmds, fun j e he => ⟨e, he, ?_⟩⟩
    have other : j ≠ i := fun same => by simp [same ▸ he] at none
    rw [if_neg other]
    rfl

theorem setState_work {i : Nat} (hi : Reached o parts i) (now : W64) (st : SesState) (kind : Nat) (x : Rood) :
    StepWork o parts x (x.setState now i st kind) := modEntry_work hi x

theorem dropKv_work {i : Nat} (hi : Reached o parts i) (s s' : Nat) (x : Rood) : StepWork o parts x (x.dropKv i s s') := by
  unfold Rood.dropKv
  split
  · exact .refl x
  · split
    · exact .refl x
    · exact .after (modEntry_work hi _) (setKv_work _ x)

theorem suspect_work {i : Nat} (hi : Reached o parts i) (now : W64) (x : Rood) : StepWork o parts x (x.suspect now i) := by
  unfold Rood.suspect
  split
  · split
    · exact .refl x
    · exact .after (count_work _ _ _) (.after (modEntry_work hi _) (setState_work hi _ _ _ x))
  · exact .refl x

/-! ## Tokens (R105, R275, R325 to R328) -/

theorem runToken_work (m : FwdModel) (v : KvSes) (slot tok pos : Nat) (sampled : Bool) (x : Rood) :
    StepWork o parts x (x.runToken m v slot tok pos sampled).x :=
  (setKv_work _ x).trans (.foldl (fun _ _ _ => kvEvent_work _ _ _ _ _) _)

theorem runPrefill_work (m : FwdModel) (v : KvSes) {q : Seq} (hq : InParts o parts q) (n : Nat) (x : Rood) :
    StepWork o parts x (x.runPrefill m v q n).1 := by
  unfold Rood.runPrefill
  extract_lets r
  have tokens : StepWork o parts x r.1 := StepWork.foldl_fst (fun r _ => runToken_work _ _ _ _ _ _ r.1) _ (x, [])
  dsimp only
  exact .after (mapTally_work _ _) (.after (count_work _ _ _) (.after (setSeq_work hq.1 _) tokens))

theorem commitToken_work {q : Seq} (hq : InParts o parts q) {x : Rood} {e f : Entry} (hf : x.entry? q.slot = some f)
    (same : e.grains = f.grains) (now : W64) (g : Gen) (c : Cmd) (ch : Choice) (flagged fault : Bool) :
    StepWork o parts x (x.commitToken now q g e c ch flagged fault) := by
  unfold Rood.commitToken
  extract_lets table text rec' n stop e' g' y z w
  have committed : StepWork o parts x y := .after (setSeq_work hq.1 _) (setEntry_work hq.reached hf same)
  have counted : StepWork o parts x w :=
    .after (mapTally_work _ _) (.after (count_work _ _ _) (.after (writeStream_work _ _ _ _ _ _) committed))
  split
  · exact counted
  · exact counted.trans (countAssigned_work _ _ _ _ _)

theorem sampleAt_work (m : FwdModel) (q : Seq) (g : Gen) (e : Entry) (hidden : List Nat) (x : Rood) :
    StepWork o parts x (x.sampleAt m q g e hidden).1 := (countAssigned_work _ _ _ _ _).trans (countSel_work _ _ _ _)

/-- A token is committed after work that has left the entry's charge. -/
theorem StepWork.thenCommit {q : Seq} (hq : InParts o parts q) {x y : Rood} (h : StepWork o parts x y) {e : Entry}
    (he : x.entry? q.slot = some e) (now : W64) (g : Gen) (c : Cmd) (ch : Choice) (flagged fault : Bool) :
    StepWork o parts x (y.commitToken now q g e c ch flagged fault) := by
  intro known
  obtain ⟨f, hf, same⟩ := (h known).grains _ e he
  exact h.trans (commitToken_work hq hf same.symm now g c ch flagged fault) known

theorem runDecode_work (now : W64) (m : FwdModel) (v : KvSes) {q : Seq} (hq : InParts o parts q) (flagged fault : Bool) (x : Rood) :
    StepWork o parts x (x.runDecode now m v q flagged fault).1 := by
  unfold Rood.runDecode
  split
  · next e g c he _ _ =>
    extract_lets d forced free s
    have token := fun sampled => runToken_work (o := o) (parts := parts) m v q.slot e.pendingToken (e.length - 1) sampled x
    split
    · have counted := fun p n => (token false).trans (countAssigned_work q.slot e.length p n _)
      exact .thenCommit hq (.after (countAssigned_work _ _ _ _ _) (counted 5 1)) he _ _ _ _ _ _
    · have sampled : StepWork o parts x s.1 := (token true).trans (sampleAt_work _ _ _ _ _ _)
      split
      · exact .thenCommit hq sampled he _ _ _ _ _ _
      · exact .after (setSeq_work hq.1 _) (.after (dropKv_work hq.reached _ _ _) sampled)
  · exact .refl x

/-! ## One part (R279, R446, R460) -/

theorem applyAppend_work {q : Seq} (hq : InParts o parts q) (x : Rood) : StepWork o parts x (x.applyAppend q) := by
  unfold Rood.applyAppend
  split
  · exact .refl x
  · exact .after (setSeq_work hq.1 _) (modEntry_work hq.reached x)

section
variable {pt : Part} (hpt : pt ∈ parts)
include hpt

theorem endAppendPart_work (x : Rood) : StepWork o parts x (x.endAppendPart pt.cmd) := by
  intro known
  unfold Rood.endAppendPart
  split
  · next q hq =>
    have appended : StepWork o parts x (x.applyAppend q) := applyAppend_work (inParts_of_seq? known hpt hq) x
    split
    · extract_lets y
      split
      · next e p _ hp =>
        split
        · exact appended.trans (setSeq_work (inParts_of_seq? (appended known).known hpt hp).1 _) known
        · exact appended known
      · exact appended known
    · exact StepWork.refl x known
  · exact StepWork.refl x known

theorem runPart_work (now : W64) (im : Image) (p : Params) (flagged fault : Bool) (x : Rood) :
    StepWork o parts x (x.runPart now im p pt flagged fault).1 := by
  intro known
  unfold Rood.runPart
  split
  · next q e hq _ =>
    extract_lets m v r y
    have prefilled : StepWork o parts x r.1 := by
      unfold r
      split
      · exact .refl x
      · exact runPrefill_work _ _ (inParts_of_seq? known hpt hq) _ x
    have appended : StepWork o parts x y := .after (endAppendPart_work hpt _) prefilled
    split
    · split
      · next p hp =>
        exact appended.trans (runDecode_work _ _ _ (inParts_of_seq? (appended known).known hpt hp) _ _ _) known
      · exact appended known
    · exact appended known
  · exact StepWork.refl x known

theorem voidPart_work (x : Rood) : StepWork o parts x (x.voidPart pt) := by
  unfold Rood.voidPart
  split
  · exact dropKv_work ⟨pt, hpt, .inl rfl⟩ _ _ x
  · exact .refl x

/-- A part of a step is charged for some context units (R446). -/
theorem stepPart_charges (now : W64) (im : Image) (p : Params) (pl : Placement) (s : Step) (e : StepEnv) (x : Rood) :
    ∃ units, ChargedWork o parts
      (fun i => if i = pt.slot then stepCharge pl (s.parts.any Part.samples) s.parts.length pt units else 0) x
      (x.stepPart now im p pl s e pt) := by
  unfold Rood.stepPart
  extract_lets touched bound ran r grains
  have work : StepWork o parts x r.1 := by
    unfold r
    split
    · exact voidPart_work hpt x
    · exact runPart_work hpt _ _ _ _ _ x
  exact ⟨r.2, work.thenCharged (charge_work ⟨pt, hpt, .inl rfl⟩ _ _)⟩

/-! ## Boundary events and latencies (R287, R291, R461) -/

theorem latency_work (now : W64) (s : Step) (before : List (Nat × Nat)) (x : Rood) :
    StepWork o parts x (x.latency now s before pt) := by
  intro known
  unfold Rood.latency
  split
  · exact StepWork.refl x known
  · next q hq =>
    extract_lets hist committed y
    have counted : StepWork o parts x y := by
      unfold y
      split
      · exact countSlice_work _ _ _ x
      · exact .refl x
    split
    · exact counted.trans (setSeq_work (inParts_of_seq? known hpt hq).1 _) known
    · exact counted known
end

theorem endSeq_work (now : W64) {q : Seq} (hq : InParts o parts q) (alloc status yield : Nat) (x : Rood) :
    StepWork o parts x (x.endSeq now q alloc status yield) := by
  unfold Rood.endSeq
  extract_lets y z w v
  have kept : StepWork o parts x y := by
    unfold y
    split
    · exact .refl x
    · exact dropKv_work hq.reached _ _ x
  have left : StepWork o parts x w := by
    refine .after (modEntry_work hq.reached _ fun e => ?_) (.after (dropSeqs_work _ _) kept)
    split <;> rfl
  have resident : StepWork o parts x v := by
    unfold v
    split
    · split
      · exact left
      · exact left.trans (setState_work hq.reached _ _ _ _)
    · exact left
  have own : ∀ c, v.cmd? q.cmd = some c → ¬ Spared o c.id := fun c hc => cmd?_id hc ▸ hq.1.cmd_notSpared
  split
  · next c _ hc _ => exact resident.trans (complete_work (own c hc) _ _ _)
  · next c hc _ => exact resident.trans (complete_work (own c hc) _ _ _)
  · exact resident

theorem endCancel_work (now : W64) {q : Seq} (hq : Known o q) (nothing : Bool) (x : Rood) :
    StepWork o parts x (x.endCancel now q nothing) := by
  unfold Rood.endCancel
  split
  · next id hid =>
    split
    · next c hc => exact complete_work (cmd?_id hc ▸ hq.cancel_notSpared hid) _ _ x
    · exact .refl x
  · exact .refl x

theorem endAt_work (now : W64) {q : Seq} (hq : InParts o parts q) (status yield : Nat) (nothing : Bool) (x : Rood) :
    StepWork o parts x (x.endAt now q status yield nothing) := by
  unfold Rood.endAt
  extract_lets alloc y z
  have flagged : StepWork o parts x y := by
    unfold y
    split
    · exact flagCmd_work _ x
    · exact .refl x
  have ended : StepWork o parts x z := .after (endCancel_work _ hq.1 _ _) (.after (endSeq_work _ hq _ _ _ _) flagged)
  split
  · exact ended.trans (suspect_work hq.reached _ _)
  · exact ended

theorem endTouched_work (now : W64) {q : Seq} (hq : InParts o parts q) (x : Rood) : StepWork o parts x (x.endTouched now q) :=
  .after (endCancel_work _ hq.1 _ _) (.after (endSeq_work _ hq _ _ _ _) (.after (suspect_work hq.reached _ _) (flagCmd_work _ x)))

theorem boundary_work {pt : Part} (hpt : pt ∈ parts) (now : W64) (x : Rood) : StepWork o parts x (x.boundary now pt.cmd) := by
  intro known
  unfold Rood.boundary
  split
  · exact StepWork.refl x known
  · next q hq =>
    have mine : InParts o parts q := inParts_of_seq? known hpt hq
    refine (?_ : StepWork o parts x _) known
    split_ifs
    · exact endAt_work _ mine _ _ _ x
    · exact endAt_work _ mine _ _ _ x
    · exact endAt_work _ mine _ _ _ x
    · exact endTouched_work _ mine x
    · exact .after (endAt_work (q := { q with appendDone := true }) _ mine _ _ _ _) (applyAppend_work mine x)
    · exact .refl x

end Sys2Proof.Machine
end

section
/-! PROOF. A crew that stands at its boundary keeps the time of it while checkpoints are cut and steps are composed (R277 to R290,
R415). -/
namespace Sys2Proof.Machine
open Sys2Proof

/-! ## A crew among the crews of a rood -/

/-- Crew `k` of the image in slot `m` is among these, and has the property. -/
def CrewHas (P : Crew → Prop) (m k : Nat) (l : List Crew) : Prop :=
  (∃ c ∈ l, c.model = m ∧ c.idx = k) ∧ ∀ c ∈ l, c.model = m → c.idx = k → P c

theorem crew?_of_has {P : Crew → Prop} {m k : Nat} {x : Rood} (h : CrewHas P m k x.crews) : ∃ c, x.crew? m k = some c ∧ P c := by
  obtain ⟨⟨c, hc, model, idx⟩, all⟩ := h
  have found : (x.crew? m k).isSome = true := List.find?_isSome.mpr ⟨c, hc, by simp [model, idx]⟩
  obtain ⟨d, hd⟩ := Option.isSome_iff_exists.mp found
  have own : d.model = m ∧ d.idx = k := by simpa using List.find?_some hd
  exact ⟨d, hd, all d (List.mem_of_find?_eq_some hd) own.1 own.2⟩

theorem has_of_crew? {m k : Nat} {x : Rood} {c : Crew} (h : x.crew? m k = some c) : CrewHas (fun _ => True) m k x.crews :=
  have own : c.model = m ∧ c.idx = k := by simpa using List.find?_some h
  ⟨⟨c, List.mem_of_find?_eq_some h, own⟩, fun _ _ _ _ => trivial⟩

/-- A change of crews that leaves what names them. -/
theorem CrewHas.map {P Q : Crew → Prop} {m k : Nat} {l : List Crew} (h : CrewHas P m k l) {f : Crew → Crew}
    (names : ∀ c, (f c).model = c.model ∧ (f c).idx = c.idx) (has : ∀ c, c.model = m → c.idx = k → P c → Q (f c)) :
    CrewHas Q m k (l.map f) := by
  obtain ⟨⟨c, hc, model, idx⟩, all⟩ := h
  refine ⟨⟨f c, List.mem_map_of_mem hc, (names c).1.trans model, (names c).2.trans idx⟩, fun d hd model idx => ?_⟩
  obtain ⟨b, hb, rfl⟩ := List.mem_map.mp hd
  rw [(names b).1] at model
  rw [(names b).2] at idx
  exact has b model idx (all b hb model idx)

theorem CrewHas.setCrew {P : Crew → Prop} {m k : Nat} {x : Rood} (h : CrewHas P m k x.crews) {j : Crew}
    (has : j.model = m → j.idx = k → P j) : CrewHas P m k (x.setCrew j).crews := by
  refine h.map (fun c => ?_) (fun c model idx hc => ?_)
  all_goals split
  · next same =>
    simp only [Bool.and_eq_true, beq_iff_eq] at same
    exact ⟨same.1.symm, same.2.symm⟩
  · exact ⟨rfl, rfl⟩
  · next same =>
    simp only [Bool.and_eq_true, beq_iff_eq] at same
    exact has (same.1.symm.trans model) (same.2.symm.trans idx)
  · exact hc

/-- The crew at its boundary: whatever it held, it stands there with this time. -/
theorem CrewHas.freeCrew {P : Crew → Prop} {m k : Nat} {x : Rood} (h : CrewHas P m k x.crews) (now : W64) (held : Option Step) :
    CrewHas (fun c => c.lastEnd = now ∧ c.step = none ∧ c.held = held) m k (x.freeCrew now m k held).crews := by
  refine h.map (fun c => ?_) (fun c model idx _ => ?_)
  · split <;> exact ⟨rfl, rfl⟩
  · rw [if_pos (by simp [model, idx])]
    exact ⟨rfl, rfl, rfl⟩

/-! ## Work that leaves the crews -/

/-- Crews and loaded objects are as before. -/
def CrewsStay (x y : Rood) : Prop := y.crews = x.crews ∧ y.obj = x.obj

theorem CrewsStay.refl (x : Rood) : CrewsStay x x := ⟨rfl, rfl⟩

theorem CrewsStay.trans {x y z : Rood} (h : CrewsStay x y) (k : CrewsStay y z) : CrewsStay x z :=
  ⟨k.1.trans h.1, k.2.trans h.2⟩

theorem CrewsStay.after {x y z : Rood} (k : CrewsStay y z) (h : CrewsStay x y) : CrewsStay x z := h.trans k

theorem CrewsStay.of_hostSide {x y : Rood} (h : HostSide x y) : CrewsStay x y := ⟨h.crews, h.obj⟩

theorem CrewsStay.foldl {α : Type} {f : Rood → α → Rood} (h : ∀ x a, CrewsStay x (f x a)) (l : List α) (x : Rood) :
    CrewsStay x (l.foldl f x) :=
  List.foldlRecOn l f (motive := CrewsStay x) (.refl x) (fun y hy a _ => hy.trans (h y a))

/-- The same for a rood that is carried with a result. -/
theorem CrewsStay.foldl_part {α β : Type} {part : β → Rood} {f : β → α → β} (h : ∀ r a, CrewsStay (part r) (part (f r a)))
    (l : List α) (r : β) : CrewsStay (part r) (part (l.foldl f r)) :=
  List.foldlRecOn l f (motive := fun s => CrewsStay (part r) (part s)) (.refl _) (fun s hs a _ => hs.trans (h s a))

theorem ask_crews (f : Fx) (x : Rood) : CrewsStay x (x.ask f) := ⟨rfl, rfl⟩

theorem countSlice_crews (pos i n : Nat) (x : Rood) : CrewsStay x (x.countSlice pos i n) := by
  unfold Rood.countSlice
  split
  · exact .refl x
  · exact ask_crews _ x

theorem countSegments_crews (t n : Nat) (x : Rood) : CrewsStay x (x.countSegments t n) := by
  unfold Rood.countSegments
  split
  · exact .refl x
  · exact ask_crews _ x

theorem count_crews (i n : Nat) (x : Rood) : CrewsStay x (x.count i n) := .of_hostSide (count_hostSide i n x)
theorem setSeq_crews (q : Seq) (x : Rood) : CrewsStay x (x.setSeq q) := ⟨rfl, rfl⟩

theorem modEntry_crews (i : Nat) (f : Entry → Entry) (x : Rood) : CrewsStay x (x.modEntry i f) := by
  unfold Rood.modEntry
  split
  · exact ⟨rfl, rfl⟩
  · exact .refl x

theorem setState_crews (now : W64) (i : Nat) (st : SesState) (kind : Nat) (x : Rood) : CrewsStay x (x.setState now i st kind) :=
  modEntry_crews _ _ x

theorem setHeld_crews (i t s : Nat) (x : Rood) : CrewsStay x (x.setHeld i t s) := modEntry_crews _ _ x

theorem dropKv_crews (i s s' : Nat) (x : Rood) : CrewsStay x (x.dropKv i s s') := by
  unfold Rood.dropKv
  split
  · exact .refl x
  · split
    · exact .refl x
    · exact .after (setHeld_crews _ _ _ _) ⟨rfl, rfl⟩

theorem endSeq_crews (now : W64) (q : Seq) (alloc status yield : Nat) (x : Rood) :
    CrewsStay x (x.endSeq now q alloc status yield) := by
  unfold Rood.endSeq
  extract_lets y z w v
  have kept : CrewsStay x y := by
    unfold y
    split
    · exact .refl x
    · exact dropKv_crews _ _ _ x
  have gone : CrewsStay y z := ⟨rfl, rfl⟩
  have left : CrewsStay x w := .after (modEntry_crews _ _ _) (kept.trans gone)
  have resident : CrewsStay x v := by
    unfold v
    split
    · split
      · exact left
      · exact left.trans (setState_crews _ _ _ _ _)
    · exact left
  split
  · exact resident.trans (.of_hostSide (complete_hostSide _ _ _ _))
  · exact resident.trans (.of_hostSide (fail_hostSide _ _ _ _))
  · exact resident

theorem takeKv_crews {q : Seq} {s : Nat} {x y : Rood} (h : x.takeKv q s = some y) : CrewsStay x y := by
  unfold Rood.takeKv at h
  split at h
  · cases h
  · dsimp only at h
    split at h
    · split at h
      · obtain rfl := Option.some.inj h
        exact .after (setSeq_crews _ _) (.after (setHeld_crews _ _ _ _) ⟨rfl, rfl⟩)
      · cases h
    · cases h

theorem takeParts_crews (parts : List Part) (x : Rood) : CrewsStay x (x.takeParts parts) := by
  refine .foldl (fun x pt => ?_) parts x
  split
  · next q _ =>
    cases h : x.takeKv q (pt.first + pt.count) with
    | none => exact .refl x
    | some y => exact takeKv_crews h
  · exact .refl x

theorem setWin_crews (t : Nat) (w : WindowStore) (x : Rood) : CrewsStay x (x.setWin t w) := ⟨rfl, rfl⟩

theorem openWindows_crews (work : Nat) (l : List (Nat × List Segment)) (x : Rood) : CrewsStay x (x.openWindows work l) :=
  .foldl (fun x _ => .after (setWin_crews _ _ _) (countSegments_crews _ _ x)) l x

/-! ## A checkpoint that falls due (R415) -/

theorem readObject_crews (ctx : Ctx) (id : Nat) (x : Rood) : CrewsStay x (x.readObject ctx id).1 := by
  unfold Rood.readObject
  split
  · exact .refl x
  · exact .after (count_crews _ _ _) (.after (.foldl (fun _ _ => ask_crews _ _) _ _) (.foldl (fun _ _ => ask_crews _ _) _ x))

theorem cutParked_crews (ctx : Ctx) (slot : Nat) (e : Entry) (c : Cutting) (x : Rood) : CrewsStay x (x.cutParked ctx slot e c).1 := by
  unfold Rood.cutParked
  extract_lets g order id key enter refs r
  split
  · exact .refl x
  · split
    · exact .refl x
    · split <;> exact readObject_crews _ _ x

theorem cutSession_crews (ctx : Ctx) (slot : Nat) (e : Entry) (c : Cutting) (x : Rood) :
    CrewsStay x (x.cutSession ctx slot e c).1 := by
  unfold Rood.cutSession
  split
  · exact .refl x
  · exact cutParked_crews _ _ _ _ x
  · exact .refl x

theorem cutImage_crews (ctx : Ctx) (ref : Option CkpRef) (x : Rood) : CrewsStay x (x.cutImage ctx ref).1 := by
  unfold Rood.cutImage
  extract_lets c r
  exact .foldl_part (β := Rood × List CkpSession × Cutting) (part := Prod.fst) (fun r _ => cutSession_crews _ _ _ _ r.1) _ (x, [], c)

theorem takeRoom_crews (use : FrameUse) (needs : List (Nat × Nat)) (x : Rood) : CrewsStay x (x.takeRoom use needs).2 := by
  unfold Rood.takeRoom
  refine .foldl_part (part := Prod.snd) (fun r q => ?_) needs ([], x)
  exact ⟨rfl, rfl⟩

theorem endTake_crews (now : W64) (run : CkpRun) (status : Nat) (x : Rood) : CrewsStay x (x.endTake now run status) := by
  unfold Rood.endTake
  extract_lets ok ref ckp y z
  have freed : CrewsStay x y := ⟨rfl, rfl⟩
  have counted : CrewsStay x z := by
    unfold z
    split
    · exact freed.trans (count_crews _ _ _)
    · exact freed
  split
  · exact counted.trans (.of_hostSide (complete_hostSide _ _ _ _))
  · exact counted

theorem failTake_crews (now : W64) (run : CkpRun) (x : Rood) : CrewsStay x (x.failTake now run) :=
  .after (endTake_crews _ _ _ _) ⟨rfl, rfl⟩

theorem sendChain_crews (peer typ dst op : Nat) (payload : List Byte) (x : Rood) :
    CrewsStay x (x.sendChain peer typ dst op payload) :=
  have counted : CrewsStay x _ := .after (count_crews 9 (max 1 (ceilDiv payload.length chainPayload)) _) (ask_crews _ x)
  counted.trans ⟨rfl, rfl⟩

theorem offerShard_crews (ctx : Ctx) (peer : Nat) (s : ShardHdr × List Byte) (x : Rood) :
    CrewsStay x (x.offerShard ctx peer s).1 := .after (sendChain_crews _ _ _ _ _ _) (ask_crews _ x)

theorem offerShards_crews (ctx : Ctx) (run : CkpRun) (x : Rood) : CrewsStay x (x.offerShards ctx run) := by
  unfold Rood.offerShards
  extract_lets ss r run'
  have offered : CrewsStay x r.1 :=
    .foldl_part (β := Rood × List ShardRun) (part := Prod.fst) (fun r _ => offerShard_crews _ _ _ r.1) _ (x, [])
  split
  · exact offered.trans ⟨rfl, rfl⟩
  · exact offered.trans (failTake_crews _ _ _)

theorem cutTake_crews (ctx : Ctx) (ctl : W64) (c : Cmd) (x : Rood) : CrewsStay x (x.cutTake ctx ctl c) := by
  unfold Rood.cutTake
  extract_lets y seq base r base' r' ref next run w ckp v
  have room : CrewsStay x y := takeRoom_crews _ _ x
  have cut : CrewsStay x r'.1 := by
    unfold r'
    split
    · exact room.trans (cutImage_crews _ _ _)
    · exact room.trans (cutImage_crews _ _ _)
  have counted : CrewsStay x w := cut.trans (.foldl (fun _ _ => countSlice_crews _ _ _ _) _ _)
  have begun : CrewsStay x v := counted.trans ⟨rfl, rfl⟩
  split
  · exact begun.trans (offerShards_crews _ _ _)
  · exact begun

theorem runTake_crews (ctx : Ctx) (ctl : W64) (c : Cmd) (x : Rood) : CrewsStay x (x.runTake ctx ctl c) := by
  unfold Rood.runTake
  split_ifs
  · exact .of_hostSide (fail_hostSide _ _ _ _)
  · exact .of_hostSide (fail_hostSide _ _ _ _)
  · exact cutTake_crews _ _ _ x

theorem fireTrigger_crews (ctx : Ctx) (t : Bool × W64) (x : Rood) : CrewsStay x (x.fireTrigger ctx t) := by
  unfold Rood.fireTrigger
  extract_lets c cuts ckp y st
  have begun : CrewsStay x y := ⟨rfl, rfl⟩
  split_ifs
  · exact .refl x
  · exact ⟨rfl, rfl⟩
  · exact begun.trans (.of_hostSide (fail_hostSide _ _ _ _))
  · exact begun.trans (runTake_crews _ _ _ _)

theorem stepTrigger_crews (ctx : Ctx) (x : Rood) : CrewsStay x (x.stepTrigger ctx) := by
  unfold Rood.stepTrigger
  extract_lets k
  split
  · exact fireTrigger_crews _ _ x
  · exact .refl x

/-! ## The batch (R277, R278) -/

theorem joinBatch_crews (now : W64) (q : Seq) (x : Rood) : CrewsStay x (x.joinBatch now q) :=
  .after (setState_crews _ _ _ _ _) (setSeq_crews _ x)

theorem fillBatch_crews (now : W64) (x : Rood) : CrewsStay x (x.fillBatch now) := by
  refine .foldl (fun x q => ?_) _ x
  split
  · exact joinBatch_crews _ _ x
  · exact .refl x

theorem requeue_crews (now : W64) (q : Seq) (x : Rood) : CrewsStay x (x.requeue now q) :=
  .after (countSlice_crews _ _ _ _) (.after (setState_crews _ _ _ _ _) (setSeq_crews _ x))

theorem preempt_crews (now : W64) (x : Rood) : CrewsStay x (x.preempt now) := by
  unfold Rood.preempt
  split
  · exact .refl x
  · refine .after (fillBatch_crews _ _) (.foldl_part (part := Prod.fst) (fun r w => ?_) _ (x, []))
    split
    · split
      · exact .refl r.1
      · exact requeue_crews _ _ r.1
    · exact .refl r.1

/-! ## Duties, placement and composition (R280 to R289) -/

theorem mem_insertTimed {a b : Quot' × Crew} {l : List (Quot' × Crew)} (h : a ∈ insertTimed b l) : a = b ∨ a ∈ l := by
  induction l with
  | nil => exact .inl (List.mem_singleton.mp h)
  | cons c l ih =>
    unfold insertTimed at h
    split at h
    · exact List.mem_cons.mp h
    · rcases List.mem_cons.mp h with rfl | later
      · exact .inr List.mem_cons_self
      · exact (ih later).imp_right (List.mem_cons_of_mem c)

theorem mem_sortTimed {a : Quot' × Crew} {l : List (Quot' × Crew)} (h : a ∈ l.foldr insertTimed []) : a ∈ l := by
  induction l with
  | nil => exact h
  | cons b l ih => exact (mem_insertTimed h).elim (fun same => same ▸ List.mem_cons_self) (fun k => List.mem_cons_of_mem b (ih k))

/-- The boundary of the crew was at this time. -/
abbrev EndedAt (now : W64) (m k : Nat) (x : Rood) : Prop := CrewHas (fun c => c.lastEnd = now) m k x.crews

section
variable {now : W64} {m k : Nat} {x : Rood} (h : EndedAt now m k x)
include h

theorem EndedAt.stay {y : Rood} (stay : CrewsStay x y) : EndedAt now m k y := by
  rw [EndedAt, stay.1]
  exact h

theorem EndedAt.oneDuty (n : Nat) : EndedAt now m k (x.oneDuty n) := by
  unfold Rood.oneDuty
  split
  · next j hj =>
    split
    · exact h.setCrew (h.2 j (List.mem_of_find?_eq_some hj))
    · exact h
  · exact h

theorem EndedAt.manyDuties (ctx : Ctx) (n c : Nat) (p : Params) (pl : Placement) : EndedAt now m k (x.manyDuties ctx n c p pl) := by
  unfold Rood.manyDuties
  extract_lets dq own idle busyP want parts sorted before y after
  have duties : EndedAt now m k y := by
    refine List.foldlRecOn _ _ h (fun z hz q hq => hz.setCrew ?_)
    obtain ⟨j, hj, timed⟩ := List.mem_map.mp (mem_sortTimed (List.fst_mem_of_mem_zipIdx hq))
    have member : q.1.2 ∈ x.crews := timed ▸ (List.mem_filter.mp (List.mem_filter.mp hj).1).1
    exact h.2 q.1.2 member
  split
  · refine duties.map (fun c => ?_) (fun c _ _ hc => ?_)
    · split <;> exact ⟨rfl, rfl⟩
    · split <;> exact hc
  · exact duties

theorem EndedAt.moveOne (n c : Nat) (cs : List Nat) : EndedAt now m k (x.moveOne n c cs) := by
  unfold Rood.moveOne
  split
  · split
    · split
      · exact h.stay (setSeq_crews _ x)
      · exact h
    · exact h
  · exact h

theorem EndedAt.placeSeqs (n c : Nat) : EndedAt now m k (x.placeSeqs n c) := by
  unfold Rood.placeSeqs
  extract_lets cs loose y
  have placed : EndedAt now m k y := by
    refine List.foldlRecOn _ _ h (fun z hz q _ => ?_)
    split
    · exact hz.stay (setSeq_crews _ z)
    · exact hz
  refine List.foldlRecOn _ _ placed (fun z hz j hj => ?_)
  have moved : EndedAt now m k ((List.range batchSize).foldl (fun x _ => x.moveOne n j.idx cs) z) :=
    List.foldlRecOn _ _ hz (fun w hw _ _ => hw.moveOne _ _ _)
  exact moved.setCrew (placed.2 j (List.mem_filter.mp hj).1)

theorem EndedAt.arrange (ctx : Ctx) : EndedAt now m k (x.arrange ctx) := by
  refine List.foldlRecOn _ _ h (fun z hz q _ => ?_)
  split
  · extract_lets c
    split
    · exact (hz.oneDuty _).placeSeqs _ _
    · exact (hz.manyDuties _ _ _ _ _).placeSeqs _ _
  · exact hz

theorem EndedAt.startStep {j : Crew} (hj : j.model = m → j.idx = k → j.lastEnd = now) (ctx : Ctx) (n : Nat) (im : Image) (p : Params)
    (pl : Placement) (parts : List Part) (avail : Int) : EndedAt now m k (x.startStep ctx n im j p pl parts avail) := by
  unfold Rood.startStep
  extract_lets pr s y
  have taken : EndedAt now m k y := (h.stay (.after (openWindows_crews _ _ _) (takeParts_crews _ x))).setCrew hj
  exact taken.stay (.after (countSlice_crews _ _ _ _) (ask_crews _ _))

theorem EndedAt.composeCrew {j : Crew} (hj : j.model = m → j.idx = k → j.lastEnd = now) (ctx : Ctx) (n : Nat) (im : Image)
    (p : Params) (pl : Placement) : EndedAt now m k (x.composeCrew ctx n im j p pl) := by
  unfold Rood.composeCrew
  extract_lets picks r parts y pr avail kept
  have ended : EndedAt now m k y := h.stay (.foldl (fun _ _ => endSeq_crews _ _ _ _ _ _) _ _)
  split
  · exact ended
  · exact (ended.startStep hj _ _ _ _ _ _ _).stay (countSlice_crews _ _ _ _)

/-- Whatever is composed, the boundary that a crew has had stays. -/
theorem EndedAt.compose (ctx : Ctx) : EndedAt now m k (x.compose ctx) := by
  unfold Rood.compose
  split
  · exact h
  · extract_lets y
    have arranged : EndedAt now m k y := by
      refine EndedAt.arrange ?_ ctx
      split
      · exact h.stay (.after (preempt_crews _ _) (fillBatch_crews _ x))
      · exact h
    refine List.foldlRecOn _ _ arranged (fun z hz c _ => ?_)
    split
    · next hj =>
      split
      · exact hz.composeCrew (hz.2 _ (List.mem_of_find?_eq_some hj)) _ _ _ _ _
      · exact hz
    · exact hz

theorem EndedAt.settle (ctx : Ctx) : EndedAt now m k (x.settle ctx) :=
  (h.compose ctx).stay (.of_hostSide (pump_hostSide _ _))
end

end Sys2Proof.Machine
end

section
/-! PROOF. The rood at the end of a step: its parts, what its crew learns, its crew at its boundary and the step counted (R290, R415,
R444, R446, R545). -/
namespace Sys2Proof.Machine
open Sys2Proof

/-! ## The rood at the end of a step (R290, R415) -/

section
variable {o : Rood} {parts : List Part} {paid : Nat → Nat} {x y : Rood}

/-- The crews have no part in the work on the sequences. -/
theorem ChargedWork.withCrews (h : ChargedWork o parts paid x y) (l : List Crew) :
    ChargedWork o parts paid { x with crews := l } { y with crews := l } := by
  intro known
  obtain ⟨only, known, slots, cmds, grains⟩ := h known
  refine ⟨?_, known, slots, cmds, grains⟩
  unfold StepOnly at *
  rw [only]

/-- The checkpoints have none either. -/
theorem ChargedWork.withCkp (h : ChargedWork o parts paid x y) (f : Ckp → Ckp) :
    ChargedWork o parts paid { x with ckp := f x.ckp } { y with ckp := f y.ckp } := by
  intro known
  obtain ⟨only, known, slots, cmds, grains⟩ := h known
  refine ⟨?_, known, slots, cmds, grains⟩
  unfold StepOnly at *
  rw [only]
end

/-- Parts of a step that run one after another. -/
theorem foldl_stepPart_charges {o : Rood} {parts : List Part} (now : W64) (im : Image) (p : Params) (pl : Placement) (s : Step)
    (e : StepEnv) (l : List Part) (own : ∀ pt ∈ l, pt ∈ parts) (x : Rood) :
    ∃ paid, ChargedWork o parts paid x (l.foldl (fun x pt => x.stepPart now im p pl s e pt) x) := by
  induction l generalizing x with
  | nil => exact ⟨_, StepWork.refl x⟩
  | cons pt l ih =>
    obtain ⟨_, first⟩ := stepPart_charges (o := o) (own pt List.mem_cons_self) now im p pl s e x
    obtain ⟨_, rest⟩ := ih (fun qt h => own qt (List.mem_cons_of_mem pt h)) (x.stepPart now im p pl s e pt)
    exact ⟨_, first.trans rest⟩

/-- The parts of a step, where one part alone is charged as a step of one sequence (R446). -/
theorem stepParts_charge {o : Rood} (now : W64) (im : Image) (p : Params) (pl : Placement) (s : Step) (e : StepEnv) (x : Rood) :
    ∃ paid, ChargedWork o s.parts paid x (s.parts.foldl (fun x pt => x.stepPart now im p pl s e pt) x) ∧
      ∀ pt, s.parts = [pt] → ∃ units, paid pt.slot = stepCharge pl pt.samples 1 pt units := by
  by_cases alone : ∃ pt, s.parts = [pt]
  · obtain ⟨pt, hpt⟩ := alone
    obtain ⟨units, charged⟩ := stepPart_charges (o := o) (List.mem_singleton_self pt) now im p pl s e x
    rw [hpt] at charged ⊢
    refine ⟨_, charged, fun qt same => ?_⟩
    obtain rfl : pt = qt := List.head_eq_of_cons_eq same
    exact ⟨units, by simp⟩
  · obtain ⟨paid, charged⟩ := foldl_stepPart_charges (o := o) now im p pl s e s.parts (fun _ h => h) x
    exact ⟨paid, charged, fun pt same => absurd ⟨pt, same⟩ alone⟩

theorem closeWindows_crews (l : List (Nat × List Segment)) (x : Rood) : CrewsStay x (x.closeWindows l) :=
  .foldl (fun x _ => .after (setWin_crews _ _ _) (countSegments_crews _ _ x)) l x

theorem learn_crews (c : Crew) (s : Step) (p : Params) (pl : Placement) (e : StepEnv) (x : Rood) :
    x.learn c s p pl e = { x with crews := (x.learn c s p pl e).crews } := by
  unfold Rood.learn
  split <;> rfl

theorem learn_has {m k : Nat} {x : Rood} (h : CrewHas (fun _ => True) m k x.crews) (c : Crew) (s : Step) (p : Params)
    (pl : Placement) (e : StepEnv) : CrewHas (fun _ => True) m k (x.learn c s p pl e).crews := by
  unfold Rood.learn
  split
  · exact h
  · exact h.setCrew (fun _ _ => trivial)

/-- The rood once the parts of a step have run and been measured, before its crew stands at its boundary. -/
def Rood.stepRan (now : W64) (m k : Nat) (c : Crew) (s : Step) (im : Image) (p : Params) (pl : Placement) (e : StepEnv) (x : Rood) :
    Rood :=
  let before := x.histories
  let y := x.closeWindows (x.crewSegments m im p pl k s.parts)
  let z := s.parts.foldl (fun x pt => x.stepPart now im p pl s e pt) ((y.learn c s p pl e).countStep s (y.crewSgs pl.width k))
  s.parts.foldl (fun x pt => x.latency now s before pt) z

/-- A boundary event that waits for the end of a reset (R545). -/
def Rood.holdsBack (ctx : Ctx) (x : Rood) (pt : Part) : Bool := x.posDown ctx 0 && !(x.seq? pt.cmd).any (fun q => q.touched)

/-- What a crew holds of a step whose boundary events wait. -/
def Rood.heldStep (ctx : Ctx) (s : Step) (x : Rood) : Option Step :=
  let waits := s.parts.filter (x.holdsBack ctx)
  if waits.isEmpty then none else some { s with parts := waits, ending := none }

def Ckp.stepped (c : Ckp) : Ckp := { c with steps := c.steps + 1 }

theorem endStep_eq {m k : Nat} {x : Rood} {c : Crew} {s : Step} {im : Image} {p : Params} {pl : Placement}
    (hc : x.crew? m k = some c) (hs : c.step = some s) (hp : x.placed m = some (im, p, pl)) (ctx : Ctx) (e : StepEnv) :
    x.endStep ctx m k e =
      let y := x.stepRan ctx.time m k c s im p pl e
      let z := y.freeCrew ctx.time m k (y.heldStep ctx s)
      ({ z with ckp := z.ckp.stepped }).boundaries ctx.time { s with parts := s.parts.filter (fun pt => !y.holdsBack ctx pt) } := by
  unfold Rood.endStep
  rw [hc, hp]
  dsimp -zeta only
  rw [hs]
  rfl

/-- The parts of a step leave the rood as work on its sequences does, but for what the crew learns. -/
theorem stepRan_charges {m k : Nat} {x : Rood} (h : CrewHas (fun _ => True) m k x.crews) {o : Rood} (now : W64) (c : Crew) (s : Step)
    (im : Image) (p : Params) (pl : Placement) (e : StepEnv) :
    ∃ l paid, ChargedWork o s.parts paid { x with crews := l } (x.stepRan now m k c s im p pl e) ∧
      CrewHas (fun _ => True) m k l ∧ ∀ pt, s.parts = [pt] → ∃ units, paid pt.slot = stepCharge pl pt.samples 1 pt units := by
  unfold Rood.stepRan
  extract_lets before y z
  have closed : StepWork o s.parts x y := closeWindows_work _ x
  have learnt : StepWork o s.parts { x with crews := (y.learn c s p pl e).crews } (y.learn c s p pl e) := by
    rw [learn_crews]
    exact closed.withCrews _
  obtain ⟨paid, charged, alone⟩ := stepParts_charge (o := o) now im p pl s e
    ((y.learn c s p pl e).countStep s (y.crewSgs pl.width k))
  have measured : StepWork o s.parts z (s.parts.foldl (fun x pt => x.latency now s before pt) z) :=
    .foldl (fun _ pt hpt => latency_work hpt _ _ _ _) z
  have has : CrewHas (fun _ => True) m k y.crews := by
    rw [(closeWindows_crews _ x).1]
    exact h
  exact ⟨_, paid, ((learnt.trans (countStep_work _ _ _)).thenCharged charged).thenWork measured, learn_has has _ _ _ _ _, alone⟩

/-- A step that ends leaves the rood as work on its sequences does, with its crew at its boundary and the step counted. -/
theorem endStep_leaves {m k : Nat} {x : Rood} {c : Crew} {s : Step} {im : Image} {p : Params} {pl : Placement}
    (hc : x.crew? m k = some c) (hs : c.step = some s) (hp : x.placed m = some (im, p, pl)) (ctx : Ctx) (e : StepEnv) :
    ∃ l paid, StepLeaves x s.parts paid { x with crews := l, ckp := x.ckp.stepped } (x.endStep ctx m k e) ∧
      CrewHas (fun c => c.lastEnd = ctx.time ∧ c.step = none ∧ (x.posDown ctx 0 = false → c.held = none)) m k l ∧
      ∀ pt, s.parts = [pt] → ∃ units, paid pt.slot = stepCharge pl pt.samples 1 pt units := by
  have own : ∀ q ∈ x.seqs, Known x q := fun q hq => ⟨q, hq, rfl, rfl, rfl⟩
  obtain ⟨l, paid, ran, has, alone⟩ := stepRan_charges (o := x) (has_of_crew? hc) ctx.time c s im p pl e
  rw [endStep_eq hc hs hp]
  extract_lets y z
  have only : StepOnly { x with crews := l } y := (ran own).only
  have freed : CrewHas (fun c => c.lastEnd = ctx.time ∧ c.step = none ∧ c.held = y.heldStep ctx s) m k z.crews := by
    refine CrewHas.freeCrew (P := fun _ => True) ?_ _ _
    rw [only]
    exact has
  have stands : ChargedWork x s.parts paid { x with crews := z.crews, ckp := x.ckp.stepped } { z with ckp := z.ckp.stepped } :=
    (ran.withCrews z.crews).withCkp Ckp.stepped
  have ended := stands.thenWork (.foldl (f := fun x pt => x.boundary ctx.time pt.cmd)
    (l := s.parts.filter (fun pt => !y.holdsBack ctx pt)) (fun _ _ h => boundary_work (List.mem_filter.mp h).1 _ _) _)
  refine ⟨z.crews, paid, ended own, ⟨freed.1, fun d hd model idx => ?_⟩, alone⟩
  obtain ⟨lastEnd, step, held⟩ := freed.2 d hd model idx
  refine ⟨lastEnd, step, fun up => held.trans ?_⟩
  have first : y.firstSg = x.firstSg := by rw [only]
  have none_waits : ∀ pt ∈ s.parts, y.holdsBack ctx pt = false := by
    intro pt _
    rw [Rood.posDown] at up
    rw [Rood.holdsBack, Rood.posDown, first, up, Bool.false_and]
  simp [Rood.heldStep, List.filter_eq_nil_iff.mpr (fun pt h => Bool.eq_false_iff.mp (none_waits pt h))]

end Sys2Proof.Machine
end

section
/-! PROOF. The device around a step that ends: the step that is marked, the stand-ins that change at the boundary and the next
composition (R290, R415, R463, R545), and with them obligation O46. -/
namespace Sys2Proof.Machine
open Sys2Proof

/-! ## A rood whose idle crews compose nothing (R239, R542) -/

theorem compose_waits {x : Rood} (h : x.powered = false ∨ x.changeWaits = true) (ctx : Ctx) : x.compose ctx = x := by
  rcases h with held | change
  · exact compose_held held ctx
  · have waits : x.mayStep ctx = false := by simp [Rood.mayStep, change]
    simp [Rood.compose, waits]

theorem settle_waits {x : Rood} (h : x.powered = false ∨ x.changeWaits = true) (posted : NonePosted x) (ctx : Ctx) :
    x.settle ctx = x := by
  rw [Rood.settle, compose_waits h, pump_nonePosted posted]

/-- What keeps steps from being composed outlasts the work on the sequences of a step. -/
theorem StepLeaves.waits {o : Rood} {parts : List Part} {paid : Nat → Nat} {x y : Rood} (h : StepLeaves o parts paid x y)
    (power : x.powered = o.powered) (cmds : x.cmds = o.cmds) (waits : StepsWait o) : y.powered = false ∨ y.changeWaits = true := by
  rcases waits with held | ⟨c, hc, ready, spared⟩
  · exact .inl ((by rw [h.only] : y.powered = x.powered).trans (power.trans held))
  · obtain ⟨d, hd, -, stage⟩ := h.cmds c (cmds ▸ hc) spared
    exact .inr (List.any_eq_true.mpr ⟨d, hd, by rw [stage, ready]; rfl⟩)

/-! ## What no mark, trigger or error changes -/

theorem emptyMarked_none {x : Rood} (h : x.obj.emptying = []) (now : W64) : x.emptyMarked now = x := by
  simp [Rood.emptyMarked, h]

theorem stepTrigger_off {x : Rood} (h : bitsOf x.regs.ckpCtl.toNat 7 1 = 0) (ctx : Ctx) : x.stepTrigger ctx = x := by
  simp [Rood.stepTrigger, Rood.ckpField, h]

theorem clearWins_nil (x : Rood) : x.clearWins [] = x := by simp [Rood.clearWins]

theorem clearWins_rood? (ts : List Nat) (d : Dev) (r : Nat) : (d.clearWins ts).rood? r = (d.rood? r).map (Rood.clearWins ts) := by
  simp only [Dev.rood?, Dev.clearWins, List.find?_map]
  rfl

theorem giveBack_rood? (d : Dev) (r : Nat) : ∃ ts, d.giveBack.rood? r = (d.rood? r).map (Rood.clearWins ts) :=
  ⟨_, clearWins_rood? _ _ r⟩

theorem takeRole_rood? (t : Nat) (d : Dev) (r : Nat) : ∃ ts, (d.takeRole t).rood? r = (d.rood? r).map (Rood.clearWins ts) := by
  have same : d.rood? r = (d.rood? r).map (Rood.clearWins []) := by
    rw [show Rood.clearWins [] = id from funext clearWins_nil, Option.map_id, id]
  unfold Dev.takeRole
  split
  · split
    · exact ⟨_, clearWins_rood? _ _ r⟩
    · exact ⟨[], same⟩
  · exact ⟨[], same⟩

/-! ## The device while one rood works -/

theorem atRood_roodsLive (d : Dev) (r : Nat) (f : Ctx → Rood → Rood) (t : W64) : (d.atRood r f t).roodsLive = d.roodsLive := by
  have bound := atRood_bound d r f t
  rw [Dev.roodsLive, Dev.roodsLive, bound.phase, bound.comp]

theorem atRood_place (d : Dev) (r q : Nat) (f : Ctx → Rood → Rood) (t : W64) :
    ((d.atRood r f t).rood? q).map Rood.place = (d.rood? q).map Rood.place := by
  by_cases hq : q = r
  · subst hq
    cases h : d.rood? q with
    | none => rw [atRood_missing h, h]
    | some x => rw [rood_after h]; rfl
  · rw [other_roods_stay d r q f t hq]

/-- The work of a rood takes no stack group out of reset, and puts none under it. -/
theorem atRood_sgDown (d : Dev) (r g : Nat) (f : Ctx → Rood → Rood) (t : W64) : (d.atRood r f t).sgDown g = d.sgDown g := by
  have bound := atRood_bound d r f t
  have places := fun q => atRood_place d r q f t
  unfold Dev.sgDown
  rw [bound.integ]
  congr 1
  funext l
  cases l with
  | rood q =>
    have place := places q
    dsimp only
    cases hd : d.rood? q <;> cases he : (d.atRood r f t).rood? q <;> simp_all [Rood.place]
  | _ => rfl

/-! ## STEP_END -/

/-- The device with the step marked that is ending. -/
def Dev.stepMarked (r m k : Nat) (e : StepEnv) (now : W64) (d : Dev) : Dev := d.atRood r (fun _ x => x.markEnding m k e) now

/-- The device with the crew of the step at its boundary. -/
def Dev.stepStood (r m k : Nat) (e : StepEnv) (now : W64) (d : Dev) : Dev :=
  (d.stepMarked r m k e now).atRood r (fun ctx x => ((x.endStep ctx m k e).stepTrigger ctx).emptyMarked ctx.time) now

/-- The device once its stand-ins have changed at the boundary. -/
def Dev.rolesChanged (e : StepEnv) (d : Dev) : Dev := e.assay.foldl (fun d t => d.takeRole t) d.giveBack

/-- The device once a step has ended in which nothing has failed. -/
def Dev.stepEnded (r m k : Nat) (e : StepEnv) (now : W64) (d : Dev) : Dev :=
  ((d.stepStood r m k e now).rolesChanged e).atRood r (fun ctx x => x.settle ctx) now

/-- A step in which nothing fails. -/
structure CleanStep (s : State) (r m k : Nat) (e : StepEnv) (x : Rood) (c : Crew) (st : Step) (im : Image) (p : Params)
    (pl : Placement) : Prop where
  works : Works s r x
  hits : e.hits = []
  walks : x.walkHits m k = []
  crew : x.crew? m k = some c
  step : c.step = some st
  placed : x.placed m = some (im, p, pl)
  unmarked : x.obj.emptying = []

section
variable {s : State} {r m k : Nat} {e : StepEnv} {x : Rood} {c : Crew} {st : Step} {im : Image} {p : Params} {pl : Placement}

theorem exec_stepEnd (h : CleanStep s r m k e x c st im p pl) :
    exec (.stepEnd r m k e) s = .next (onDev (fun t d => d.stepEnded r m k e t) s) := by
  obtain ⟨⟨live, hx⟩, hits, walks, -⟩ := h
  have none_hits : s.dev.stepHits r m k e = [] := by simp [Dev.stepHits, hits, hx, walks]
  show execStepEnd r m k e s = _
  unfold execStepEnd onDev
  beta_reduce
  rw [if_pos live, none_hits]
  dsimp -zeta only [Dev.events, List.foldl_nil]
  extract_lets d
  rw [if_pos ((atRood_roodsLive _ _ _ _).trans live)]
  rfl

/-- The rood while the end of the step is worked out. -/
def Rood.ending (m k : Nat) (e : StepEnv) (x : Rood) : Rood := x.settled (x.markEnding m k e)

theorem ending_crew? (crew : x.crew? m k = some c) (step : c.step = some st) :
    ∃ d, (x.ending m k e).crew? m k = some d ∧ d.step = some { st with ending := some e } := by
  have own : (c.model == m && c.idx == k) = true := List.find?_some (p := fun c : Crew => c.model == m && c.idx == k) crew
  refine ⟨{ c with step := some { st with ending := some e } }, ?_, rfl⟩
  show (x.crews.map _).find? _ = _
  rw [List.find?_map, (funext fun d => ?_ : _ ∘ _ = fun d : Crew => d.model == m && d.idx == k)]
  · rw [show x.crews.find? _ = some c from crew, Option.map_some, if_pos own, step]
    rfl
  · dsimp only [Function.comp]
    split <;> rfl

/-- The end of the step in the rood, as it is worked out beside the rest of the device. -/
theorem CleanStep.stood (h : CleanStep s r m k e x c st im p pl) :
    ∃ l paid z, (s.dev.stepStood r m k e s.clock.time).rood? r = some ((x.ending m k e).settled
        ((z.stepTrigger ⟨s.clock.time, s.dev.stepMarked r m k e s.clock.time⟩).emptyMarked s.clock.time)) ∧
      StepLeaves (x.ending m k e) st.parts paid { x.ending m k e with crews := l, ckp := x.ckp.stepped } z ∧
      CrewHas (fun c => c.lastEnd = s.clock.time ∧ c.step = none ∧ (s.dev.sgDown x.firstSg = false → c.held = none)) m k l ∧
      ∀ pt, st.parts = [pt] → ∃ units, paid pt.slot = stepCharge pl pt.samples 1 pt units := by
  obtain ⟨d, crew, step⟩ := ending_crew? (e := e) h.crew h.step
  have marked : (s.dev.stepMarked r m k e s.clock.time).rood? r = some (x.ending m k e) := rood_after h.works.2 _ _
  obtain ⟨l, paid, leaves, has, alone⟩ := endStep_leaves crew step (show (x.ending m k e).placed m = some (im, p, pl) from h.placed)
    ⟨s.clock.time, s.dev.stepMarked r m k e s.clock.time⟩ e
  refine ⟨l, paid, _, rood_after marked _ _, leaves, ?_, alone⟩
  rw [Rood.posDown, Dev.stepMarked, atRood_sgDown] at has
  exact has

/-- Whatever is composed next, the crew has had its boundary now. -/
theorem CleanStep.crewEnded (h : CleanStep s r m k e x c st im p pl) :
    ∃ y, (s.dev.stepEnded r m k e s.clock.time).rood? r = some y ∧ EndedAt s.clock.time m k y := by
  obtain ⟨l, paid, z, stood, leaves, has, -⟩ := h.stood
  have ended : EndedAt s.clock.time m k z := by
    rw [EndedAt, leaves.only]
    exact ⟨has.1, fun d hd model idx => (has.2 d hd model idx).1⟩
  obtain ⟨crews, obj⟩ := stepTrigger_crews ⟨s.clock.time, s.dev.stepMarked r m k e s.clock.time⟩ z
  have unmarked : (z.stepTrigger ⟨s.clock.time, s.dev.stepMarked r m k e s.clock.time⟩).obj.emptying = [] := by
    rw [obj, leaves.only]
    exact h.unmarked
  rw [emptyMarked_none unmarked] at stood
  have roles : ∃ y, ((s.dev.stepStood r m k e s.clock.time).rolesChanged e).rood? r = some y ∧ EndedAt s.clock.time m k y := by
    refine List.foldlRecOn (motive := fun d : Dev => ∃ y, d.rood? r = some y ∧ EndedAt s.clock.time m k y) _ _ ?_ ?_
    · obtain ⟨ts, back⟩ := giveBack_rood? (s.dev.stepStood r m k e s.clock.time) r
      rw [stood] at back
      exact ⟨_, back, ended.stay ⟨crews, obj⟩⟩
    · rintro d ⟨y, hy, hend⟩ t -
      obtain ⟨ts, taken⟩ := takeRole_rood? t d r
      rw [hy] at taken
      exact ⟨_, taken, hend⟩
  obtain ⟨y, hy, hend⟩ := roles
  exact ⟨_, rood_after hy _ _, hend.settle _⟩

/-- The rood that stands, where nothing is composed next. -/
def Rood.stood (ts : List Nat) (x z : Rood) : Rood := (x.settled z).clearWins ts

/-- Where no next step is composed and no trigger falls due, what the end of the step leaves of the rood stands. -/
theorem CleanStep.stands (h : CleanStep s r m k e x c st im p pl) (waits : StepsWait x) (posted : NonePosted x)
    (assay : e.assay = []) (off : bitsOf x.regs.ckpCtl.toNat 7 1 = 0) :
    ∃ l paid ts z, (s.dev.stepEnded r m k e s.clock.time).rood? r = some (x.settled (x.stood ts z)) ∧
      StepLeaves (x.ending m k e) st.parts paid { x.ending m k e with crews := l, ckp := x.ckp.stepped } z ∧
      CrewHas (fun c => c.lastEnd = s.clock.time ∧ c.step = none ∧ (s.dev.sgDown x.firstSg = false → c.held = none)) m k l ∧
      ∀ pt, st.parts = [pt] → ∃ units, paid pt.slot = stepCharge pl pt.samples 1 pt units := by
  obtain ⟨l, paid, z, stood, leaves, has, alone⟩ := h.stood
  have noTrigger : bitsOf z.regs.ckpCtl.toNat 7 1 = 0 := by
    rw [leaves.only]
    exact off
  have unmarked : z.obj.emptying = [] := by
    rw [leaves.only]
    exact h.unmarked
  rw [stepTrigger_off noTrigger, emptyMarked_none unmarked] at stood
  obtain ⟨ts, back⟩ := giveBack_rood? (s.dev.stepStood r m k e s.clock.time) r
  rw [stood] at back
  have roles : ((s.dev.stepStood r m k e s.clock.time).rolesChanged e).rood? r = some (x.stood ts z) := by
    rw [Dev.rolesChanged, assay]
    exact back
  have idle : (x.stood ts z).powered = false ∨ (x.stood ts z).changeWaits = true := leaves.waits rfl rfl waits
  have quiet : NonePosted (x.stood ts z) := by
    have irings : z.irings = x.irings := by rw [leaves.only]; rfl
    exact posted.of_irings irings
  have after := rood_after roles (fun ctx x => x.settle ctx) s.clock.time
  rw [settle_waits idle quiet] at after
  exact ⟨l, paid, ts, z, after, leaves, has, alone⟩
end

/-- Settles O46: the crew keeps the time of its boundary whatever is composed next, and where nothing is, the rood stands as the work
on the sequences of the step has left it. -/
theorem stepsEndAtTheirBoundary : Obligations.StepsEndAtTheirBoundary := by
  unfold Obligations.StepsEndAtTheirBoundary
  intro r model crew e s x k st im p pl works hits walks found step placed unmarked
  have clean : CleanStep s r model crew e x k st im p pl := ⟨works, hits, walks, found, step, placed, unmarked⟩
  refine ⟨?ends, fun waits posted assay up off own => ?stands⟩
  case ends =>
    obtain ⟨y, hy, ended⟩ := clean.crewEnded
    obtain ⟨k', crew', lastEnd⟩ := crew?_of_has ended
    refine ⟨_, y, k', exec_stepEnd clean, ?_, crew', lastEnd, rfl, rfl⟩
    rw [onDev_dev, signal_rood?]
    exact hy
  case stands =>
    obtain ⟨l, paid, ts, z, stands, leaves, has, alone⟩ := clean.stands waits posted assay off
    have only := leaves.only
    have crews : z.crews = l := by rw [only]
    have apart : ∀ i, (∀ pt ∈ st.parts, pt.slot ≠ i) → ¬ Reached (x.ending model crew e) st.parts i := by
      rintro i other ⟨pt, hpt, slot | ⟨q, hq, cmd, slot⟩⟩
      · exact other pt hpt slot
      · exact other pt hpt ((own pt hpt q hq cmd).symm.trans slot)
    refine ⟨_, x.stood ts z, exec_stepEnd clean, ?becomes, rfl, rfl, ?crew, ?ckp, fun i other => leaves.slots i (apart i other),
      ?obj, ?vecs, ?flash, ?staging, ?moves, ?arrivals, fun pt a one entry => ?charge⟩
    case becomes =>
      rw [Becomes, onDev_dev, signal_rood?]
      exact stands
    case crew =>
      obtain ⟨k', crew', lastEnd, step, held⟩ := crew?_of_has (x := x.stood ts z) (crews.symm ▸ has)
      exact ⟨k', crew', step, held up, lastEnd⟩
    case ckp => exact (by rw [only] : z.ckp = x.ckp.stepped)
    case obj => exact (by rw [only]; rfl : z.obj = x.obj)
    case vecs => exact (by rw [only]; rfl : z.vecs = x.vecs)
    case flash => exact (by rw [only]; rfl : z.flash = x.flash)
    case staging => exact (by rw [only]; rfl : z.staging = x.staging)
    case moves => exact (by rw [only]; rfl : z.moves = x.moves)
    case arrivals => exact (by rw [only]; rfl : z.arrivals = x.arrivals)
    case charge =>
      obtain ⟨units, charged⟩ := alone pt one
      obtain ⟨b, hb, grains⟩ := leaves.grains pt.slot a entry
      exact ⟨b, units, hb, charged ▸ grains⟩

end Sys2Proof.Machine
end

section
/-! PROOF. The judgement of a vector command (R337, R338, R363, R364, Tables 12.1 and 12.8): it fails its first checks, waits for its
turn, or has it at once; and with it obligation O38. -/
namespace Sys2Proof.Machine
open Sys2Proof

/-! ## A vector command that completes (R462) -/

theorem endVec_eq (now : W64) (d : Cmd) (k : CRec) (y : Rood) :
    y.endVec now d k = (y.vecGone d).complete now d { k with flagged := k.flagged || y.flagsVec d } := rfl

theorem flagsVec_serial {d : Cmd} (op : d.opcode ≠ 0x23) (y : Rood) : y.flagsVec d = false := by
  simp [Rood.flagsVec, op]

/-- FLAGGED of a record says nothing of its RESULT (R150). -/
theorem tidy_flagged {k : CRec} (tidy : k.tidy = k) (b : Bool) :
    ({ k with flagged := b } : CRec).tidy = { k with flagged := b } := by
  have parts : ({ k with flagged := b } : CRec).tidy = { k.tidy with flagged := b } := by
    unfold CRec.tidy
    dsimp only
    split <;> rfl
  rw [parts, tidy]

section
variable {t : State} {r : Nat} {x y z : Rood} {d : Cmd} {q : CRing} {now : W64} {f : List Fx}

/-- A rood that completes a vector command, whatever it asks for besides, ends the command. -/
theorem ends_of_endVec {k : CRec} (h : Becomes t r x ((y.endVec now d k).pump now)) (gone : y.vecGone d = z.asking f)
    (report : CanReport z d q) (full : k.result.length = 4) (tidy : k.tidy = k) :
    Ends t r x z d q { k with flagged := k.flagged || y.flagsVec d } := by
  rw [endVec_eq, gone] at h
  have ends := ends_of_completed h report full
  rwa [tidy_flagged tidy] at ends

/-- The same for a command that is no query of a damaged index. -/
theorem ends_of_endVec_plain {k : CRec} (h : Becomes t r x ((y.endVec now d k).pump now)) (gone : y.vecGone d = z.asking f)
    (report : CanReport z d q) (full : k.result.length = 4) (tidy : k.tidy = k) (plain : y.flagsVec d = false) :
    Ends t r x z d q k := by
  have ends := ends_of_endVec h gone report full tidy
  rw [plain, Bool.or_false] at ends
  exact ends

theorem ends_of_failVec {st : Nat} (h : Becomes t r x ((y.failVec now d st).pump now)) (gone : y.vecGone d = z.asking f)
    (report : CanReport z d q) : Ends t r x z d q { d.record st with flagged := d.flagged || y.flagsVec d } :=
  ends_of_endVec h gone report rfl (tidy_record d st)

theorem ends_of_failVec_plain {st : Nat} (h : Becomes t r x ((y.failVec now d st).pump now)) (gone : y.vecGone d = z.asking f)
    (report : CanReport z d q) (plain : y.flagsVec d = false) : Ends t r x z d q (d.record st) :=
  ends_of_endVec_plain h gone report rfl (tidy_record d st) plain

end

/-! ## The judgement (R337, R338, R363, R426) -/

/-- The rood once a vector command waits for its turn. -/
def Rood.vecQueued (d : Cmd) (x : Rood) : Rood := { x with vecQueue := x.vecQueue ++ [d.id] }

section
variable {x : Rood} {d : Cmd} {ok : Bool} {ctx : Ctx}

theorem judgeVec_failsFirst (bad : x.vecCheck ctx d ok ≠ 0) :
    x.judgeVec ctx d ok = (x.failVec ctx.time d (x.vecCheck ctx d ok)).pump ctx.time := by
  simp only [Rood.judgeVec, bad, if_true, ne_eq, not_false_eq_true]

theorem judgeVec_waits (passes : x.vecCheck ctx d ok = 0) (waits : x.vecWaits d = true) :
    x.judgeVec ctx d ok = ((x.vecQueued d).setCmd { x.latchItems d with stage := .waiting }).pump ctx.time := by
  simp only [Rood.judgeVec, passes, waits, if_true, if_false, ne_eq, not_true_eq_false]
  rfl

theorem judgeVec_serial (passes : x.vecCheck ctx d ok = 0) (turn : x.vecWaits d = false) (serial : d.isSerial = true) :
    x.judgeVec ctx d ok = (x.runSerial ctx d).pump ctx.time := by
  simp only [Rood.judgeVec, passes, turn, serial, if_true, if_false, ne_eq, not_true_eq_false, Bool.false_eq_true]

theorem judgeVec_query (passes : x.vecCheck ctx d ok = 0) (turn : x.vecWaits d = false) (op : d.opcode = 0x23) :
    x.judgeVec ctx d ok = (x.runQuery ctx d).pump ctx.time := by
  have parallel : d.isSerial = false := by simp [Cmd.isSerial, op]
  simp only [Rood.judgeVec, passes, turn, parallel, if_false, ne_eq, not_true_eq_false, Bool.false_eq_true]

end

/-- What a waiting batch latches as it is accepted is not its number (log entry 78). -/
theorem latchItems_id (d : Cmd) (x : Rood) : (x.latchItems d).id = d.id := by
  unfold Rood.latchItems
  split
  · rfl
  · dsimp only
    split <;> rfl

/-- A command takes the place of the one that has its number. -/
theorem setCmd_numbered {d e : Cmd} (same : e.id = d.id) (y : Rood) :
    y.setCmd e = { y with cmds := y.cmds.map (fun k => if k.id == d.id then e else k) } := by
  rw [Rood.setCmd, same]

/-! ## The rows -/

/-- Each row of a vector command judges its own opcode. -/
theorem exec_vecRow {op : Nat} (lo : 0x20 ≤ op) (hi : op ≤ 0x25) (r c : Nat) (ok : Bool) (s : State) :
    exec (vecRow op r c ok) s =
      .next (onRood r (fun ctx x => x.onCmd c [op] (fun d x => x.judgeVec ctx d (vecBuf op ok))) s) := by
  obtain rfl | rfl | rfl | rfl | rfl | rfl :
    op = 0x20 ∨ op = 0x21 ∨ op = 0x22 ∨ op = 0x23 ∨ op = 0x24 ∨ op = 0x25 := by omega
  · rfl
  · rfl
  · rfl
  · rfl
  · rfl
  · rfl

section
variable {op r c : Nat} {ok : Bool} {s : State} {x : Rood} {d : Cmd}

theorem vecRow_judges (lo : 0x20 ≤ op) (hi : op ≤ 0x25) (hw : Works s r x) (accepted : Accepted x c op d) :
    ∃ t, exec (vecRow op r c ok) s = .next t ∧ Becomes t r x (x.judgeVec (ctxOf s) d (vecBuf op ok)) := by
  obtain ⟨cmd, opcode, stage⟩ := accepted
  exact ⟨_, exec_vecRow lo hi r c ok s, onRood_becomes_of hw (onCmd_runs cmd (by simp [opcode]) stage _)⟩

/-- A serial command in its turn takes effect. -/
theorem vecRow_runs (lo : 0x20 ≤ op) (hi : op ≤ 0x25) (serial : op ≠ 0x23) (hw : Works s r x) (turn : VecTurn s x op c ok d) :
    ∃ t, exec (vecRow op r c ok) s = .next t ∧ Becomes t r x ((x.runSerial (ctxOf s) d).pump s.clock.time) := by
  obtain ⟨accepted, passes, next⟩ := turn
  obtain ⟨t, run, becomes⟩ := vecRow_judges (ok := ok) lo hi hw accepted
  have isSerial : d.isSerial = true := by
    obtain ⟨-, opcode, -⟩ := accepted
    simp [Cmd.isSerial, Cmd.isVec, opcode, lo, hi, serial]
  rw [judgeVec_serial passes next isSerial] at becomes
  exact ⟨t, run, becomes⟩

end

/-- Settles O38: a command that fails its first checks ends, and one behind another joins the queue. -/
theorem vectorCommandsTakeTheirTurn : Obligations.VectorCommandsTakeTheirTurn := by
  unfold Obligations.VectorCommandsTakeTheirTurn
  intro op r c ok s x d q lo hi hw accepted report
  obtain ⟨t, run, becomes⟩ := vecRow_judges (ok := ok) lo hi hw accepted
  refine ⟨fun bad => ⟨t, run, ?fails⟩, fun passes waits => ⟨t, run, ?waits⟩⟩
  case fails =>
    rw [judgeVec_failsFirst bad] at becomes
    have ends := ends_of_failVec (z := x.vecGone d) (f := x.fx) becomes rfl report
    obtain ⟨-, opcode, -⟩ := accepted
    rw [Rood.flagsVec, opcode] at ends
    exact ends
  case waits =>
    have posted : NonePosted ((x.vecQueued d).setCmd { x.latchItems d with stage := .waiting }) := report.posted
    rw [judgeVec_waits passes waits, pump_nonePosted posted,
      setCmd_numbered (e := { x.latchItems d with stage := .waiting }) (latchItems_id d x)] at becomes
    exact becomes

end Sys2Proof.Machine
end

section
/-! PROOF. VEC_CREATE and VEC_DROP in their turn and a peer that stays silent (R338 to R340, R363, R364, R368), and with them obligation
O39. -/
namespace Sys2Proof.Machine
open Sys2Proof

/-! ## The frames of a fresh index (R339, R340) -/

theorem vecFrames_lines (w x : Nat) (use : FrameUse) (n a : Nat) (k : Kv) : (k.vecFrames w x use n a).2.lines = k.lines := by
  induction n generalizing a k with
  | zero => rfl
  | succ n ih =>
    unfold Kv.vecFrames
    split
    · next key k' found =>
      unfold Kv.allocFrom at found
      split at found
      · cases found
        exact ih _ _
      · cases found
    · rfl

/-- An index that has just been created: its parameters, COMMIT 0 and no node (R340). -/
structure VecIndex.Created (num fmt metric dim degree cap : Nat) (v : VecIndex) : Prop where
  num : v.num = num
  elemFmt : v.elemFmt = fmt
  metric : v.metric = metric
  dim : v.dim = dim
  degree : v.degree = degree
  capacity : v.capacity = cap
  nodes : v.nodes = []
  damaged : v.damaged = false
  commit : v.root.commit = 0
  live : v.root.live = 0
  tombs : v.root.tombs = 0
  free : v.root.free = cap
  entry : v.root.entry = none

theorem newIndex_created (w num fmt metric dim degree cap : Nat) (k : Kv) :
    (k.newIndex w num fmt metric dim degree cap).1.Created num fmt metric dim degree cap := by
  constructor <;> rfl

theorem newIndex_lines (w num fmt metric dim degree cap : Nat) (k : Kv) :
    (k.newIndex w num fmt metric dim degree cap).2.lines = k.lines := by
  have made : ∃ v l, k.newIndex w num fmt metric dim degree cap = (v, l) ∧ l.lines = k.lines := by
    refine ⟨_, _, rfl, ?_⟩
    rw [vecFrames_lines, vecFrames_lines, vecFrames_lines]
  obtain ⟨v, l, eq, lines⟩ := made
  rw [eq]
  exact lines

/-! ## VEC_CREATE (R338 to R340) -/

/-- Frames that VEC_CREATE reserves: those of nodes, those of the table of ids, and the root's. -/
def Cmd.createFrames (d : Cmd) : Nat :=
  let n := vecFrameCounts (d.f 16 4 4) (d.f 20 0 16) (d.f 20 16 16) (d.f 24 0 32)
  n.1 + n.2 + 1

/-- The index that VEC_CREATE makes of a pool, and the pool afterwards. -/
def Rood.created (d : Cmd) (x : Rood) : VecIndex × Kv :=
  x.kv.newIndex x.width d.index (d.f 16 4 4) (d.f 16 8 4) (d.f 20 0 16) (d.f 20 16 16) (d.f 24 0 32)

theorem runSerial_create {d : Cmd} (op : d.opcode = 0x20) (ctx : Ctx) (x : Rood) : x.runSerial ctx d = x.runCreate ctx.time d := by
  rw [Rood.runSerial, if_pos op]

section
variable {x : Rood} {d : Cmd} {now : W64}

theorem runCreate_exists (held : (x.vec? d.index).isSome = true) : x.runCreate now d = x.failVec now d stBadState := by
  simp only [Rood.runCreate, held, if_true]

theorem runCreate_noRoom (free : x.vec? d.index = none) (full : x.framesOpen < d.createFrames) :
    x.runCreate now d = x.failVec now d stAdmitMem := by
  unfold Cmd.createFrames at full
  simp only [Rood.runCreate, free, full, Option.isSome_none, Bool.false_eq_true, if_true, if_false]

theorem runCreate_creates (free : x.vec? d.index = none) (room : d.createFrames ≤ x.framesOpen) :
    x.runCreate now d = (({ x with kv := (x.created d).2 } : Rood).addVec (x.created d).1).failVec now d stOk := by
  unfold Cmd.createFrames at room
  simp only [Rood.runCreate, free, Nat.not_lt.mpr room, Option.isSome_none, Bool.false_eq_true, if_false]
  rfl

end

/-! ## VEC_DROP (R364) -/

/-- Frames that no checkpoint has still to copy are all zeroed (R407). -/
theorem zeroable_all {x : Rood} (idle : x.ckp.run = none) : x.zeroable = x.kv.zeroing := by
  simp [Rood.zeroable, idle]

/-- The frames of an index that is dropped while no checkpoint runs have returned to the pool. -/
theorem dropVec_zeroed {x : Rood} (idle : x.ckp.run = none) (v : VecIndex) : ∀ a ∈ v.frames, a ∉ (x.dropVec v).kv.zeroing := by
  intro a frame
  have all := zeroable_all (x := ({ x with vecs := x.vecs.filter (fun w => w.num != v.num) } : Rood).giveRoom v.frames) idle
  simp only [Rood.dropVec, all, Rood.poolFrames, List.mem_filter, not_and]
  intro waits
  simp [waits, frame]

theorem unref_lines (a : Nat) (k : Kv) : (k.unref a).lines = k.lines := by
  unfold Kv.unref
  split
  · split <;> rfl
  · rfl

theorem foldl_unref_lines (l : List Nat) (k : Kv) : (l.foldl (fun k a => k.unref a) k).lines = k.lines := by
  induction l generalizing k with
  | nil => rfl
  | cons a l ih => exact (ih _).trans (unref_lines a k)

theorem dropVec_frames (v : VecIndex) (x : Rood) :
    (x.dropVec v).kv.frames = (v.frames.foldl (fun k a => k.unref a) x.kv).frames := rfl

theorem dropVec_lines (v : VecIndex) (x : Rood) : (x.dropVec v).kv.lines = x.kv.lines := foldl_unref_lines v.frames x.kv

theorem dropVec_run {x : Rood} (idle : x.ckp.run = none) (v : VecIndex) : (x.dropVec v).ckp.run = none :=
  congrArg (Option.map _) idle

theorem runSerial_drop {x : Rood} {d : Cmd} {v : VecIndex} (op : d.opcode = 0x25) (held : x.vec? d.index = some v) (ctx : Ctx) :
    x.runSerial ctx d = (x.dropVec v).failVec ctx.time d stOk := by
  rw [Rood.runSerial, op, held]
  rfl

/-- The rood in which a waiting command has its turn. -/
def Rood.vecUnqueued (d : Cmd) (x : Rood) : Rood := { x with vecQueue := x.vecQueue.filter (fun i => i != d.id) }

/-- A command that has left the queue has left it. -/
theorem vecUnqueued_gone (d : Cmd) (x : Rood) : (x.vecUnqueued d).vecGone d = x.vecGone d := by
  simp only [Rood.vecUnqueued, Rood.vecGone, List.filter_filter, Bool.and_self]

/-- A drop that has its turn at once runs in the rood as it stands; one that waited, in the rood without it in the queue. -/
theorem vecDrop_runs {r c : Nat} {s : State} {x : Rood} {d : Cmd} {v : VecIndex} {i : Instr} (hw : Works s r x)
    (op : d.opcode = 0x25) (held : x.vec? d.index = some v)
    (turn : (i = .vecDrop r c ∧ VecTurn s x 0x25 c true d) ∨ (i = .vecSerialAdvance r d.index ∧ x.vecNext d.index = some d)) :
    ∃ t y, exec i s = .next t ∧ Becomes t r x (((y.dropVec v).failVec s.clock.time d stOk).pump s.clock.time) ∧
      (y = x ∨ y = x.vecUnqueued d) := by
  rcases turn with ⟨rfl, turn⟩ | ⟨rfl, next⟩
  · obtain ⟨t, run, becomes⟩ := vecRow_runs (op := 0x25) (by decide) (by decide) (by decide) hw turn
    rw [runSerial_drop op held] at becomes
    exact ⟨t, x, run, becomes, .inl rfl⟩
  · refine ⟨_, x.vecUnqueued d, rfl, onRood_becomes_of hw ?_, .inr rfl⟩
    have still : (x.vecUnqueued d).vec? d.index = some v := held
    simp only [next]
    exact congrArg (fun y : Rood => y.pump s.clock.time) (runSerial_drop op still (ctxOf s))

theorem vecDrop_ends {r c : Nat} {s : State} {x : Rood} {d : Cmd} {v : VecIndex} {q : CRing} {i : Instr} (hw : Works s r x)
    (report : CanReport x d q) (op : d.opcode = 0x25) (held : x.vec? d.index = some v)
    (turn : (i = .vecDrop r c ∧ VecTurn s x 0x25 c true d) ∨ (i = .vecSerialAdvance r d.index ∧ x.vecNext d.index = some d)) :
    ∃ t, exec i s = .next t ∧ Ends t r x ((x.vecGone d).dropVec v) d q (d.record stOk) := by
  obtain ⟨t, y, run, becomes, stood⟩ := vecDrop_runs hw op held turn
  refine ⟨t, run, ends_of_failVec_plain (f := x.fx) becomes ?_ report (flagsVec_serial (by simp [op]) _)⟩
  rcases stood with rfl | rfl
  · rfl
  · exact congrArg (fun z : Rood => z.dropVec v) (vecUnqueued_gone d x)

/-! ## A list that does not come (R368) -/

theorem peerFailed_fails {x : Rood} {d : Cmd} {o : VecOp} (cmd : x.cmd? o.cmd = some d) (now : W64) :
    x.peerFailed now o = (x.failVec now d stPeer).pump now := by
  rw [Rood.peerFailed, cmd]

theorem vecPeerTimeout_ends {r c : Nat} {s : State} {x : Rood} {d : Cmd} {q : CRing} {o : VecOp} (hw : Works s r x)
    (cmd : x.cmd? c = some d) (report : CanReport x d q) (op : x.vecOp? c = some o) (own : o.cmd = c) (sweep : o.sweep = true)
    (waits : o.waiting ≠ []) :
    ∃ t, exec (.vecPeerTimeout r c) s = .next t ∧ Ends t r x (x.vecGone d) d q { d.record stPeer with
      flagged := d.flagged || (d.opcode == 0x23 && (x.vec? d.index).any (fun v => v.damaged)) } := by
  subst own
  have open_list : (o.sweep && !o.waiting.isEmpty) = true := by simp [sweep, waits]
  refine ⟨_, rfl, ends_of_failVec (y := x) (f := x.fx) (now := s.clock.time) (onRood_becomes_of hw ?_) rfl report⟩
  simp only [op, open_list, if_true]
  exact peerFailed_fails cmd s.clock.time

/-! ## The rows -/

section
variable {r c : Nat} {s : State} {x : Rood} {d : Cmd} {q : CRing} (hw : Works s r x) (turn : VecTurn s x 0x20 c true d)
  (report : CanReport x d q)
include turn

theorem vecCreate_flags (y : Rood) : y.flagsVec d = false := by
  obtain ⟨⟨-, op, -⟩, -, -⟩ := turn
  exact flagsVec_serial (by simp [op]) y

include report in
/-- A command that leaves a new index over a changed pool ends. -/
theorem ends_of_addVec {t : State} {v : VecIndex} {k : Kv}
    (h : Becomes t r x (((({ x with kv := k } : Rood).addVec v).failVec s.clock.time d stOk).pump s.clock.time)) :
    Ends t r x { x.vecGone d with vecs := x.vecs ++ [v], kv := k } d q (d.record stOk) :=
  ends_of_failVec_plain (f := x.fx) h rfl report (vecCreate_flags turn _)

include hw

theorem vecCreate_runs :
    ∃ t, exec (.vecCreate r c) s = .next t ∧ Becomes t r x ((x.runCreate s.clock.time d).pump s.clock.time) := by
  obtain ⟨t, run, becomes⟩ := vecRow_runs (op := 0x20) (by decide) (by decide) (by decide) hw turn
  obtain ⟨⟨-, op, -⟩, -, -⟩ := turn
  rw [runSerial_create op] at becomes
  exact ⟨t, run, becomes⟩

include report

theorem vecCreate_refused {st : Nat} (fails : x.runCreate s.clock.time d = x.failVec s.clock.time d st) :
    ∃ t, exec (.vecCreate r c) s = .next t ∧ Ends t r x (x.vecGone d) d q (d.record st) := by
  obtain ⟨t, run, becomes⟩ := vecCreate_runs hw turn
  rw [fails] at becomes
  exact ⟨t, run, ends_of_failVec_plain (f := x.fx) becomes rfl report (vecCreate_flags turn x)⟩

theorem vecCreate_creates (free : x.vec? d.index = none) (room : d.createFrames ≤ x.framesOpen) :
    ∃ t, exec (.vecCreate r c) s = .next t ∧
      Ends t r x { x.vecGone d with vecs := x.vecs ++ [(x.created d).1], kv := (x.created d).2 } d q (d.record stOk) := by
  obtain ⟨t, run, becomes⟩ := vecCreate_runs hw turn
  rw [runCreate_creates free room] at becomes
  exact ⟨t, run, ends_of_addVec turn report becomes⟩

end

/-- Settles O39, from what VEC_CREATE and VEC_DROP do in their turn and how a query without its peers' lists ends. -/
theorem indexesAreCreatedAndDropped : Obligations.IndexesAreCreatedAndDropped := by
  unfold Obligations.IndexesAreCreatedAndDropped
  refine ⟨fun r c s x d q hw turn report => ⟨?held, ?full, ?creates⟩, fun r c s x d q hw cmd report => ⟨?drops, ?silent⟩⟩
  case held => exact fun held => vecCreate_refused hw turn report (runCreate_exists held)
  case full => exact fun free full => vecCreate_refused hw turn report (runCreate_noRoom free full)
  case creates =>
    intro free room
    obtain ⟨t, run, ends⟩ := vecCreate_creates hw turn report free room
    have made := newIndex_created x.width d.index (d.f 16 4 4) (d.f 16 8 4) (d.f 20 0 16) (d.f 20 16 16) (d.f 24 0 32) x.kv
    exact ⟨t, _, _, run, made.num, made.elemFmt, made.metric, made.dim, made.degree, made.capacity, made.nodes, made.damaged,
      made.commit, made.live, made.tombs, made.free, made.entry, newIndex_lines _ _ _ _ _ _ _ _, ends⟩
  case drops =>
    intro v i op held turn
    obtain ⟨t, run, ends⟩ := vecDrop_ends hw report op held turn
    exact ⟨t, _, run, ends, rfl, dropVec_frames v (x.vecGone d), dropVec_lines v (x.vecGone d),
      fun idle => ⟨dropVec_run idle v, dropVec_zeroed (x := x.vecGone d) idle v⟩⟩
  case silent => exact fun o op own sweep waits => vecPeerTimeout_ends hw cmd report op own sweep waits

end Sys2Proof.Machine
end

section
/-! PROOF. Batches, deletes and compactions of an index, and how they end (R344, R347, R356 to R361, R369, R462), and with them
obligation O40. -/
namespace Sys2Proof.Machine
open Sys2Proof

/-! ## Embeddings that a batch takes (R369, R446) -/

/-- Only GRAINS of sessions and requests to the rest of the device differ. -/
structure EmbedSide (x y : Rood) : Prop where
  only : y = { x with slots := y.slots, fx := y.fx }
  grains : ∀ i, (y.entry? i).map (fun e => { e with grains := 0 }) = (x.entry? i).map (fun e => { e with grains := 0 })

theorem EmbedSide.refl (x : Rood) : EmbedSide x x := ⟨rfl, fun _ => rfl⟩

theorem EmbedSide.trans {x y z : Rood} (h : EmbedSide x y) (k : EmbedSide y z) : EmbedSide x z := by
  refine ⟨?_, fun i => (k.grains i).trans (h.grains i)⟩
  have only := k.only
  rw [h.only] at only
  exact only

theorem countSlice_asking (pos idx n : Nat) (x : Rood) : x.countSlice pos idx n = x.asking (x.countSlice pos idx n).fx := by
  unfold Rood.countSlice
  split <;> rfl

theorem EmbedSide.countSlice (pos idx n : Nat) (x : Rood) : EmbedSide x (x.countSlice pos idx n) := by
  rw [countSlice_asking]
  exact ⟨rfl, fun _ => rfl⟩

/-- A session that pays for its embedding changes in GRAINS alone. -/
theorem EmbedSide.charge (i n : Nat) (x : Rood) : EmbedSide x (x.modEntry i (fun e => { e with grains := e.grains + n })) := by
  unfold Rood.modEntry
  split
  · next e entry =>
    refine ⟨rfl, fun j => ?_⟩
    rw [entry?_setEntry]
    split
    · next same => rw [same, entry]; rfl
    · rfl
  · exact refl x

theorem takeEmbedding_side (handle : Nat) (x : Rood) : EmbedSide x (x.takeEmbedding handle).1 := by
  unfold Rood.takeEmbedding
  split
  · exact .refl x
  · dsimp only
    exact ((EmbedSide.charge _ _ x).trans (.countSlice _ _ _ _)).trans (.countSlice _ _ _ _)

theorem modEntry_asking (i : Nat) (g : Entry → Entry) (f : List Fx) (x : Rood) :
    (x.asking f).modEntry i g = (x.modEntry i g).asking f := by
  have same : (x.asking f).entry? i = x.entry? i := rfl
  simp only [Rood.modEntry, same]
  split <;> rfl

/-- What a rood asks for does not count in the embeddings that it takes. -/
theorem takeEmbedding_asking (handle : Nat) (f : List Fx) (x : Rood) :
    ∃ g, (x.asking f).takeEmbedding handle = ((x.takeEmbedding handle).1.asking g, (x.takeEmbedding handle).2) := by
  have source : (x.asking f).embedSource handle = x.embedSource handle := rfl
  have embeds : ∀ slot e im p, (x.asking f).embedding slot e im p = x.embedding slot e im p := fun _ _ _ _ => rfl
  simp only [Rood.takeEmbedding, source]
  split
  · exact ⟨f, rfl⟩
  · simp only [embeds, modEntry_asking]
    exact ⟨_, rfl⟩

/-! ## The items of a batch (R356, R357) -/

/-- An item whose vector stands in the batch. -/
def itemGiven (dim : Nat) (b : List Byte) : VecItem :=
  { element := u32At 0 b, version := BitVec.ofNat 64 (u64At 8 b), vector := (chunks 4 (cut 16 (4 * dim) b)).map leVal }

/-- One item read after others. -/
def Rood.readItem (dim : Nat) (r : Rood × List VecItem) (b : List Byte) : Rood × List VecItem :=
  let e := if u32At 4 b = 1 then r.1.takeEmbedding (u32At 16 b) else (r.1, (itemGiven dim b).vector)
  (e.1, r.2 ++ [{ itemGiven dim b with vector := e.2 }])

theorem readItems_eq (dim : Nat) (items : List (List Byte)) (x : Rood) :
    x.readItems dim items = items.foldl (Rood.readItem dim) (x, []) := rfl

theorem readItem_side (dim : Nat) (r : Rood × List VecItem) (b : List Byte) : EmbedSide r.1 (Rood.readItem dim r b).1 := by
  unfold Rood.readItem
  dsimp only
  split
  · exact takeEmbedding_side _ _
  · exact .refl _

theorem foldl_readItem_side (dim : Nat) (items : List (List Byte)) (r : Rood × List VecItem) :
    EmbedSide r.1 (items.foldl (Rood.readItem dim) r).1 := by
  induction items generalizing r with
  | nil => exact .refl _
  | cons b items ih => exact (readItem_side dim r b).trans (ih _)

theorem readItem_asking (dim : Nat) (f : List Fx) (y : Rood) (l : List VecItem) (b : List Byte) :
    ∃ g, Rood.readItem dim (y.asking f, l) b = ((Rood.readItem dim (y, l) b).1.asking g, (Rood.readItem dim (y, l) b).2) := by
  unfold Rood.readItem
  dsimp only
  split
  · obtain ⟨g, eq⟩ := takeEmbedding_asking (u32At 16 b) f y
    exact ⟨g, by rw [eq]⟩
  · exact ⟨f, rfl⟩

theorem foldl_readItem_asking (dim : Nat) (items : List (List Byte)) (f : List Fx) (r : Rood × List VecItem) :
    ∃ g, items.foldl (Rood.readItem dim) (r.1.asking f, r.2) =
      ((items.foldl (Rood.readItem dim) r).1.asking g, (items.foldl (Rood.readItem dim) r).2) := by
  induction items generalizing f r with
  | nil => exact ⟨f, rfl⟩
  | cons b items ih =>
    obtain ⟨g, eq⟩ := readItem_asking dim f r.1 r.2 b
    rw [List.foldl_cons, List.foldl_cons, eq]
    exact ih g (Rood.readItem dim r b)

/-- A batch whose vectors all stand in it takes no embedding. -/
theorem foldl_readItem_given {dim : Nat} {items : List (List Byte)} (given : ∀ b ∈ items, u32At 4 b = 0) (x : Rood)
    (l : List VecItem) : items.foldl (Rood.readItem dim) (x, l) = (x, l ++ items.map (itemGiven dim)) := by
  induction items generalizing l with
  | nil => simp
  | cons b items ih =>
    have plain : u32At 4 b ≠ 1 := by simp [given b List.mem_cons_self]
    have read : Rood.readItem dim (x, l) b = (x, l ++ [itemGiven dim b]) := by
      rw [Rood.readItem, if_neg plain]
    rw [List.foldl_cons, read, ih (fun c hc => given c (List.mem_cons_of_mem b hc))]
    simp

/-! ## A mutation that begins (R347) -/

/-- The mutation of an index that a command begins. -/
def Cmd.mutation (d : Cmd) (v : VecIndex) (commit count : Nat) : VecOp :=
  { cmd := d.id, index := v.num, sweep := false, commit := commit, count := count, answers := [], nans := [], rounds := 0
    scores := 0, op := 0, waiting := [], joined := [], lists := [], damaged := false }

/-- The rood once a mutation has done its work on an index and waits for its commit. -/
def Rood.mutating (d : Cmd) (w : VecIndex) (o : VecOp) (x : Rood) : Rood :=
  { x with
    vecs := x.vecs.map (fun u => if u.num == w.num then w else u), vecOps := x.vecOps ++ [o]
    vecQueue := x.vecQueue.filter (fun i => i != d.id)
    cmds := x.cmds.map (fun k => if k.id == d.id then { d with stage := .running, embeds := [] } else k) }

theorem startMutation_eq (d : Cmd) (v : VecIndex) (commit count : Nat) (x : Rood) :
    x.startMutation d v commit count = x.mutating d v (d.mutation v commit count) := rfl

/-! ## Work on an index leaves its number (R358 to R361) -/

theorem foldl_num {α : Type} {f : VecIndex → α → VecIndex} (keeps : ∀ v a, (f v a).num = v.num) (l : List α) (v : VecIndex) :
    (l.foldl f v).num = v.num := by
  induction l generalizing v with
  | nil => rfl
  | cons a l ih => exact (ih _).trans (keeps v a)

theorem modNode_num (s : Nat) (f : Node → Node) (v : VecIndex) : (v.modNode s f).num = v.num := rfl

theorem putRoot_num (f : RootImage → RootImage) (v : VecIndex) : (v.putRoot f).num = v.num := by
  unfold VecIndex.putRoot
  dsimp only
  split <;> rfl

theorem tombstone_num (id c : Nat) (v : VecIndex) : (v.tombstone id c).1.num = v.num := by
  unfold VecIndex.tombstone
  split <;> rfl

theorem reverse_num (s t : Nat) (v : VecIndex) : (v.reverse s t).num = v.num := by
  unfold VecIndex.reverse
  dsimp only
  split <;> rfl

theorem insert_num (c : Nat) (v : VecIndex) (i : VecItem) : (v.insert c i).num = v.num := by
  unfold VecIndex.insert
  dsimp only
  split
  · rw [putRoot_num, modNode_num, tombstone_num]
  · rw [foldl_num (fun v _ => reverse_num _ _ v), modNode_num, modNode_num, tombstone_num]

theorem repair_num (f : List Nat) (v : VecIndex) (y : Nat) : (VecIndex.repair f v y).num = v.num := by
  unfold VecIndex.repair
  dsimp only
  split
  · split <;> rfl
  · rfl

theorem compact_num (cmin : Nat) (v : VecIndex) : (v.compact cmin).1.num = v.num := by
  have frees : ∀ (w : VecIndex) (s : Nat), (w.freeNode s).num = w.num := fun _ _ => rfl
  unfold VecIndex.compact
  dsimp only
  split
  · rw [putRoot_num, foldl_num frees, foldl_num (repair_num _)]
  · rw [foldl_num frees, foldl_num (repair_num _)]

/-! ## What the batches do in their turn -/

/-- Counting the ids that were found does not change what is done to the index. -/
theorem foldl_tombstone (commit : Nat) (ids : List Nat) (v : VecIndex) (n : Nat) :
    (ids.foldl (fun (q : VecIndex × Nat) id =>
      let t := q.1.tombstone id commit
      (t.1, q.2 + bit t.2)) (v, n)).1 = ids.foldl (fun w id => (w.tombstone id commit).1) v :=
  (List.foldl_hom Prod.fst (init := (v, n)) (fun _ _ => rfl)).symm

theorem readBulk_empty (now : W64) (off : Nat) (x : Rood) : x.readBulk now off 0 = (x, 0, []) := rfl

section
variable {x : Rood} {d : Cmd} {v : VecIndex} {bytes : List Byte} {now : W64}

theorem runInsert_inserts (clean : CleanBulk x d bytes) (len : d.bulkLen = d.items * itemBytes v.dim) (some_items : 0 < d.items)
    (room : d.items ≤ v.freeSlots) (legal : (chunks (itemBytes v.dim) bytes).all (itemOk v.dim) = true) (fresh : d.failed = 0)
    (sound : v.damaged = false) (sessions : x.itemsCheck v.dim (chunks (itemBytes v.dim) bytes) = 0) :
    x.runInsert now d v = (x.count 4 d.bulkLen).insertBatch d v (chunks (itemBytes v.dim) bytes) := by
  have stands : (x.count 4 d.bulkLen).itemsCheck v.dim (chunks (itemBytes v.dim) bytes) = 0 := by
    rw [count_asking]
    exact sessions
  have exact_len : ¬ d.items * itemBytes v.dim < d.bulkLen ∧ ¬ d.bulkLen < d.items * itemBytes v.dim := by omega
  rw [Rood.runInsert, readBulk_clean clean now]
  simp only [exact_len, if_false, ne_eq, not_true_eq_false, legal, Bool.not_true, Bool.false_eq_true, sound, fresh, if_true, stands,
    Nat.ne_of_gt some_items, Nat.not_lt.mpr room]

theorem runDelete_deletes (clean : CleanBulk x d bytes) (some_items : 0 < d.items) (sound : v.damaged = false) :
    ∃ n, x.runDelete now d v = (x.count 4 d.bulkLen).startMutation d
      ((vecIds bytes).foldl (fun w id => (w.tombstone id (v.root.commit + 1)).1) v) (v.root.commit + 1) n := by
  rw [Rood.runDelete, readBulk_clean clean now]
  simp only [ne_eq, not_true_eq_false, if_false, sound, Bool.false_eq_true, Nat.ne_of_gt some_items, foldl_tombstone]
  exact ⟨_, rfl⟩

theorem runInsert_empty (none_given : d.items = 0) (no_bytes : d.bulkLen = 0) (sound : v.damaged = false) :
    x.runInsert now d v = x.emptyBatch now d v := by
  have no_items : (chunks (itemBytes v.dim) []).all (itemOk v.dim) = true := rfl
  simp only [Rood.runInsert, none_given, no_bytes, Nat.zero_mul, Nat.lt_irrefl, if_false, readBulk_empty, ne_eq,
    not_true_eq_false, no_items, Bool.not_true, Bool.false_eq_true, sound, if_true]

theorem runDelete_empty (none_given : d.items = 0) (no_bytes : d.bulkLen = 0) (sound : v.damaged = false) :
    x.runDelete now d v = x.emptyBatch now d v := by
  simp only [Rood.runDelete, none_given, no_bytes, if_false, readBulk_empty, ne_eq, not_true_eq_false, Bool.false_eq_true, sound,
    if_true]

/-- A compaction beside which no sweep runs frees whatever COMMIT does not show (R361). -/
theorem runCompact_compacts (alone : x.vecOps = []) (sound : v.damaged = false) :
    x.runCompact now d v = x.startMutation d (v.compact v.root.commit).1 v.root.commit (v.compact v.root.commit).2 := by
  simp only [Rood.runCompact, sound, Bool.false_eq_true, if_false, alone, List.filter_nil, List.map_nil, List.foldl_nil]

end

section
variable {d : Cmd} {v : VecIndex} {x : Rood} (held : x.vec? d.index = some v) (ctx : Ctx)
include held

theorem runSerial_insert (op : d.opcode = 0x21) : x.runSerial ctx d = x.runInsert ctx.time d v := by
  rw [Rood.runSerial, op, held]
  rfl

theorem runSerial_delete (op : d.opcode = 0x22) : x.runSerial ctx d = x.runDelete ctx.time d v := by
  rw [Rood.runSerial, op, held]
  rfl

theorem runSerial_compact (op : d.opcode = 0x24) : x.runSerial ctx d = x.runCompact ctx.time d v := by
  rw [Rood.runSerial, op, held]
  rfl

end

/-! ## The rows -/

section
variable {r c : Nat} {s : State} {x : Rood} {d : Cmd} {q : CRing} {v : VecIndex} {bytes : List Byte} (hw : Works s r x)
  (report : CanReport x d q) (held : x.vec? d.index = some v) (sound : v.damaged = false)
include hw report

/-- A serial command whose turn begins a mutation leaves it begun. -/
theorem vecRow_mutates {op commit count : Nat} {y z : Rood} {w : VecIndex} {f : List Fx} (lo : 0x20 ≤ op) (hi : op ≤ 0x25)
    (serial : op ≠ 0x23) (turn : VecTurn s x op c true d)
    (begins : x.runSerial (ctxOf s) d = y.startMutation d w commit count) (stood : y = z.asking f) (irings : z.irings = x.irings) :
    ∃ t, exec (vecRow op r c true) s = .next t ∧ Becomes t r x (z.mutating d w (d.mutation w commit count)) := by
  obtain ⟨t, run, becomes⟩ := vecRow_runs lo hi serial hw turn
  subst stood
  have posted : NonePosted ((z.asking f).mutating d w (d.mutation w commit count)) := report.posted.of_irings irings
  rw [begins, startMutation_eq, pump_nonePosted posted] at becomes
  exact ⟨t, run, becomes⟩

include held sound

theorem vecInsert_inserts (turn : VecTurn s x 0x21 c true d) (clean : CleanBulk x d bytes)
    (len : d.bulkLen = d.items * itemBytes v.dim) (some_items : 0 < d.items) (room : d.items ≤ v.freeSlots)
    (legal : (chunks (itemBytes v.dim) bytes).all (itemOk v.dim) = true) (fresh : d.failed = 0)
    (sessions : x.itemsCheck v.dim (chunks (itemBytes v.dim) bytes) = 0) :
    let items := chunks (itemBytes v.dim) bytes
    let w := (x.readItems v.dim items).2.foldl (fun w i => w.insert (v.root.commit + 1) i) v
    ∃ t, exec (.vecInsert r c) s = .next t ∧
      Becomes t r x (({ x with slots := (x.readItems v.dim items).1.slots } : Rood).mutating d w
        (d.mutation w (v.root.commit + 1) items.length)) := by
  intro items w
  have side := (foldl_readItem_side v.dim items (x, [])).only
  obtain ⟨g, read⟩ := foldl_readItem_asking v.dim items (x.count 4 d.bulkLen).fx (x, [])
  rw [← count_asking, ← readItems_eq, ← readItems_eq] at read
  rw [← readItems_eq] at side
  refine vecRow_mutates (op := 0x21) (y := (x.readItems v.dim items).1.asking g) (f := g) hw report (by decide) (by decide)
    (by decide) turn ?_ ?_ rfl
  · obtain ⟨⟨-, op, -⟩, -, -⟩ := turn
    rw [runSerial_insert held _ op, runInsert_inserts clean len some_items room legal fresh sound sessions, Rood.insertBatch]
    simp only [read, items, w]
  · rw [side]
    rfl

theorem vecDelete_deletes (turn : VecTurn s x 0x22 c true d) (clean : CleanBulk x d bytes) (some_items : 0 < d.items) :
    let w := (vecIds bytes).foldl (fun w id => (w.tombstone id (v.root.commit + 1)).1) v
    ∃ t n, exec (.vecDelete r c) s = .next t ∧ Becomes t r x (x.mutating d w (d.mutation w (v.root.commit + 1) n)) := by
  obtain ⟨⟨-, op, -⟩, -, -⟩ := id turn
  obtain ⟨n, deletes⟩ := runDelete_deletes (now := s.clock.time) clean some_items sound
  obtain ⟨t, run, becomes⟩ := vecRow_mutates (op := 0x22) hw report (by decide) (by decide) (by decide) turn
    ((runSerial_delete held _ op).trans deletes) (count_asking _ _ _) rfl
  exact ⟨t, n, run, becomes⟩

theorem vecCompact_compacts (turn : VecTurn s x 0x24 c true d) (alone : x.vecOps = []) :
    let w := (v.compact v.root.commit).1
    ∃ t, exec (.vecCompact r c) s = .next t ∧
      Becomes t r x (x.mutating d w (d.mutation w v.root.commit (v.compact v.root.commit).2)) := by
  obtain ⟨⟨-, op, -⟩, -, -⟩ := id turn
  exact vecRow_mutates (op := 0x24) (f := x.fx) hw report (by decide) (by decide) (by decide) turn
    ((runSerial_compact held _ op).trans (runCompact_compacts alone sound)) rfl rfl

theorem emptyBatch_ends {op : Nat} (either : op = 0x21 ∨ op = 0x22) (turn : VecTurn s x op c true d) (none_given : d.items = 0)
    (no_bytes : d.bulkLen = 0) :
    ∃ t, exec (vecRow op r c true) s = .next t ∧
      Ends t r x (x.vecGone d) d q { d.record stOk with
        nothingDone := true, result := [0, 0, v.root.commit % 2 ^ 32, v.root.commit / 2 ^ 32] } := by
  obtain ⟨t, run, becomes⟩ := vecRow_runs (by omega) (by omega) (by omega) hw turn
  obtain ⟨⟨-, opcode, -⟩, -, -⟩ := turn
  have batch : x.runSerial (ctxOf s) d = x.emptyBatch s.clock.time d v := by
    rcases either with rfl | rfl
    · exact (runSerial_insert held _ opcode).trans (runInsert_empty none_given no_bytes sound)
    · exact (runSerial_delete held _ opcode).trans (runDelete_empty none_given no_bytes sound)
  rw [batch, Rood.emptyBatch] at becomes
  exact ⟨t, run, ends_of_endVec_plain (f := x.fx) becomes rfl report rfl rfl (flagsVec_serial (by omega) x)⟩

end

/-! ## The end of a mutation (R344, R347, R361, R462) -/

/-- A change of the root shows in the image in force (R344). -/
theorem putRoot_root (f : RootImage → RootImage) (v : VecIndex) :
    (v.putRoot f).root = { f v.root with serial := v.root.serial + 1 } := by
  unfold VecIndex.putRoot VecIndex.root
  by_cases order : v.rootA.serial < v.rootB.serial
  · simp only [order, if_true, Nat.not_lt.mpr (Nat.le_succ _), if_false]
  · simp only [order, if_false, Nat.lt_succ_self, if_true]

theorem putRoot_nodes (f : RootImage → RootImage) (v : VecIndex) : (v.putRoot f).nodes = v.nodes := by
  unfold VecIndex.putRoot
  dsimp only
  split <;> rfl

/-- Scores that a mutation makes are a request alone. -/
theorem countMutation_asking (v : VecIndex) (x : Rood) : x.countMutation v = x.asking (x.countMutation v).fx := by
  unfold Rood.countMutation
  split <;> rfl

section
variable {r : Nat} {s : State} {x : Rood} {d : Cmd} {q : CRing} {v : VecIndex} {o : VecOp}

theorem vecMutationDone_runs (hw : Works s r x) (runs : x.mutation v.num = some o) (held : x.vec? v.num = some v)
    (cmd : x.cmd? o.cmd = some d) (damaged : Bool) :
    ∃ t, exec (.vecMutationDone r v.num damaged) s = .next t ∧
      Becomes t r x ((x.endMutation s.clock.time o d v damaged).pump s.clock.time) := by
  refine ⟨_, rfl, onRood_becomes_of hw ?_⟩
  simp only [runs, held, cmd]
  rfl

/-- The record of a mutation that has been committed (Table 4.8). -/
def Cmd.mutated (d : Cmd) (o : VecOp) : CRec :=
  { d.record stOk with
    result := if d.opcode = 0x24 then [o.count, 0, 0, 0] else [o.count, 0, o.commit % 2 ^ 32, o.commit / 2 ^ 32] }

theorem mutated_full (d : Cmd) (o : VecOp) : (d.mutated o).result.length = 4 := by
  unfold Cmd.mutated
  dsimp only
  split <;> rfl

theorem endMutation_commits (sound : o.damaged = false) (now : W64) :
    x.endMutation now o d v false = ((x.setVec (v.commit o.commit)).countMutation (v.commit o.commit)).endVec now d (d.mutated o) := by
  rw [Rood.endMutation, sound]
  rfl

theorem endMutation_damages (now : W64) :
    x.endMutation now o d v true = (x.setVec { v with damaged := true }).failVec now d stSuspect := rfl

theorem setVec_numbered {w : VecIndex} (same : w.num = v.num) (x : Rood) :
    x.setVec w = { x with vecs := x.vecs.map (fun u => if u.num == v.num then w else u) } := by
  rw [Rood.setVec, same]

theorem vecMutationDone_commits (hw : Works s r x) (runs : x.mutation v.num = some o) (held : x.vec? v.num = some v)
    (cmd : x.cmd? o.cmd = some d) (serial : d.opcode ≠ 0x23) (report : CanReport x d q) (sound : o.damaged = false) :
    ∃ t, exec (.vecMutationDone r v.num false) s = .next t ∧
      Ends t r x { x.vecGone d with vecs := x.vecs.map (fun u => if u.num == v.num then v.commit o.commit else u) } d q
        (d.mutated o) := by
  obtain ⟨t, run, becomes⟩ := vecMutationDone_runs hw runs held cmd false
  have same : (v.commit o.commit).num = v.num := putRoot_num _ v
  rw [endMutation_commits sound, setVec_numbered same, countMutation_asking] at becomes
  exact ⟨t, run, ends_of_endVec_plain becomes rfl report (mutated_full d o) rfl (flagsVec_serial serial _)⟩

theorem vecMutationDone_damages (hw : Works s r x) (runs : x.mutation v.num = some o) (held : x.vec? v.num = some v)
    (cmd : x.cmd? o.cmd = some d) (serial : d.opcode ≠ 0x23) (report : CanReport x d q) :
    ∃ t, exec (.vecMutationDone r v.num true) s = .next t ∧
      Ends t r x { x.vecGone d with vecs := x.vecs.map (fun u => if u.num == v.num then { v with damaged := true } else u) } d q
        (d.record stSuspect) := by
  obtain ⟨t, run, becomes⟩ := vecMutationDone_runs hw runs held cmd true
  rw [endMutation_damages] at becomes
  exact ⟨t, run, ends_of_failVec_plain (f := x.fx) becomes rfl report (flagsVec_serial serial _)⟩

end

/-- Settles O40, from what each batch begins in its turn and what the end of a mutation leaves. -/
theorem mutationsBeginAndEnd : Obligations.MutationsBeginAndEnd := by
  unfold Obligations.MutationsBeginAndEnd
  refine ⟨fun r c s x d q v bytes hw report held sound => ⟨?inserts, ?deletes, ?empty, ?compacts⟩,
    fun r s x d q v o hw runs held cmd serial report whole =>
      ⟨?commits, vecMutationDone_damages hw runs held cmd serial report⟩⟩
  case inserts =>
    intro items turn clean len some_items room legal fresh sessions
    obtain ⟨t, run, becomes⟩ := vecInsert_inserts hw report held sound turn clean len some_items room legal fresh sessions
    have side := foldl_readItem_side v.dim items (x, [])
    refine ⟨t, _, _, run, rfl, foldl_num (insert_num _) _ v, rfl, rfl, rfl, becomes, side.grains, fun given => ?_⟩
    have read := foldl_readItem_given (dim := v.dim) (items := items)
      (fun b hb => by simpa using List.all_eq_true.mp given b hb) x []
    rw [readItems_eq, read]
    exact ⟨rfl, List.nil_append _⟩
  case deletes =>
    intro turn clean some_items
    obtain ⟨t, n, run, becomes⟩ := vecDelete_deletes hw report held sound turn clean some_items
    exact ⟨t, _, _, run, becomes, rfl, foldl_num (fun w id => tombstone_num id _ w) _ v, rfl, rfl, rfl⟩
  case empty => exact fun op either turn none_given no_bytes =>
    emptyBatch_ends hw report held sound either turn none_given no_bytes
  case compacts =>
    intro turn alone
    obtain ⟨t, run, becomes⟩ := vecCompact_compacts hw report held sound turn alone
    exact ⟨t, _, run, becomes, rfl, compact_num _ v, rfl, rfl, rfl⟩
  case commits =>
    obtain ⟨t, run, ends⟩ := vecMutationDone_commits hw runs held cmd serial report whole
    have root : (v.commit o.commit).root = { v.root with
        commit := o.commit, live := v.live, tombs := v.tombs, free := v.freeSlots, serial := v.root.serial + 1 } := putRoot_root _ v
    exact ⟨t, _, run, congrArg RootImage.commit root, congrArg RootImage.serial root, putRoot_nodes _ v,
      congrArg RootImage.live root, congrArg RootImage.tombs root, ends⟩

end Sys2Proof.Machine
end

section
/-! PROOF. A query over an index at COMMIT and its results (R348, R350, R353 to R355, R462, Tables 4.8 and 12.6), and with them
obligation O41. -/
namespace Sys2Proof.Machine
open Sys2Proof

/-! ## The sweep (R348, R355) -/

/-- What a sweep counts is asked for; the rood keeps the number of its scores (Table 18.4). -/
def Rood.scoring (n : Nat) (x : Rood) : Rood := x.mapTally (fun t => { t with vecScores := t.vecScores + n })

theorem countBank_asking (pos c idx n : Nat) (x : Rood) : x.countBank pos c idx n = x.asking (x.countBank pos c idx n).fx := by
  unfold Rood.countBank
  split <;> rfl

theorem countAssigned_asking (slot pos idx n : Nat) (x : Rood) :
    x.countAssigned slot pos idx n = x.asking (x.countAssigned slot pos idx n).fx := by
  unfold Rood.countAssigned
  split <;> rfl

theorem countScores_asking (v : VecIndex) (slots : List Nat) (x : Rood) :
    ∃ f, x.countScores v slots = x.asking f := by
  unfold Rood.countScores
  induction slots generalizing x with
  | nil => exact ⟨x.fx, rfl⟩
  | cons a slots ih =>
    rw [List.foldl_cons, countBank_asking]
    exact ih (x.asking _)

/-- The answers of a sweep, and the rood that has made them. -/
theorem sweep_asking (v : VecIndex) (c l id : Nat) (queries : List (List Nat)) (x : Rood) :
    ∃ f, x.sweep v c l id queries =
      ((x.scoring (queries.flatMap (fun z => (v.answer c l z).scored)).length).asking f, queries.map (v.answer c l)) := by
  have scored : (queries.map (v.answer c l)).flatMap (fun a => a.scored) = queries.flatMap (fun z => (v.answer c l z).scored) :=
    List.flatMap_map _ _ queries
  obtain ⟨f, scores⟩ := countScores_asking v (queries.flatMap (fun z => (v.answer c l z).scored)) x
  simp only [Rood.sweep, scored, scores]
  rw [countAssigned_asking, countAssigned_asking _ _ 20]
  exact ⟨_, rfl⟩

/-! ## A query in its turn (R353, R462) -/

/-- The sweep that a query of its own shard alone begins. -/
def Cmd.sweeping (d : Cmd) (v : VecIndex) (bytes : List Byte) : VecOp :=
  let answers := (readQueries v.dim bytes).map (v.answer v.root.commit d.vecL)
  { cmd := d.id, index := v.num, sweep := true, commit := v.root.commit, count := d.queries
    answers := answers.map (fun a => a.hits), nans := answers.map (fun a => a.nans), rounds := 0, scores := 0, op := 0
    waiting := [], joined := [], lists := [], damaged := v.damaged }

/-- The rood that sweeps an index for a query. -/
def Rood.querying (d : Cmd) (v : VecIndex) (bytes : List Byte) (x : Rood) : Rood :=
  { x with
    vecOps := x.vecOps ++ [d.sweeping v bytes]
    cmds := x.cmds.map (fun k => if k.id == d.id then { d with stage := .running } else k)
    tally := { x.tally with vecScores := x.tally.vecScores +
      ((readQueries v.dim bytes).flatMap (fun z => (v.answer v.root.commit d.vecL z).scored)).length } }

theorem startSweep_own {d : Cmd} (own : d.sharded = false) (ctx : Ctx) (v : VecIndex) (bytes : List Byte) (x : Rood) :
    ∃ f, x.startSweep ctx d v bytes = (x.querying d v bytes).asking f := by
  obtain ⟨f, swept⟩ := sweep_asking v v.root.commit d.vecL d.id (readQueries v.dim bytes) x
  refine ⟨f, ?_⟩
  simp only [Rood.startSweep, own, Bool.false_eq_true, if_false, List.isEmpty_nil, if_true, List.foldl_nil, swept]
  rfl

theorem flagsVec_query {d : Cmd} {v : VecIndex} {x : Rood} (op : d.opcode = 0x23) (held : x.vec? d.index = some v) :
    x.flagsVec d = v.damaged := by
  rw [Rood.flagsVec, op, held]
  rfl

section
variable {x : Rood} {d : Cmd} {v : VecIndex} {ctx : Ctx} (ahead : x.dropAhead d = false)
include ahead

theorem runQuery_noIndex (none_held : x.vec? d.index = none) : x.runQuery ctx d = x.failVec ctx.time d stBadState := by
  simp only [Rood.runQuery, ahead, none_held, Bool.false_eq_true, if_false]

variable (held : x.vec? d.index = some v) (len : d.queryLen = d.queries * (4 * v.dim)) (own : d.sharded = false)
include held len own

theorem runQuery_noQueries (none_given : d.queries = 0) :
    x.runQuery ctx d = x.endVec ctx.time d
      { d.record stOk with nothingDone := true, result := [0, 0, v.root.commit % 2 ^ 32, v.root.commit / 2 ^ 32] } := by
  simp only [Rood.runQuery, ahead, held, Bool.false_eq_true, if_false, len, Nat.lt_irrefl, own, Bool.false_and, none_given,
    if_true, mutationResult]

theorem runQuery_sweeps (some_given : d.queries ≠ 0) (some_bytes : d.queryLen ≠ 0)
    (clean : ∀ k ∈ touchedLines d.queryOff d.queryLen, lookKey k x.stagingBad = none) :
    x.runQuery ctx d = (x.count 4 d.queryLen).startSweep ctx d v (memReadN x.staging d.queryOff d.queryLen) := by
  have marks : (touchedLines d.queryOff d.queryLen).filterMap (fun l => lookKey l x.stagingBad) = [] := by
    rw [List.filterMap_eq_nil_iff]
    exact clean
  have read : x.readBulk ctx.time d.queryOff d.queryLen =
      (x.count 4 d.queryLen, 0, memReadN x.staging d.queryOff d.queryLen) := by
    simp [Rood.readBulk, marks, some_bytes]
  have exact_len : ¬ d.queries * (4 * v.dim) < d.queryLen ∧ ¬ d.queryLen < d.queries * (4 * v.dim) := by omega
  simp only [Rood.runQuery, ahead, held, Bool.false_eq_true, if_false, exact_len, own, Bool.false_and, some_given, read, ne_eq,
    not_true_eq_false]

end

/-! ## The end of a sweep (R354, R462) -/

/-- The entries and headers of the queries of a sweep. -/
def VecOp.own (v : VecIndex) (d : Cmd) (o : VecOp) : List (List Byte × List Byte) :=
  (List.range o.count).map (fun i => queryResult v.smallest d.vecK (o.nans.getD i 0) (o.answers.getD i []))

/-- What the end of a sweep writes to the host: the entries, then the headers where the buffer has room for them. -/
def VecOp.written (v : VecIndex) (d : Cmd) (o : VecOp) : List Byte :=
  (o.own v d).flatMap (fun k => k.1) ++
    (if d.queries * (16 * d.vecK + 32) ≤ d.resultLen then (o.own v d).flatMap (fun k => k.2) else [])

/-- The record of a query that has been swept (Table 4.8). -/
def Cmd.swept (d : Cmd) (v : VecIndex) (o : VecOp) : CRec :=
  { d.record stOk with
    flagged := d.flagged || o.damaged
    result := [d.queries, (o.written v d).length, o.commit % 2 ^ 32, o.commit / 2 ^ 32] }

/-- A query carries the damage that its sweep met (R462). -/
def Cmd.flaggedBy (o : VecOp) (d : Cmd) : Cmd := { d with flagged := d.flagged || o.damaged }

theorem endSweep_own {x : Rood} {d : Cmd} {v : VecIndex} {o : VecOp} (held : x.vec? o.index = some v) (own : d.sharded = false)
    (now : W64) :
    x.endSweep now o d =
      (x.hostWrite d.resultAddr (o.written v d)).endVec now (d.flaggedBy o) (d.swept v o) := by
  have results : o.results ((some v).any VecIndex.smallest) d.sharded d.vecK = (o.own v d, 0) := by
    rw [own]
    rfl
  simp only [Rood.endSweep, held, results, Rood.countAssigned, if_true, decide_eq_true_eq]
  rfl

theorem hostWrite_written {x : Rood} (quiet : x.quiet = false) (cache : x.cacheOff = false) (a : Nat) (bs : List Byte) :
    x.hostWrite a bs = { x with host := memWrite x.host a bs } := by
  rw [hostWrite_exact quiet, if_neg (by simp [cache])]

/-! ## The rows -/

section
variable {r c : Nat} {ok : Bool} {s : State} {x : Rood} {d : Cmd} {q : CRing} {v : VecIndex} (hw : Works s r x)
include hw

theorem vecQuery_runs (turn : VecTurn s x 0x23 c ok d) :
    ∃ t, exec (.vecQuery r c ok) s = .next t ∧ Becomes t r x ((x.runQuery (ctxOf s) d).pump s.clock.time) := by
  obtain ⟨accepted, passes, next⟩ := turn
  obtain ⟨t, run, becomes⟩ := vecRow_judges (op := 0x23) (ok := ok) (by decide) (by decide) hw accepted
  obtain ⟨-, op, -⟩ := accepted
  rw [judgeVec_query passes next op] at becomes
  exact ⟨t, run, becomes⟩

theorem vecQuery_noIndex (turn : VecTurn s x 0x23 c ok d) (report : CanReport x d q) (ahead : x.dropAhead d = false)
    (none_held : x.vec? d.index = none) :
    ∃ t, exec (.vecQuery r c ok) s = .next t ∧ Ends t r x (x.vecGone d) d q (d.record stBadState) := by
  obtain ⟨t, run, becomes⟩ := vecQuery_runs hw turn
  have plain : x.flagsVec d = false := by simp [Rood.flagsVec, none_held]
  rw [runQuery_noIndex ahead none_held] at becomes
  exact ⟨t, run, ends_of_failVec_plain (f := x.fx) becomes rfl report plain⟩

theorem vecQuery_noQueries (turn : VecTurn s x 0x23 c ok d) (report : CanReport x d q) (ahead : x.dropAhead d = false)
    (held : x.vec? d.index = some v) (len : d.queryLen = d.queries * (4 * v.dim)) (own : d.sharded = false)
    (none_given : d.queries = 0) :
    ∃ t, exec (.vecQuery r c ok) s = .next t ∧
      Ends t r x (x.vecGone d) d q { d.record stOk with
        flagged := d.flagged || v.damaged, nothingDone := true
        result := [0, 0, v.root.commit % 2 ^ 32, v.root.commit / 2 ^ 32] } := by
  obtain ⟨t, run, becomes⟩ := vecQuery_runs hw turn
  obtain ⟨⟨-, op, -⟩, -, -⟩ := turn
  rw [runQuery_noQueries ahead held len own none_given] at becomes
  have ends := ends_of_endVec (z := x.vecGone d) (f := x.fx) becomes rfl report rfl rfl
  rw [flagsVec_query op held] at ends
  exact ⟨t, run, ends⟩

theorem vecQuery_sweeps (turn : VecTurn s x 0x23 c ok d) (report : CanReport x d q) (ahead : x.dropAhead d = false)
    (held : x.vec? d.index = some v) (len : d.queryLen = d.queries * (4 * v.dim)) (own : d.sharded = false)
    (some_given : d.queries ≠ 0) (some_bytes : d.queryLen ≠ 0)
    (clean : ∀ k ∈ touchedLines d.queryOff d.queryLen, lookKey k x.stagingBad = none) :
    ∃ t, exec (.vecQuery r c ok) s = .next t ∧
      Becomes t r x (x.querying d v (memReadN x.staging d.queryOff d.queryLen)) := by
  obtain ⟨t, run, becomes⟩ := vecQuery_runs hw turn
  obtain ⟨f, swept⟩ :=
    startSweep_own own (ctxOf s) v (memReadN x.staging d.queryOff d.queryLen) (x.asking (x.count 4 d.queryLen).fx)
  rw [runQuery_sweeps ahead held len own some_given some_bytes clean, count_asking, swept] at becomes
  have posted : NonePosted (((x.asking (x.count 4 d.queryLen).fx).querying d v
    (memReadN x.staging d.queryOff d.queryLen)).asking f) := report.posted
  rw [pump_nonePosted posted] at becomes
  exact ⟨t, run, becomes.unasked rfl⟩

theorem vecSweepDone_ends {o : VecOp} (swept : x.vecOp? c = some o) (cmd : x.cmd? c = some d) (op : d.opcode = 0x23)
    (index : d.index = o.index) (report : CanReport x d q) (sweep : o.sweep = true) (joined : o.waiting = [])
    (held : x.vec? o.index = some v) (own : d.sharded = false) :
    ∃ t, exec (.vecSweepDone r c) s = .next t ∧
      Ends t r x { x.vecGone d with host := memWrite x.host d.resultAddr (o.written v d) } d q
        { d.swept v o with flagged := d.flagged || o.damaged || v.damaged } := by
  obtain ⟨quiet, cache, -, -, -⟩ := id report
  have done : (o.sweep && o.waiting.isEmpty) = true := by simp [sweep, joined]
  have becomes : Becomes (onRood r (fun ctx x => match x.vecOp? c, x.cmd? c with
      | some o, some d => if o.sweep && o.waiting.isEmpty then (x.endSweep ctx.time o d).pump ctx.time else x
      | _, _ => x) s) r x ((x.endSweep s.clock.time o d).pump s.clock.time) := by
    refine onRood_becomes_of hw ?_
    simp only [swept, cmd, done, if_true]
    rfl
  rw [endSweep_own held own, hostWrite_written quiet cache] at becomes
  have ends := ends_of_endVec (d := d.flaggedBy o)
    (z := { x.vecGone d with host := memWrite x.host d.resultAddr (o.written v d) }) (f := x.fx) becomes rfl report rfl rfl
  rw [← index] at held
  rw [flagsVec_query (x := { x with host := memWrite x.host d.resultAddr (o.written v d) }) (d := d.flaggedBy o) op held] at ends
  exact ⟨_, rfl, ends⟩

end

/-- Settles O41, from the start of a sweep over the index as COMMIT shows it and from what its end writes. -/
theorem queriesSweepTheirIndex : Obligations.QueriesSweepTheirIndex := by
  unfold Obligations.QueriesSweepTheirIndex
  refine ⟨fun r c ok s x d q hw turn report ahead => ⟨vecQuery_noIndex hw turn report ahead, fun v held len own =>
    ⟨vecQuery_noQueries hw turn report ahead held len own, fun some_given some_bytes clean => ?sweeps⟩⟩,
    fun r c s x d q v o hw swept cmd op index report sweep joined held own =>
      vecSweepDone_ends hw swept cmd op index report sweep joined held own⟩
  case sweeps =>
    obtain ⟨t, run, becomes⟩ := vecQuery_sweeps hw turn report ahead held len own some_given some_bytes clean
    have answers : (d.sweeping v (memReadN x.staging d.queryOff d.queryLen)).answers =
        (readQueries v.dim (memReadN x.staging d.queryOff d.queryLen)).map (fun z => (v.answer v.root.commit d.vecL z).hits) :=
      List.map_map
    exact ⟨t, _, run, rfl, rfl, rfl, rfl, rfl, rfl, rfl, answers, becomes⟩

end Sys2Proof.Machine
end

section
/-! PROOF. What the work of a rood leaves of the pairs of the chain, and a message that is the next of its pair (R387, R389, R391,
Tables 13.8 and 13.9): it is applied at its rood, and what the rood sends in answer waits to be acknowledged. -/
namespace Sys2Proof.Machine
open Sys2Proof

/-! ## The record of a pair -/

theorem pair_peer (q : Nat) (d : Dev) : (d.pair q).peer = q := by
  unfold Dev.pair
  cases found : d.chain.pairs.find? (fun p => p.peer == q) with
  | none => rfl
  | some p => exact beq_iff_eq.mp (List.find?_some (p := fun p : Pair => p.peer == q) found)

/-- The first record of a peer, in a list where another is replaced by its peer. -/
theorem find_replaced (l : List Pair) (p : Pair) (q : Nat) :
    (l.map (fun k => if k.peer == p.peer then p else k)).find? (fun k => k.peer == q) =
      if q = p.peer then (l.find? (fun k => k.peer == q)).map (fun _ => p) else l.find? (fun k => k.peer == q) := by
  induction l with
  | nil => simp
  | cons a l ih =>
    rw [List.map_cons, List.find?_cons, List.find?_cons, ih]
    by_cases ha : a.peer = p.peer
    · by_cases hq : q = p.peer
      · subst hq; simp [ha]
      · have other : (p.peer == q) = false := by simpa using fun h => hq h.symm
        simp [ha, hq, other]
    · by_cases hq : q = p.peer
      · subst hq
        have other : (a.peer == p.peer) = false := by simpa using ha
        simp [other]
      · simp [ha, hq]

theorem pair_setPair (p : Pair) (q : Nat) (d : Dev) : (d.setPair p).pair q = if q = p.peer then p else d.pair q := by
  unfold Dev.setPair Dev.pair
  dsimp only
  by_cases known : d.chain.pairs.any (fun k => k.peer == p.peer) = true
  · rw [if_pos known, find_replaced]
    split
    · next same =>
      obtain ⟨k, found⟩ := Option.isSome_iff_exists.mp (List.find?_isSome.trans List.any_eq_true.symm |>.mpr known)
      rw [same, found]
      rfl
    · rfl
  · rw [if_neg known, List.find?_append]
    split
    · next same =>
      have absent : d.chain.pairs.find? (fun k => k.peer == p.peer) = none :=
        List.find?_eq_none.mpr (fun k hk found => known (List.any_eq_true.mpr ⟨k, hk, found⟩))
      rw [same, absent]
      simp
    · next other =>
      have unlike : (p.peer == q) = false := by simpa using fun h => other h.symm
      simp [unlike]

/-! ## What sending leaves (R389, R391) -/

/-- The links stay, and so does what every pair has received. -/
structure ChainKeeps (d e : Dev) : Prop where
  only : FxOnly d e
  ports : e.chain.ports = d.chain.ports
  received : ∀ q, (e.pair q).rxSeq = (d.pair q).rxSeq ∧ (e.pair q).rxEpoch = (d.pair q).rxEpoch ∧ (e.pair q).held = (d.pair q).held

theorem ChainKeeps.refl (d : Dev) : ChainKeeps d d := ⟨.refl d, rfl, fun _ => ⟨rfl, rfl, rfl⟩⟩

theorem ChainKeeps.trans {a b c : Dev} (h : ChainKeeps a b) (k : ChainKeeps b c) : ChainKeeps a c := by
  refine ⟨h.only.trans k.only, k.ports.trans h.ports, fun q => ?_⟩
  obtain ⟨seq, epoch, held⟩ := h.received q
  obtain ⟨seq', epoch', held'⟩ := k.received q
  exact ⟨seq'.trans seq, epoch'.trans epoch, held'.trans held⟩

/-- A record of a pair that changes on the sending side alone. -/
theorem ChainKeeps.setPair {p : Pair} {d : Dev} (seq : p.rxSeq = (d.pair p.peer).rxSeq) (epoch : p.rxEpoch = (d.pair p.peer).rxEpoch)
    (held : p.held = (d.pair p.peer).held) : ChainKeeps d (d.setPair p) := by
  refine ⟨setPair_fxOnly _ _, rfl, fun q => ?_⟩
  rw [pair_setPair]
  split
  · next same =>
    subst same
    exact ⟨seq, epoch, held⟩
  · exact ⟨rfl, rfl, rfl⟩

/-- A change of the device outside its chain. -/
theorem ChainKeeps.of_chain {d e : Dev} (only : FxOnly d e) (chain : e.chain = d.chain) : ChainKeeps d e := by
  have pairs : ∀ q, e.pair q = d.pair q := fun q => by rw [Dev.pair, Dev.pair, chain]
  exact ⟨only, by rw [chain], fun q => by rw [pairs q]; exact ⟨rfl, rfl, rfl⟩⟩

theorem reaches_congr {d e : Dev} (h : ChainKeeps d e) (p : Nat) : e.reaches p = d.reaches p := by
  have phase := h.only.phase
  have image := h.only.image
  have licence := h.only.licence
  have ports := h.ports
  have up : ∀ n, e.portUp n = d.portUp n := fun n => by rw [Dev.portUp, Dev.portUp, ports]
  have legal : ∀ n, e.routeOk n = d.routeOk n := fun n => by simp only [Dev.routeOk, Dev.licensedPorts, licence]
  have route : e.route p = d.route p := by simp only [Dev.route, up, legal, image]
  simp only [Dev.reaches, Dev.ready, Dev.number, phase, image, route]

theorem transmit_keeps (m : ChainMsg) (d : Dev) : ChainKeeps d (d.transmit m) := by
  unfold Dev.transmit
  split
  · exact .refl d
  · have peer := pair_peer m.dst d
    exact ChainKeeps.trans (.setPair (p := { d.pair m.dst with owesAck := false }) (by rw [peer]) (by rw [peer]) (by rw [peer]))
      (.of_chain rfl rfl)

theorem enqueue_keeps (m : ChainMsg) (d : Dev) : ChainKeeps d (d.enqueue m) := by
  have peer := pair_peer m.dst d
  unfold Dev.enqueue
  dsimp only
  have queued : ChainKeeps d (d.setPair { d.pair m.dst with
      txNext := seqNext (d.pair m.dst).txNext
      unacked := (d.pair m.dst).unacked ++ [{ m with seq := (d.pair m.dst).txNext, epoch := (d.pair m.dst).txEpoch }] }) :=
    .setPair (by rw [peer]) (by rw [peer]) (by rw [peer])
  split
  · exact queued.trans (transmit_keeps _ _)
  · exact queued

/-- The device once the generator has been drawn from. -/
def Dev.drawn (d : Dev) : Dev := { d with boot := { d.boot with draws := d.boot.draws + 1 } }

/-- The device once a new epoch towards a peer is open, before its HELLO. -/
def Dev.epochOpen (q : Nat) (d : Dev) : Dev :=
  d.drawn.setPair { d.drawn.pair q with txOpen := true, txEpoch := Config.random64 d.boot.draws, txNext := 1, unacked := [] }

theorem openEpoch_eq (q : Nat) (d : Dev) :
    d.openEpoch q = (d.epochOpen q).enqueue (msgMake 0x3E (d.epochOpen q).number q 0 0 0 []) := rfl

theorem epochOpen_keeps (q : Nat) (d : Dev) : ChainKeeps d (d.epochOpen q) := by
  have drawn : ChainKeeps d d.drawn := .of_chain rfl rfl
  have peer := pair_peer q d.drawn
  exact drawn.trans (.setPair (by rw [peer]) (by rw [peer]) (by rw [peer]))

theorem epochOpen_txOpen (q : Nat) (d : Dev) : ((d.epochOpen q).pair q).txOpen = true := by
  unfold Dev.epochOpen
  rw [pair_setPair, if_pos (pair_peer q d.drawn).symm]

theorem openEpoch_keeps (q : Nat) (d : Dev) : ChainKeeps d (d.openEpoch q) := by
  rw [openEpoch_eq]
  exact (epochOpen_keeps q d).trans (enqueue_keeps _ _)

theorem foldl_chainKeeps {α : Type} {f : Dev → α → Dev} (h : ∀ d a, ChainKeeps d (f d a)) (l : List α) (d : Dev) :
    ChainKeeps d (l.foldl f d) := by
  induction l generalizing d with
  | nil => exact .refl d
  | cons a l ih => exact (h d a).trans (ih _)

theorem chainSend_keeps (p t r q o : Nat) (b : List Byte) (d : Dev) : ChainKeeps d (d.chainSend p t r q o b) := by
  unfold Dev.chainSend
  split
  · exact .refl d
  · refine ChainKeeps.trans ?_ (foldl_chainKeeps (fun d c => enqueue_keeps _ d) _ _)
    split
    · exact .refl d
    · exact openEpoch_keeps _ _

theorem applyFx_keeps (r : Nat) (f : Fx) (d : Dev) : ChainKeeps d (d.applyFx r f) := by
  have only := applyFx_fxOnly r f d
  cases f with
  | chain p t q o b => exact chainSend_keeps _ _ _ _ _ _ _
  | assigned slot p i n =>
    refine .of_chain only ?_
    unfold Dev.applyFx
    dsimp only
    split <;> rfl
  | op => exact ⟨only, rfl, fun q => ⟨rfl, rfl, rfl⟩⟩
  | log e => exact .of_chain only rfl
  | out o => exact .of_chain only rfl
  | count k n => exact .of_chain only rfl
  | internal k => exact .of_chain only rfl
  | programmed c l b => exact .of_chain only rfl
  | retire c l b => exact .of_chain only rfl
  | pagesRead c l b n => exact .of_chain only rfl
  | start l => exact .of_chain only rfl
  | draw => exact .of_chain only rfl

theorem foldr_chainKeeps (r : Nat) (l : List Fx) (d : Dev) : ChainKeeps d (l.foldr (fun f d => d.applyFx r f) d) := by
  induction l with
  | nil => exact .refl d
  | cons f l ih => exact ih.trans (applyFx_keeps _ _ _)

/-! ## A message that waits for its acknowledgement (R389) -/

/-- A message of an open epoch that has not been acknowledged. -/
def Dev.awaits (q : Nat) (k : ChainMsg) (d : Dev) : Prop := (d.pair q).txOpen = true ∧ k ∈ (d.pair q).unacked

section
variable {q : Nat} {k : ChainMsg} {d : Dev}

/-- A pair whose record keeps its epoch and its messages goes on waiting for them. -/
theorem awaits_setPair (h : d.awaits q k) {p : Pair} (kept : p.peer = q → p.txOpen = true ∧ k ∈ p.unacked) :
    (d.setPair p).awaits q k := by
  unfold Dev.awaits
  rw [pair_setPair]
  split
  · next same => exact kept same.symm
  · exact h

theorem awaits_transmit (h : d.awaits q k) (m : ChainMsg) : (d.transmit m).awaits q k := by
  unfold Dev.transmit
  split
  · exact h
  · refine awaits_setPair h (fun same => ?_)
    have dst : m.dst = q := (pair_peer m.dst d).symm.trans same
    subst dst
    exact h

theorem awaits_enqueue (h : d.awaits q k) (m : ChainMsg) : (d.enqueue m).awaits q k := by
  have queued : ∀ u : ChainMsg, (d.setPair { d.pair m.dst with
      txNext := seqNext (d.pair m.dst).txNext, unacked := (d.pair m.dst).unacked ++ [u] }).awaits q k := by
    refine fun u => awaits_setPair h (fun same => ?_)
    have dst : m.dst = q := (pair_peer m.dst d).symm.trans same
    subst dst
    exact ⟨h.1, List.mem_append_left _ h.2⟩
  unfold Dev.enqueue
  dsimp only
  split
  · exact awaits_transmit (queued _) _
  · exact queued _

theorem awaits_epochOpen (h : d.awaits q k) {p : Nat} (other : p ≠ q) : (d.epochOpen p).awaits q k := by
  have drawn : d.drawn.awaits q k := h
  exact awaits_setPair drawn (fun same => absurd ((pair_peer p d.drawn).symm.trans same) other)

/-- A new epoch towards another peer ends no wait. -/
theorem awaits_openEpoch (h : d.awaits q k) {p : Nat} (other : p ≠ q) : (d.openEpoch p).awaits q k := by
  rw [openEpoch_eq]
  exact awaits_enqueue (awaits_epochOpen h other) _

theorem awaits_foldl_enqueue {α : Type} (f : Dev → α → ChainMsg) (l : List α) (h : d.awaits q k) :
    (l.foldl (fun d a => d.enqueue (f d a)) d).awaits q k := by
  induction l generalizing d with
  | nil => exact h
  | cons a l ih => exact ih (awaits_enqueue h _)

theorem awaits_chainSend (h : d.awaits q k) (p t r s o : Nat) (b : List Byte) : (d.chainSend p t r s o b).awaits q k := by
  unfold Dev.chainSend
  split
  · exact h
  · refine awaits_foldl_enqueue (fun d c => msgMake t d.number p r s o c) _ ?_
    split
    · exact h
    · next closed =>
      refine awaits_openEpoch h (fun same => closed ?_)
      rw [same]
      exact h.1

theorem awaits_applyFx (h : d.awaits q k) (r : Nat) (f : Fx) : (d.applyFx r f).awaits q k := by
  cases f with
  | chain p t s o b => exact awaits_chainSend h _ _ _ _ _ _
  | assigned slot p i n =>
    unfold Dev.applyFx
    dsimp only
    split
    · exact h
    · exact h
  | _ => exact h

theorem awaits_foldr (r : Nat) (l : List Fx) (h : d.awaits q k) : (l.foldr (fun f d => d.applyFx r f) d).awaits q k := by
  induction l with
  | nil => exact h
  | cons f l ih => exact awaits_applyFx ih r f

end

/-! ## What is sent waits (R387, R389) -/

/-- The payloads of the messages that carry a payload. -/
def chainParts (payload : List Byte) : List (List Byte) := if payload.isEmpty then [[]] else chunks chainPayload payload

/-- The message of a pair with its number. -/
def Dev.numbered (m : ChainMsg) (d : Dev) : ChainMsg :=
  { m with seq := (d.pair m.dst).txNext, epoch := (d.pair m.dst).txEpoch }

/-- The device once a message of an open epoch has its place among those that wait. -/
def Dev.queued (m : ChainMsg) (d : Dev) : Dev :=
  d.setPair { d.pair m.dst with
    txNext := seqNext (d.pair m.dst).txNext, unacked := (d.pair m.dst).unacked ++ [d.numbered m] }

theorem enqueue_eq (m : ChainMsg) (d : Dev) :
    d.enqueue m = if (d.pair m.dst).unacked.length < chainWindow then (d.queued m).transmit (d.numbered m) else d.queued m := rfl

/-- A message that joins an open epoch waits. -/
theorem enqueue_awaits {m : ChainMsg} {d : Dev} (opened : (d.pair m.dst).txOpen = true) :
    (d.enqueue m).awaits m.dst (d.numbered m) := by
  have queued : (d.queued m).awaits m.dst (d.numbered m) := by
    unfold Dev.queued Dev.awaits
    rw [pair_setPair, if_pos (pair_peer m.dst d).symm]
    exact ⟨opened, List.mem_append_right _ (List.mem_singleton.mpr rfl)⟩
  rw [enqueue_eq]
  split
  · exact awaits_transmit queued _
  · exact queued

/-- Of the messages of a payload that an open epoch carries, each waits. -/
theorem foldl_enqueue_awaits {q : Nat} {f : Dev → List Byte → ChainMsg} (dst : ∀ d c, (f d c).dst = q) {l : List (List Byte)}
    {c : List Byte} (part : c ∈ l) {d : Dev} (opened : (d.pair q).txOpen = true) :
    ∃ e : Dev, (l.foldl (fun d c => d.enqueue (f d c)) d).awaits q (e.numbered (f e c)) := by
  induction l generalizing d with
  | nil => cases part
  | cons b l ih =>
    have first := enqueue_awaits (m := f d b) (d := d) (by rw [dst]; exact opened)
    rw [dst] at first
    rcases List.mem_cons.mp part with rfl | later
    · exact ⟨d, awaits_foldl_enqueue f l first⟩
    · obtain ⟨still_open, -⟩ := first
      exact ih later still_open

/-- A payload that is sent where a route leads waits, part by part. -/
theorem chainSend_awaits {p : Nat} {d : Dev} (route : d.reaches p = true) (t r s o : Nat) {b c : List Byte}
    (part : c ∈ chainParts b) :
    ∃ k, (d.chainSend p t r s o b).awaits p k ∧ k.typ = t ∧ k.srcRood = r ∧ k.dstRood = s ∧ k.op = o ∧ k.payload = c := by
  unfold Dev.chainSend
  rw [if_neg (by simp [route])]
  have opened : ((if (d.pair p).txOpen then d else d.openEpoch p).pair p).txOpen = true := by
    split
    · next is_open => exact is_open
    · have hello := enqueue_awaits (m := msgMake 0x3E (d.epochOpen p).number p 0 0 0 []) (epochOpen_txOpen p d)
      exact hello.1
  obtain ⟨e, waits⟩ := foldl_enqueue_awaits (f := fun d c => msgMake t d.number p r s o c) (fun _ _ => rfl) part opened
  exact ⟨_, waits, rfl, rfl, rfl, rfl, rfl⟩

/-- What a rood asks to be sent, where a route leads, waits once its requests have left. -/
theorem foldr_awaits {l : List Fx} {p t s o : Nat} {b : List Byte} (asked : .chain p t s o b ∈ l) {d : Dev}
    (route : d.reaches p = true) (r : Nat) {c : List Byte} (part : c ∈ chainParts b) :
    ∃ k, (l.foldr (fun f d => d.applyFx r f) d).awaits p k ∧ k.typ = t ∧ k.srcRood = r ∧ k.dstRood = s ∧ k.op = o ∧
      k.payload = c := by
  induction l with
  | nil => cases asked
  | cons f l ih =>
    rcases List.mem_cons.mp asked with rfl | later
    · exact chainSend_awaits ((reaches_congr (foldr_chainKeeps r l d) p).trans route) t r s o part
    · obtain ⟨k, waits, same⟩ := ih later
      exact ⟨k, awaits_applyFx waits r f, same⟩

/-! ## A message in its turn (R389) -/

/-- What makes a message the next of its pair. -/
structure Dev.NextOf (d : Dev) (m : ChainMsg) : Prop where
  crc : msgCrcOk m = true
  seq : m.seq ≠ 0
  opened : (d.pair m.src).rxOpen = true
  epoch : (d.pair m.src).rxEpoch = m.epoch
  ahead : seqAhead (d.pair m.src).rxSeq m.seq = 1
  unanswered : (d.pair m.src).unacked.all (fun u => u.seq != m.ack) = true
  alone : (d.pair m.src).held = []

/-- Types of messages for a rood. -/
def roodTypes : List Nat :=
  [0x01, 0x02, 0x03, 0x04, 0x05, 0x06, 0x07, 0x10, 0x11, 0x12, 0x20, 0x21, 0x22, 0x23, 0x24, 0x25, 0x26, 0x27, 0x28, 0x29]

theorem takeAck_unanswered {d : Dev} {m : ChainMsg} (unanswered : (d.pair m.src).unacked.all (fun u => u.seq != m.ack) = true) :
    d.takeAck m = d := by
  have none_acked : (d.pair m.src).unacked.findIdx? (fun u => u.seq == m.ack) = none := by
    rw [List.findIdx?_eq_none_iff]
    intro u hu
    simpa using List.all_eq_true.mp unanswered u hu
  unfold Dev.takeAck
  simp only [none_acked]

/-- The work of a rood leaves what every pair has received. -/
theorem atRood_received (r : Nat) (f : Ctx → Rood → Rood) (now : W64) (q : Nat) (d : Dev) :
    ((d.atRood r f now).pair q).rxSeq = (d.pair q).rxSeq ∧ ((d.atRood r f now).pair q).rxEpoch = (d.pair q).rxEpoch ∧
      ((d.atRood r f now).pair q).held = (d.pair q).held := by
  unfold Dev.atRood
  split
  · exact (foldr_chainKeeps _ _ (d.setRood _)).received q
  · exact ⟨rfl, rfl, rfl⟩

/-- What a rood asks to be sent, where a route leads, waits once its work is done. -/
theorem atRood_awaits {d : Dev} {r : Nat} {x : Rood} {f : Ctx → Rood → Rood} {now : W64} (rood : d.rood? r = some x)
    {p t s o : Nat} {b c : List Byte} (asked : .chain p t s o b ∈ (f ⟨now, d⟩ x).fx) (route : d.reaches p = true)
    (part : c ∈ chainParts b) :
    ∃ k ∈ ((d.atRood r f now).pair p).unacked, k.typ = t ∧ k.srcRood = r ∧ k.dstRood = s ∧ k.op = o ∧ k.payload = c := by
  unfold Dev.atRood
  rw [rood]
  obtain ⟨k, ⟨-, waits⟩, typ, src, rest⟩ := foldr_awaits asked (d := d.setRood (x.inPlace (f ⟨now, d⟩ x)).flushed) route x.num part
  exact ⟨k, waits, typ, src.trans (rood?_num rood), rest⟩

theorem advance_pair (m : ChainMsg) (d : Dev) :
    (d.advance m).pair m.src = { d.pair m.src with rxSeq := m.seq, owesAck := true } := by
  unfold Dev.advance
  rw [pair_setPair, if_pos (pair_peer m.src d).symm]

theorem applyHeld_none {d : Dev} {q : Nat} (alone : (d.pair q).held = []) (now : W64) (fuel : Nat) : d.applyHeld now q fuel = d := by
  cases fuel with
  | zero => rfl
  | succ fuel =>
    unfold Dev.applyHeld
    simp only [alone, List.find?_nil]

/-- The next message of its pair is applied at the rood that it names. -/
theorem arrive_next {d : Dev} {m : ChainMsg} {x : Rood} (h : d.NextOf m) (typ : m.typ ∈ roodTypes) (live : d.roodsLive = true)
    (rood : d.rood? m.dstRood = some x) (now : W64) :
    d.arrive now m = (d.advance m).atRood m.dstRood (Rood.applyMsg m) now := by
  have current : ((d.pair m.src).rxOpen && (d.pair m.src).rxEpoch == m.epoch) = true := by simp [h.opened, h.epoch]
  have known : knownTypes.contains m.typ = true ∧ m.typ ≠ 0x3F ∧ m.typ ≠ 0x3E := by
    revert typ
    generalize m.typ = n
    revert n
    decide
  obtain ⟨listed, not_ack, not_hello⟩ := known
  have applied : (d.advance m).applyMsg now m = (d.advance m).atRood m.dstRood (Rood.applyMsg m) now := by
    have stands : (if (d.advance m).roodsLive then (d.advance m).rood? m.dstRood else none) = some x := by
      rw [if_pos (show (d.advance m).roodsLive = true from live)]
      exact rood
    simp only [Dev.applyMsg, listed, stands, Bool.not_true, Bool.false_eq_true, if_false]
  have numbered : d.takeNumbered now m = ((d.advance m).applyMsg now m).applyHeld now m.src 64 := by
    simp only [Dev.takeNumbered, h.opened, h.epoch, h.seq, h.ahead, Bool.not_true, Bool.false_eq_true, ne_eq, not_true_eq_false,
      or_self, if_false, if_true]
  obtain ⟨-, -, kept⟩ := atRood_received m.dstRood (Rood.applyMsg m) now m.src (d.advance m)
  have held : (((d.advance m).atRood m.dstRood (Rood.applyMsg m) now).pair m.src).held = [] := by
    rw [kept, advance_pair]
    exact h.alone
  simp only [Dev.arrive, h.crc, not_ack, not_hello, current, Bool.not_true, Bool.false_eq_true, if_false, if_true,
    takeAck_unanswered h.unanswered, numbered, applied]
  exact applyHeld_none held now 64

/-! ## A message that a rood hears -/

/-- What a message for a rood does: it is applied, its rood stands as its work leaves it, and the parts of what the rood sends its
peer in answer wait. -/
structure Heeds (s t : State) (m : ChainMsg) (x : Rood) (ctx : Ctx) : Prop where
  applied : Applied s t m
  becomes : Becomes t m.dstRood x (x.applyMsg m ctx)
  replies : ∀ typ b, .chain m.src typ m.srcRood m.op b ∈ (x.applyMsg m ctx).fx → ∀ c ∈ chainParts b, Replied s t m typ c

theorem NextInTurn.nextOf {s : State} {typ : Nat} {m : ChainMsg} (h : NextInTurn s typ m) : s.dev.NextOf m := by
  obtain ⟨-, -, crc, seq, opened, epoch, ahead, unanswered, alone⟩ := h
  exact ⟨crc, seq, opened, epoch, ahead, unanswered, alone⟩

/-- A message that arrives at the device where only the NAND may have worn since (R383). -/
theorem heeds_arrive {s : State} {typ : Nat} {m : ChainMsg} {x : Rood} (h : Heard s typ m x) (listed : typ ∈ roodTypes) {d : Dev}
    (worn : d = { s.dev with flash := d.flash }) :
    Heeds s { s with dev := Dev.signal s.dev (d.arrive s.clock.time m) } m x ⟨s.clock.time, d.advance m⟩ := by
  obtain ⟨turn, live, rood⟩ := h
  have next := turn.nextOf
  obtain ⟨rfl, -⟩ := turn
  have nextHere : d.NextOf m := by rw [worn]; exact ⟨next.crc, next.seq, next.opened, next.epoch, next.ahead, next.unanswered, next.alone⟩
  have roodHere : (d.advance m).rood? m.dstRood = some x := by rw [worn]; exact rood
  have arrived := arrive_next nextHere listed (by rw [worn]; exact live) roodHere s.clock.time
  obtain ⟨seq, epoch, -⟩ := atRood_received m.dstRood (Rood.applyMsg m) s.clock.time m.src (d.advance m)
  have pairs : ∀ e q, (Dev.signal s.dev e).pair q = e.pair q := fun e q => by rw [Dev.pair, Dev.pair, signal_chain]
  constructor
  · refine ⟨?_, ?_, rfl, rfl⟩
    · show ((Dev.signal s.dev _).pair m.src).rxSeq = m.seq
      rw [pairs, arrived, seq, advance_pair]
    · show ((Dev.signal s.dev _).pair m.src).rxEpoch = _
      rw [pairs, arrived, epoch, advance_pair, worn]
      rfl
  · show (Dev.signal s.dev _).rood? m.dstRood = _
    rw [signal_rood?, arrived]
    exact rood_after roodHere _ _
  · intro t b asked c part route
    show ∃ k ∈ ((Dev.signal s.dev _).pair m.src).unacked, _
    rw [pairs, arrived]
    exact atRood_awaits roodHere asked (by rw [worn]; exact route) part

/-- A row of a message for a rood. -/
theorem heeds_recvMsg {s : State} {typ : Nat} {m : ChainMsg} {x : Rood} (h : Heard s typ m x) (listed : typ ∈ roodTypes) :
    Heeds s (recvMsg typ m s) m x ⟨s.clock.time, s.dev.advance m⟩ := by
  have heeds := heeds_arrive h listed (d := s.dev) rfl
  obtain ⟨⟨typ_eq, hears, -⟩, -⟩ := h
  have heard : recvMsg typ m s = { s with dev := Dev.signal s.dev (s.dev.arrive s.clock.time m) } := by
    unfold recvMsg onDev
    dsimp only
    rw [if_pos ⟨typ_eq, hears⟩]
  rw [heard]
  exact heeds

end Sys2Proof.Machine
end

section
/-! PROOF. What a rood that hears a message makes of it, and the messages of a shard of a vector index (R366 to R368, R387, Table
13.9). -/
namespace Sys2Proof.Machine
open Sys2Proof

/-! ## A rood that hears a message (R387, Table 18.4) -/

/-- The rood that has counted a message. -/
def Rood.counted (m : ChainMsg) (x : Rood) : Rood := (x.heard m).asking (x.count 10 1).fx

/-- Only what a rood counts, and what it asks for, differ. -/
def CountsOnly (x y : Rood) : Prop := y = { x with tally := y.tally, fx := y.fx }

theorem CountsOnly.trans {x y z : Rood} (h : CountsOnly x y) (k : CountsOnly y z) : CountsOnly x z := by
  unfold CountsOnly at *
  rw [k, h]

theorem heard_counts (m : ChainMsg) (x : Rood) : CountsOnly x (x.heard m) := by
  unfold Rood.heard
  rfl

theorem sent_counts (n : Nat) (x : Rood) : CountsOnly x (x.sent n) := by
  unfold Rood.sent
  rfl

theorem scoring_counts (n : Nat) (x : Rood) : CountsOnly x (x.scoring n) := by
  unfold Rood.scoring Rood.mapTally
  rfl

theorem asking_counts (f : List Fx) (x : Rood) : CountsOnly x (x.asking f) := rfl

theorem CountsOnly.vecs {x y : Rood} (h : CountsOnly x y) : y.vecs = x.vecs := by rw [h]
theorem CountsOnly.slots {x y : Rood} (h : CountsOnly x y) : y.slots = x.slots := by rw [h]
theorem CountsOnly.kv {x y : Rood} (h : CountsOnly x y) : y.kv = x.kv := by rw [h]
theorem CountsOnly.vecOps {x y : Rood} (h : CountsOnly x y) : y.vecOps = x.vecOps := by rw [h]
theorem CountsOnly.cmds {x y : Rood} (h : CountsOnly x y) : y.cmds = x.cmds := by rw [h]

section
variable {s t : State} {m : ChainMsg} {x y : Rood} {ctx : Ctx} {f : List Fx} (h : Heeds s t m x ctx)
include h

/-- The rood becomes what its work makes of it, whatever it asks for besides. -/
theorem Heeds.becomes_of (work : x.applyMsg m ctx = y.asking f) : Becomes t m.dstRood x y := by
  have becomes := h.becomes
  rw [work] at becomes
  exact becomes

end

theorem chunksAux_nil (n fuel : Nat) : chunksAux n fuel [] = [] := by
  cases fuel <;> rfl

/-- Bytes that one piece holds are one piece. -/
theorem chunks_one {n : Nat} {bs : List Byte} (some_bytes : bs ≠ []) (fits : bs.length ≤ n) : chunks n bs = [bs] := by
  cases bs with
  | nil => exact absurd rfl some_bytes
  | cons b bs =>
    rw [chunks, List.length_cons, chunksAux, if_neg (by simp), List.take_of_length_le fits, List.drop_of_length_le fits,
      chunksAux_nil]

/-- A payload that one message holds is one message. -/
theorem mem_chainParts {b : List Byte} (fits : b.length ≤ chainPayload) : b ∈ chainParts b := by
  unfold chainParts
  generalize chainPayload = n at fits ⊢
  split
  · next none_given => simpa using none_given
  · next some_given => simp [chunks_one (by simpa using some_given) fits]

/-- Every payload leaves in some message. -/
theorem exists_chainPart (b : List Byte) : ∃ c, c ∈ chainParts b := by
  unfold chainParts
  generalize chainPayload = n
  cases b with
  | nil => exact ⟨[], List.mem_singleton.mpr rfl⟩
  | cons a b => exact ⟨_, List.mem_cons_self⟩

/-- The tally once bytes have been sent. -/
def Tally.plusSent (n : Nat) (t : Tally) : Tally := { t with chainBytesOut := t.chainBytesOut + n }

theorem asked_asking (e : Fx) (i n k : Nat) (x : Rood) :
    ((x.ask e).count i n).mapTally (Tally.plusSent k) = (x.sent k).asking ((x.ask e).count i n).fx := by
  rw [count_asking]
  rfl

theorem asked_asks (e : Fx) (i n k : Nat) (x : Rood) : e ∈ (((x.ask e).count i n).mapTally (Tally.plusSent k)).fx := by
  rw [asked_asking]
  show e ∈ ((x.ask e).count i n).fx
  unfold Rood.count
  split
  · exact List.mem_cons_self
  · exact List.mem_cons_of_mem _ List.mem_cons_self

theorem sendChain_eq (p t r o : Nat) (b : List Byte) (x : Rood) :
    x.sendChain p t r o b =
      ((x.ask (.chain p t r o b)).count 9 (max 1 (ceilDiv b.length chainPayload))).mapTally (Tally.plusSent b.length) := rfl

/-- A message that a rood sends is counted, and asked for. -/
theorem sendChain_asking (p t r o : Nat) (b : List Byte) (x : Rood) : ∃ f, x.sendChain p t r o b = (x.sent b.length).asking f := by
  rw [sendChain_eq]
  exact ⟨_, asked_asking _ _ _ _ _⟩

theorem sendChain_asks (p t r o : Nat) (b : List Byte) (x : Rood) : .chain p t r o b ∈ (x.sendChain p t r o b).fx := by
  rw [sendChain_eq]
  exact asked_asks _ _ _ _ _

section
variable {s t : State} {m : ChainMsg} {x y : Rood} {ctx : Ctx} {f : List Fx} (h : Heeds s t m x ctx)
include h

/-- An answer is counted as sent, and each of its parts waits. -/
theorem Heeds.answers {typ : Nat} {b : List Byte}
    (work : x.applyMsg m ctx = (y.asking f).sendChain m.src typ m.srcRood m.op b) :
    Becomes t m.dstRood x (y.sent b.length) ∧ ∀ c ∈ chainParts b, Replied s t m typ c := by
  obtain ⟨g, sends⟩ := sendChain_asking m.src typ m.srcRood m.op b (y.asking f)
  refine ⟨h.becomes_of (y := y.sent b.length) (f := g) (work.trans sends), h.replies typ b ?_⟩
  rw [work]
  exact sendChain_asks _ _ _ _ _ _

/-- An answer that carries nothing leaves the rood as it is. -/
theorem Heeds.answers_empty {typ : Nat} (work : x.applyMsg m ctx = (y.asking f).sendChain m.src typ m.srcRood m.op []) :
    Becomes t m.dstRood x y ∧ Replied s t m typ [] := by
  obtain ⟨becomes, replied⟩ := h.answers work
  exact ⟨becomes, replied [] (mem_chainParts (Nat.zero_le _))⟩

end

/-! ## VEC_REQ (R366, R387) -/

/-- A request has all its bytes. -/
def RequestWhole (b : List Byte) : Prop := 16 ≤ b.length ∧ 16 + u32At 8 b * (4 * (u32At 0 b >>> 16)) ≤ b.length

section
variable {y : Rood} {ctx : Ctx} {src srcRood op : Nat} {b : List Byte}

theorem takeRequest_holds (first : y.vecReqs = []) (short : ¬ RequestWhole b) :
    y.takeRequest ctx src srcRood op b = { y with vecReqs := [(src, op, b)] } := by
  simp only [Rood.takeRequest, first, List.find?_nil, Option.map_none, Option.getD_none, List.nil_append, List.filter_nil]
  exact if_neg short

theorem takeRequest_serves (first : y.vecReqs = []) (whole : RequestWhole b) :
    y.takeRequest ctx src srcRood op b = y.serve ctx src srcRood op b := by
  have cleared : ({ y with vecReqs := [] } : Rood) = y := by rw [← first]
  simp only [Rood.takeRequest, first, List.find?_nil, Option.map_none, Option.getD_none, List.nil_append, List.filter_nil, cleared]
  exact if_pos whole

theorem serve_refuses (refused : y.mayServe ctx src b = none) :
    y.serve ctx src srcRood op b = y.sendChain src 0x12 srcRood op [] := by
  simp only [Rood.serve, refused]

/-- A request that is served is swept, and its lists are sent. -/
theorem serve_answers {v : VecIndex} (served : y.mayServe ctx src b = some v) :
    ∃ n f l, y.serve ctx src srcRood op b = ((y.scoring n).asking f).sendChain src 0x11 srcRood op l := by
  obtain ⟨f, swept⟩ :=
    sweep_asking v v.root.commit (u16At 6 b) op ((readQueries v.dim (b.drop 16)).take (u32At 8 b)) y
  simp only [Rood.serve, served, swept]
  exact ⟨_, f, _, rfl⟩

end

section
variable {m : ChainMsg} {s : State} {x : Rood} (heard : Heard s 0x10 m x) (first : x.vecReqs = [])
include heard

theorem applyMsg_request (ctx : Ctx) :
    x.applyMsg m ctx = (x.counted m).takeRequest ctx m.src m.srcRood m.op m.payload := by
  obtain ⟨⟨typ, -⟩, -⟩ := heard
  rw [Rood.applyMsg, typ]
  rfl

include first

theorem vecReq_holds (short : ¬ RequestWhole m.payload) :
    ∃ t, exec (.vecReq m) s = .next t ∧ Applied s t m ∧
      Becomes t m.dstRood x (({ x with vecReqs := [(m.src, m.op, m.payload)] } : Rood).heard m) := by
  have heeds := heeds_recvMsg heard (by decide)
  refine ⟨_, rfl, heeds.applied, heeds.becomes_of (f := (x.count 10 1).fx) ?_⟩
  rw [applyMsg_request heard, takeRequest_holds (y := x.counted m) first short]
  rfl

theorem vecReq_refuses (whole : RequestWhole m.payload) (refused : x.mayServe (ctxOf s) m.src m.payload = none) :
    ∃ t, exec (.vecReq m) s = .next t ∧ Applied s t m ∧ Becomes t m.dstRood x (x.heard m) ∧ Replied s t m 0x12 [] := by
  have heeds := heeds_recvMsg heard (by decide)
  refine ⟨_, rfl, heeds.applied, heeds.answers_empty (y := x.heard m) (f := (x.count 10 1).fx) ?_⟩
  have here : (x.counted m).mayServe ⟨s.clock.time, s.dev.advance m⟩ m.src m.payload = none := refused
  rw [applyMsg_request heard, takeRequest_serves (y := x.counted m) first whole, serve_refuses here]
  rfl

theorem vecReq_answers (whole : RequestWhole m.payload) {v : VecIndex} (served : x.mayServe (ctxOf s) m.src m.payload = some v) :
    ∃ t y l, exec (.vecReq m) s = .next t ∧ Applied s t m ∧ Replied s t m 0x11 l ∧ Becomes t m.dstRood x y ∧ y.vecs = x.vecs ∧
      y.slots = x.slots ∧ y.kv = x.kv ∧ y.vecOps = x.vecOps ∧ y.cmds = x.cmds := by
  have heeds := heeds_recvMsg heard (by decide)
  have here : (x.counted m).mayServe ⟨s.clock.time, s.dev.advance m⟩ m.src m.payload = some v := served
  obtain ⟨n, f, l, answers⟩ := serve_answers (srcRood := m.srcRood) (op := m.op) here
  obtain ⟨c, part⟩ := exists_chainPart l
  obtain ⟨becomes, replied⟩ := heeds.answers (y := (x.counted m).scoring n) (f := f) (typ := 0x11) (b := l) (by
    rw [applyMsg_request heard, takeRequest_serves (y := x.counted m) first whole, answers])
  have counted : CountsOnly x (x.counted m) := (heard_counts m x).trans (asking_counts _ _)
  have only : CountsOnly x (((x.counted m).scoring n).sent l.length) :=
    counted.trans ((scoring_counts n _).trans (sent_counts l.length _))
  exact ⟨_, _, c, rfl, heeds.applied, replied c part, becomes, only.vecs, only.slots, only.kv, only.vecOps, only.cmds⟩

end

/-! ## VEC_LIST and VEC_REFUSE (R367, R368) -/

/-- The sweep once more bytes of a peer's list have come: the list is held until it is whole, and then joins. -/
def VecOp.listed (peer : Nat) (all : List Byte) (o : VecOp) : VecOp :=
  match readLists o.count all with
  | none => { o with joined := putKey peer all o.joined }
  | some l => { o with
      joined := delKey peer o.joined, waiting := o.waiting.filter (fun i => i != peer), lists := o.lists ++ [(peer, l)] }

section
variable {peer : Nat} {all : List Byte} {o : VecOp}

theorem listed_part (part : readLists o.count all = none) : o.listed peer all = { o with joined := putKey peer all o.joined } := by
  unfold VecOp.listed
  rw [part]

theorem listed_whole {l : List (List VecHit)} (whole : readLists o.count all = some l) :
    o.listed peer all = { o with
      joined := delKey peer o.joined, waiting := o.waiting.filter (fun i => i != peer), lists := o.lists ++ [(peer, l)] } := by
  unfold VecOp.listed
  rw [whole]

end

theorem listed_cmd (peer : Nat) (all : List Byte) (o : VecOp) : (o.listed peer all).cmd = o.cmd := by
  unfold VecOp.listed
  split <;> rfl

theorem takeList_listed {y : Rood} {peer op : Nat} {o : VecOp} (awaited : y.sweepOf peer op = some o) (b : List Byte) :
    y.takeList peer op b = y.setVecOp (o.listed peer (((lookKey peer o.joined).getD []) ++ b)) := by
  simp only [Rood.takeList, awaited, VecOp.listed]
  generalize readLists o.count ((lookKey peer o.joined).getD [] ++ b) = whole
  cases whole with
  | none => rfl
  | some l => rfl

theorem applyMsg_refused {m : ChainMsg} {x : Rood} {o : VecOp} (typ : m.typ = 0x12)
    (awaited : (x.counted m).sweepOf m.src m.op = some o) (ctx : Ctx) :
    x.applyMsg m ctx = (x.counted m).peerFailed ctx.time o := by
  rw [Rood.applyMsg, typ]
  show (match (x.counted m).sweepOf m.src m.op with
    | some o => (x.counted m).peerFailed ctx.time o
    | none => x.counted m) = _
  rw [awaited]

section
variable {m : ChainMsg} {s : State} {x : Rood} {o : VecOp} (awaited : x.sweepOf m.src m.op = some o)
include awaited

theorem vecList_joins (heard : Heard s 0x11 m x) :
    let all := ((lookKey m.src o.joined).getD []) ++ m.payload
    ∃ t, exec (.vecList m) s = .next t ∧ Applied s t m ∧
      Becomes t m.dstRood x (({ x with
        vecOps := x.vecOps.map (fun (k : VecOp) => if k.cmd = o.cmd then o.listed m.src all else k) } : Rood).heard m) := by
  intro all
  have heeds := heeds_recvMsg heard (by decide)
  obtain ⟨⟨typ, -⟩, -⟩ := heard
  have here : (x.counted m).sweepOf m.src m.op = some o := awaited
  refine ⟨_, rfl, heeds.applied, heeds.becomes_of (f := (x.count 10 1).fx) ?_⟩
  have taken : x.applyMsg m ⟨s.clock.time, s.dev.advance m⟩ = (x.counted m).takeList m.src m.op m.payload := by
    rw [Rood.applyMsg, typ]
    rfl
  rw [taken, takeList_listed here, Rood.setVecOp, listed_cmd]
  simp only [beq_iff_eq]
  rfl

theorem vecRefuse_ends (heard : Heard s 0x12 m x) {d : Cmd} {q : CRing} (cmd : x.cmd? o.cmd = some d) (report : CanReport x d q) :
    ∃ t, exec (.vecRefuse m) s = .next t ∧ Applied s t m ∧ Ends t m.dstRood x ((x.vecGone d).heard m) d q { d.record stPeer with
      flagged := d.flagged || (d.opcode == 0x23 && (x.vec? d.index).any (fun v => v.damaged)) } := by
  have heeds := heeds_recvMsg heard (by decide)
  obtain ⟨⟨typ, -⟩, -⟩ := heard
  have here : (x.counted m).sweepOf m.src m.op = some o := awaited
  have cmdHere : (x.counted m).cmd? o.cmd = some d := cmd
  have becomes := heeds.becomes
  rw [applyMsg_refused typ here, peerFailed_fails cmdHere] at becomes
  exact ⟨_, rfl, heeds.applied,
    ends_of_failVec (y := x.counted m) (z := (x.vecGone d).heard m) (f := (x.count 10 1).fx) becomes rfl report⟩

end

end Sys2Proof.Machine
end

section
/-! PROOF. The messages of a shard of a checkpoint (R423 to R425, R427, R429, Table 13.9): a store's part in them, and that of the
rood whose checkpoint it is. -/
namespace Sys2Proof.Machine
open Sys2Proof

/-! ## SHARD_OFFER and SHARD_DATA: what a store makes of a shard (R423, R424) -/

/-- The test of an offered shard that fails, 0 when each passes. -/
def Rood.shardTest (src : Nat) (b : List Byte) (x : Rood) : Nat :=
  if x.offerTest12 src ≠ 0 then x.offerTest12 src
  else if x.shareHolds (extentsOf (4096 + (readShardHdr b).shardLen)) then 0 else 7

/-- The rood once it has made room for the bytes of an offered shard. -/
def Rood.storing (m : ChainMsg) (x : Rood) : Rood :=
  { x with ckp := { x.ckp with incoming := x.ckp.incoming ++
    [{ op := m.op, src := m.src, srcRood := m.srcRood, hdr := readShardHdr m.payload, data := [] }] } }

section
variable {m : ChainMsg} {y : Rood}

theorem takeShardOffer_refuses (failed : y.shardTest m.src m.payload ≠ 0) :
    y.takeShardOffer m.src m.srcRood m.op m.payload =
      y.sendChain m.src 0x22 m.srcRood m.op (leBytes 4 (y.shardTest m.src m.payload)) := if_pos failed

theorem takeShardOffer_accepts (passed : y.shardTest m.src m.payload = 0) :
    y.takeShardOffer m.src m.srcRood m.op m.payload = (y.storing m).sendChain m.src 0x21 m.srcRood m.op [] :=
  if_neg (not_not_intro passed)

end

theorem storeData_grows {y : Rood} {i : ShardIn} {b : List Byte} (only : y.ckp.incoming = [i]) (place : u64At 0 b = i.data.length)
    (short : i.data.length + (b.length - 8) < i.hdr.shardLen) (ctx : Ctx) :
    y.storeData ctx i.src i.op b = { y with ckp := { y.ckp with incoming := [{ i with data := i.data ++ b.drop 8 }] } } := by
  have first : y.ckp.incoming.find? (fun j => j.src == i.src && j.op == i.op) = some i := by simp [only]
  have rest : y.ckp.incoming.filter (fun j => !(j.src == i.src && j.op == i.op)) = [] := by simp [only]
  have more : (i.data ++ b.drop 8).length < i.hdr.shardLen := by
    rw [List.length_append, List.length_drop]
    exact short
  unfold Rood.storeData
  split
  · next absent => rw [first] at absent; cases absent
  · next j found =>
    obtain rfl : i = j := Option.some.inj (first.symm.trans found)
    rw [if_neg (not_not_intro place)]
    refine (if_pos more).trans ?_
    rw [rest]
    rfl

theorem modFetch_none {y : Rood} (idle : y.ckp.restore = none) (ctx : Ctx) (which : Fetch → Bool) (f : Fetch → Option Fetch) :
    y.modFetch ctx which f = y := by
  simp only [Rood.modFetch, idle]

section
variable {m : ChainMsg} {s : State} {x : Rood}

theorem shardOffer_refused (heard : Heard s 0x20 m x) (failed : x.shardTest m.src m.payload ≠ 0) :
    ∃ t, exec (.shardOffer m) s = .next t ∧ Applied s t m ∧ Becomes t m.dstRood x ((x.heard m).sent 4) ∧
      Replied s t m 0x22 (leBytes 4 (x.shardTest m.src m.payload)) := by
  have heeds := heeds_recvMsg heard (by decide)
  obtain ⟨⟨typ, -⟩, -⟩ := heard
  have here : (x.counted m).shardTest m.src m.payload ≠ 0 := failed
  have taken : x.applyMsg m ⟨s.clock.time, s.dev.advance m⟩ = (x.counted m).takeShardOffer m.src m.srcRood m.op m.payload := by
    rw [Rood.applyMsg, typ]
    rfl
  have four : (leBytes 4 (x.shardTest m.src m.payload)).length = 4 := leBytes_length _ _
  obtain ⟨becomes, replied⟩ := heeds.answers (y := x.heard m) (f := (x.count 10 1).fx) (taken.trans (takeShardOffer_refuses here))
  rw [show ((x.counted m).shardTest m.src m.payload) = x.shardTest m.src m.payload from rfl] at becomes replied
  rw [four] at becomes
  exact ⟨_, rfl, heeds.applied, becomes, replied _ (mem_chainParts (by rw [four]; decide))⟩

theorem shardOffer_accepted (heard : Heard s 0x20 m x) (passed : x.shardTest m.src m.payload = 0) :
    ∃ t, exec (.shardOffer m) s = .next t ∧ Applied s t m ∧ Replied s t m 0x21 [] ∧
      Becomes t m.dstRood x ((x.storing m).heard m) := by
  have heeds := heeds_recvMsg heard (by decide)
  obtain ⟨⟨typ, -⟩, -⟩ := heard
  have here : (x.counted m).shardTest m.src m.payload = 0 := passed
  have taken : x.applyMsg m ⟨s.clock.time, s.dev.advance m⟩ = (x.counted m).takeShardOffer m.src m.srcRood m.op m.payload := by
    rw [Rood.applyMsg, typ]
    rfl
  obtain ⟨becomes, replied⟩ := heeds.answers_empty (y := (x.storing m).heard m) (f := (x.count 10 1).fx)
    (taken.trans (takeShardOffer_accepts here))
  exact ⟨_, rfl, heeds.applied, replied, becomes⟩

theorem shardData_stored (heard : Heard s 0x23 m x) {i : ShardIn} (idle : x.ckp.restore = none) (only : x.ckp.incoming = [i])
    (src : i.src = m.src) (op : i.op = m.op) (place : u64At 0 m.payload = i.data.length)
    (short : i.data.length + (m.payload.length - 8) < i.hdr.shardLen) :
    ∃ t, exec (.shardData m) s = .next t ∧ Applied s t m ∧
      Becomes t m.dstRood x (({ x with ckp := { x.ckp with
        incoming := [{ i with data := i.data ++ m.payload.drop 8 }] } } : Rood).heard m) := by
  have heeds := heeds_recvMsg heard (by decide)
  obtain ⟨⟨typ, -⟩, -⟩ := heard
  refine ⟨_, rfl, heeds.applied, heeds.becomes_of (f := (x.count 10 1).fx) ?_⟩
  have taken : ∀ ctx, x.applyMsg m ctx =
      ((x.counted m).storeData ctx m.src m.op m.payload).takeShardData ctx m.src m.op m.payload := fun ctx => by
    rw [Rood.applyMsg, typ]
    rfl
  rw [taken, ← src, ← op, storeData_grows (y := x.counted m) only place short]
  exact modFetch_none (y := ({ x.counted m with ckp := { x.ckp with
    incoming := [{ i with data := i.data ++ m.payload.drop 8 }] } } : Rood)) idle _ _ _

/-! ## INV_REQ and SHARD_GET: what a store holds (R427, R429) -/

theorem invReq_answered (heard : Heard s 0x25 m x) :
    let hs := x.ownShards (ctxOf s) (BitVec.ofNat 64 (u64At 0 m.payload))
    let answer := leBytes 4 hs.length ++ zeros 4 ++ hs.flatMap ShardHdr.bytes
    ∃ t, exec (.invReq m) s = .next t ∧ Applied s t m ∧ Becomes t m.dstRood x ((x.heard m).sent answer.length) ∧
      (answer.length ≤ 65544 → Replied s t m 0x26 answer) := by
  intro hs answer
  have heeds := heeds_recvMsg heard (by decide)
  obtain ⟨⟨typ, -⟩, -⟩ := heard
  have taken : x.applyMsg m ⟨s.clock.time, s.dev.advance m⟩ =
      ((x.heard m).asking (x.count 10 1).fx).sendChain m.src 0x26 m.srcRood m.op answer := by
    rw [Rood.applyMsg, typ]
    rfl
  obtain ⟨becomes, replied⟩ := heeds.answers taken
  exact ⟨_, rfl, heeds.applied, becomes, fun fits => replied answer (mem_chainParts fits)⟩

theorem answerGet_none {y : Rood} {b : List Byte} (absent : y.shardsOf (BitVec.ofNat 64 (u64At 0 b)) (u32At 16 b) = [])
    (ctx : Ctx) (src srcRood op : Nat) : y.answerGet ctx src srcRood op b = y.sendChain src 0x29 srcRood op [] := by
  simp only [Rood.answerGet, absent, List.find?_nil]

theorem shardGet_absent (heard : Heard s 0x27 m x)
    (absent : x.shardsOf (BitVec.ofNat 64 (u64At 0 m.payload)) (u32At 16 m.payload) = []) (w : Wear) :
    ∃ t, exec (.shardGet ⟨m, w⟩) s = .next t ∧ Applied s t m ∧ Becomes t m.dstRood x (x.heard m) ∧ Replied s t m 0x29 [] := by
  have heeds := heeds_arrive heard (by decide) (d := { s.dev with flash := s.dev.flash.wear w }) rfl
  obtain ⟨⟨typ, hears, -⟩, -⟩ := heard
  have here : (x.counted m).shardsOf (BitVec.ofNat 64 (u64At 0 m.payload)) (u32At 16 m.payload) = [] := absent
  have taken : ∀ ctx, x.applyMsg m ctx = (x.counted m).answerGet ctx m.src m.srcRood m.op m.payload := fun ctx => by
    rw [Rood.applyMsg, typ]
    rfl
  obtain ⟨becomes, replied⟩ := heeds.answers_empty (y := x.heard m) (f := (x.count 10 1).fx)
    ((taken _).trans (answerGet_none here _ _ _ _))
  refine ⟨_, (?_ : execShardGet ⟨m, w⟩ s = _), heeds.applied, becomes, replied⟩
  unfold execShardGet onDev
  dsimp only
  rw [if_pos ⟨typ, hears⟩]

/-! ## SHARD_ACCEPT, SHARD_DONE and SHARD_REFUSE: the shards of a checkpoint (R425) -/

theorem shardAccepted_sends {y : Rood} {k : ShardRun} {peer op : Nat} (offered : y.shardOp peer op = some k)
    (waits : k.accepted = false) (some_data : k.data ≠ []) (fits : k.data.length ≤ 65536) :
    y.shardAccepted peer op = (y.modShard peer op (fun k => { k with accepted := true })).sendChain peer 0x23 k.rood op
      (leBytes 8 0 ++ k.data) := by
  simp only [Rood.shardAccepted, offered, waits, chunks_one some_data fits, List.zipIdx_cons, List.zipIdx_nil, List.foldl_cons,
    List.foldl_nil, Nat.mul_zero, Bool.false_eq_true, if_false]

theorem shardAccept_sends (heard : Heard s 0x21 m x) {k : ShardRun} (offered : x.shardOp m.src m.op = some k)
    (waits : k.accepted = false) (some_data : k.data ≠ []) (fits : k.data.length ≤ 65536) (rood : k.rood = m.srcRood) :
    ∃ t, exec (.shardAccept m) s = .next t ∧ Applied s t m ∧ Replied s t m 0x23 (leBytes 8 0 ++ k.data) ∧
      Becomes t m.dstRood x (((x.modShard m.src m.op (fun k => { k with accepted := true })).heard m).sent (8 + k.data.length)) := by
  have heeds := heeds_recvMsg heard (by decide)
  obtain ⟨⟨typ, -⟩, -⟩ := heard
  have here : (x.counted m).shardOp m.src m.op = some k := offered
  have taken : x.applyMsg m ⟨s.clock.time, s.dev.advance m⟩ = (x.counted m).shardAccepted m.src m.op := by
    rw [Rood.applyMsg, typ]
    rfl
  have sends := shardAccepted_sends here waits some_data fits
  rw [rood] at sends
  have size : (leBytes 8 0 ++ k.data).length = 8 + k.data.length := by rw [List.length_append, leBytes_length]
  obtain ⟨becomes, replied⟩ := heeds.answers (y := (x.modShard m.src m.op (fun k => { k with accepted := true })).heard m)
    (f := (x.count 10 1).fx) (taken.trans sends)
  rw [size] at becomes
  exact ⟨_, rfl, heeds.applied, replied _ (mem_chainParts (by rw [size]; exact Nat.add_le_add_left fits 8)), becomes⟩

/-- A shard of an operation with a peer, once it is durable there. -/
def ShardRun.durableOf (m : ChainMsg) (k : ShardRun) : ShardRun :=
  if k.peer = m.src ∧ k.op = m.op then { k with durable := true } else k

theorem shardDone_durable (heard : Heard s 0x24 m x) :
    ∃ t, exec (.shardDone m) s = .next t ∧ Applied s t m ∧
      Becomes t m.dstRood x (({ x with ckp := { x.ckp with
        run := x.ckp.run.map (fun u => { u with shards := u.shards.map (ShardRun.durableOf m) })
        trailing := (x.ckp.trailing.map (ShardRun.durableOf m)).filter (fun k => !k.durable) } } : Rood).heard m) := by
  have heeds := heeds_recvMsg heard (by decide)
  obtain ⟨⟨typ, -⟩, -⟩ := heard
  refine ⟨_, rfl, heeds.applied, heeds.becomes_of (f := (x.count 10 1).fx) ?_⟩
  have taken : x.applyMsg m ⟨s.clock.time, s.dev.advance m⟩ = (x.counted m).shardDurable m.src m.op := by
    rw [Rood.applyMsg, typ]
    rfl
  have durable : (fun (k : ShardRun) => if k.peer == m.src && k.op == m.op then { k with durable := true } else k) =
      ShardRun.durableOf m := by
    funext k
    simp [ShardRun.durableOf]
  rw [taken, Rood.shardDurable, Rood.modShard, durable]
  rfl

end

/-- A shard that has failed ends the checkpoint that runs with ST_PEER. -/
theorem shardFailed_fails {y : Rood} {u : CkpRun} {which : ShardRun → Bool} (run : y.ckp.run = some u) (trailing : y.ckp.trailing = [])
    (failed : u.shards.any (fun k => which k && !k.durable) = true) (now : W64) :
    y.shardFailed now which = (y.failTake now { u with shards := u.shards.filter (fun k => !which k) }).pump now := by
  have kept : ({ y with ckp := { y.ckp with run := some u, trailing := [] } } : Rood) = y := by rw [← trailing, ← run]
  simp only [Rood.shardFailed, trailing, List.filter_nil, run, failed, if_true]
  exact congrArg (fun z => (Rood.failTake now { u with shards := u.shards.filter (fun k => !which k) } z).pump now) kept

/-- The rood once its checkpoint has gone, with the shards of it that are on their way. -/
def Rood.takeGone (u : CkpRun) (trailing : List ShardRun) (x : Rood) : Rood :=
  { x.freeCopy with ckp := { x.ckp with run := none, ref := x.ckp.ref.map (CkpRef.keepNumbers u), trailing := trailing } }

/-- What the record of a failed checkpoint carries before it is tidied. -/
def CkpRun.failRecord (u : CkpRun) (d : Cmd) : CRec :=
  { d.record stPeer with result := [0, 0, u.next.seq % 2 ^ 32, u.next.seq / 2 ^ 32] }

theorem failRecord_tidy (u : CkpRun) (d : Cmd) : (u.failRecord d).tidy = d.record stPeer := rfl

theorem failTake_completes {y : Rood} {u : CkpRun} {l : List ShardRun} {d : Cmd} (trailing : y.ckp.trailing = [])
    (cmd : y.cmd? u.cmd = some d) (now : W64) :
    y.failTake now { u with shards := l } =
      (y.takeGone u (l.filter (fun k => !k.durable))).complete now d (u.failRecord d) := by
  have gone : (y.takeGone u (l.filter (fun k => !k.durable))).cmd? u.cmd = some d := cmd
  simp only [Rood.failTake, trailing, List.nil_append, Rood.endTake]
  rw [if_neg (by decide), if_neg (by decide)]
  show (match (y.takeGone u (l.filter (fun k => !k.durable))).cmd? u.cmd with
    | some c => (y.takeGone u (l.filter (fun k => !k.durable))).complete now c (u.failRecord c)
    | none => y.takeGone u (l.filter (fun k => !k.durable))) = _
  rw [gone]

theorem shardRefuse_ends {m : ChainMsg} {s : State} {x : Rood} (heard : Heard s 0x22 m x) {u : CkpRun} {d : Cmd} {q : CRing}
    (run : x.ckp.run = some u) (trailing : x.ckp.trailing = []) (cmd : x.cmd? u.cmd = some d) (report : CanReport x d q)
    (refused : ∃ k ∈ u.shards, k.peer = m.src ∧ k.op = m.op ∧ k.durable = false) :
    ∃ t, exec (.shardRefuse m) s = .next t ∧ Applied s t m ∧
      Ends t m.dstRood x ((x.takeGone u
        (u.shards.filter (fun k => !(k.peer == m.src && k.op == m.op) && !k.durable))).heard m) d q (d.record stPeer) := by
  have heeds := heeds_recvMsg heard (by decide)
  obtain ⟨⟨typ, -⟩, -⟩ := heard
  have taken : ∀ ctx, x.applyMsg m ctx = (x.counted m).shardFailed ctx.time (fun k => k.peer == m.src && k.op == m.op) := fun ctx => by
    rw [Rood.applyMsg, typ]
    rfl
  have failed : u.shards.any (fun k => (k.peer == m.src && k.op == m.op) && !k.durable) = true := by
    obtain ⟨k, shard, peer, op, waits⟩ := refused
    exact List.any_eq_true.mpr ⟨k, shard, by simp [peer, op, waits]⟩
  have left : (u.shards.filter (fun k => !(k.peer == m.src && k.op == m.op))).filter (fun k => !k.durable) =
      u.shards.filter (fun k => !(k.peer == m.src && k.op == m.op) && !k.durable) := by
    rw [List.filter_filter]
    exact List.filter_congr (fun k _ => Bool.and_comm _ _)
  have becomes := heeds.becomes
  rw [taken, shardFailed_fails (y := x.counted m) run trailing failed, failTake_completes (y := x.counted m) trailing cmd, left]
    at becomes
  refine ⟨_, rfl, heeds.applied, ?_⟩
  rw [← failRecord_tidy u d]
  exact ends_of_completed (z := (x.takeGone u _).heard m) (f := (x.count 10 1).fx) (now := s.clock.time) becomes report rfl

end Sys2Proof.Machine
end

section
/-! PROOF. What a restore leaves of its rood while its shards come (R426 to R429): the relation `RestoreSide`, under which sessions,
stores, indexes, objects, flash and the reference stay (R430). -/
namespace Sys2Proof.Machine
open Sys2Proof

/-- Only the host interface, the tallies and the running restore differ. -/
def RestoreSide (x y : Rood) : Prop :=
  y = { x with
    cmds := y.cmds, nextCmd := y.nextCmd, irings := y.irings, crings := y.crings, host := y.host, fx := y.fx, tally := y.tally
    regs := { x.regs with msix := y.regs.msix, log := y.regs.log, logEvent := y.regs.logEvent }
    ckp := { x.ckp with restore := y.ckp.restore } }

theorem RestoreSide.refl (x : Rood) : RestoreSide x x := rfl

theorem RestoreSide.trans {x y z : Rood} (h : RestoreSide x y) (k : RestoreSide y z) : RestoreSide x z := by
  unfold RestoreSide at *
  rw [k, h]

theorem RestoreSide.of_hostSide {x y : Rood} (h : HostSide x y) : RestoreSide x y := by
  unfold HostSide at h
  rw [h]
  rfl

/-- A rood that composes no step and holds back no query. -/
def RestsBetween (x : Rood) : Prop := StepsHeld x ∧ x.vecQueue = []

theorem RestoreSide.rests {x y : Rood} (h : RestoreSide x y) (rests : RestsBetween x) : RestsBetween y := by
  obtain ⟨held, queue⟩ := rests
  rw [h]
  exact ⟨held, queue⟩

/-- What a restore leaves until it takes effect (R430). -/
theorem RestoreSide.stores {x y : Rood} (h : RestoreSide x y) :
    y.slots = x.slots ∧ y.kv = x.kv ∧ y.vecs = x.vecs ∧ y.obj = x.obj ∧ y.flash = x.flash ∧ y.staging = x.staging ∧
      y.ckp.ref = x.ckp.ref ∧ y.ckp.run = x.ckp.run := by
  rw [h]
  exact ⟨rfl, rfl, rfl, rfl, rfl, rfl, rfl, rfl⟩

theorem setRestore_side (u : RestoreRun) (x : Rood) : RestoreSide x (x.setRestore u) := rfl

/-! ## Requests -/

theorem foldl_side {α : Type} {f : Rood → α → Rood} (h : ∀ y a, RestoreSide y (f y a)) (l : List α) (x : Rood) :
    RestoreSide x (l.foldl f x) := by
  induction l generalizing x with
  | nil => exact .refl x
  | cons a l ih => exact (h x a).trans (ih _)

theorem ask_side (f : Fx) (x : Rood) : RestoreSide x (x.ask f) := rfl

theorem sendChain_side (p t r o : Nat) (b : List Byte) (x : Rood) : RestoreSide x (x.sendChain p t r o b) := by
  obtain ⟨f, sends⟩ := sendChain_asking p t r o b x
  rw [sends]
  generalize b.length = n
  rfl

theorem readObject_side (ctx : Ctx) (id : Nat) (x : Rood) : RestoreSide x (x.readObject ctx id).1 := by
  unfold Rood.readObject
  split
  · exact .refl x
  · exact ((foldl_side (fun y e => ask_side _ y) _ x).trans (foldl_side (fun y e => ask_side _ y) _ _)).trans
      (.of_hostSide (count_hostSide _ _ _))

theorem readOwn_side (ctx : Ctx) (l : W64) (i : InvItem) (x : Rood) : RestoreSide x (x.readOwn ctx l i).1 := by
  unfold Rood.readOwn
  split
  · exact .refl x
  · exact readObject_side _ _ _

theorem fetchOne_side (ctx : Ctx) (u : RestoreRun) (i : InvItem) (x : Rood) : RestoreSide x (x.fetchOne ctx u i).1 := by
  unfold Rood.fetchOne
  split
  · exact readOwn_side _ _ _ _
  · exact (ask_side .op x).trans (sendChain_side _ _ _ _ _ _)

theorem fetchMore_side (ctx : Ctx) (seqs : List Nat) (fuel : Nat) (u : RestoreRun) (x : Rood) :
    RestoreSide x (x.fetchMore ctx seqs fuel u).1 := by
  induction fuel generalizing u x with
  | zero => exact .refl x
  | succ fuel ih =>
    unfold Rood.fetchMore
    split
    · exact .refl x
    · split
      · exact (fetchOne_side _ _ _ _).trans (ih _ _)
      · exact ih _ _

/-! ## The rounds of a restore -/

theorem releaseQueries_none {x : Rood} (queue : x.vecQueue = []) (ctx : Ctx) : x.releaseQueries ctx = x := by
  simp only [Rood.releaseQueries, queue, List.filterMap_nil, List.filter_nil, List.foldl_nil]

/-- The rood whose restore has gone. -/
def Rood.unrestored (x : Rood) : Rood := { x with ckp := { x.ckp with restore := none } }

section
variable {x : Rood} (rests : RestsBetween x)
include rests

theorem endRestore_side (ctx : Ctx) (u : RestoreRun) (st : Nat) : RestoreSide x (x.endRestore ctx u st) := by
  have gone : RestoreSide x x.unrestored := rfl
  have closed : ∀ {y : Rood}, RestoreSide x y → RestoreSide x ((y.releaseQueries ctx).settle ctx) := fun {y} side => by
    obtain ⟨held, queue⟩ := side.rests rests
    rw [releaseQueries_none queue]
    exact side.trans (.of_hostSide (settle_hostSide held ctx))
  unfold Rood.endRestore
  dsimp only
  split
  · exact closed (gone.trans (.of_hostSide (complete_hostSide _ _ _ _)))
  · exact closed gone

theorem restoreReady_side (ctx : Ctx) (u : RestoreRun) (b : Rebuilt) (lean : Bool) : RestoreSide x (x.restoreReady ctx u b lean) := by
  unfold Rood.restoreReady
  dsimp only
  split
  · exact endRestore_side rests _ _ _
  · split
    · exact endRestore_side rests _ _ _
    · split
      · exact (setRestore_side _ x).trans (.of_hostSide (setCmd_hostSide _ _))
      · exact setRestore_side _ x

end

theorem restoreGo_side (ctx : Ctx) (want fuel : Nat) (u : RestoreRun) {x : Rood} (rests : RestsBetween x) :
    RestoreSide x (x.restoreGo ctx want fuel u) := by
  induction fuel generalizing u x with
  | zero => exact endRestore_side rests _ _ _
  | succ fuel ih =>
    unfold Rood.restoreGo
    split
    · next seq _ =>
      have fetched := fetchMore_side ctx ((u.chain (x.shape ctx) seq).getD [])
        (u.items.length + ((u.chain (x.shape ctx) seq).getD []).length + 1) { u with chosen := seq } x
      have between := fetched.rests rests
      dsimp only
      split
      · exact fetched.trans (ih _ between)
      · split
        · exact fetched.trans (setRestore_side _ _)
        · split
          · exact fetched.trans (restoreReady_side between _ _ _ _)
          · exact fetched.trans (ih _ between)
    · exact endRestore_side rests _ _ _

section
variable {x : Rood} (rests : RestsBetween x)
include rests

/-- A restore goes on from the run that it is given. -/
theorem resume_side (ctx : Ctx) (want fuel : Nat) (u : RestoreRun) : RestoreSide x ((x.setRestore u).restoreGo ctx want fuel u) :=
  (setRestore_side u x).trans (restoreGo_side ctx want fuel u ((setRestore_side u x).rests rests))

theorem restoreOn_side (ctx : Ctx) (u : RestoreRun) : RestoreSide x (x.restoreOn ctx u) := by
  unfold Rood.restoreOn
  split
  · exact setRestore_side u x
  · split
    · exact resume_side rests _ _ _ u
    · exact setRestore_side u x

theorem takeInventory_side (ctx : Ctx) (which : Nat × Nat → Bool) (hs : List ShardHdr) :
    RestoreSide x (x.takeInventory ctx which hs) := by
  unfold Rood.takeInventory
  split
  · exact .refl x
  · dsimp only
    split
    · exact .refl x
    · exact restoreOn_side rests _ _

theorem takeInvPart_side (ctx : Ctx) (peer op : Nat) (b : List Byte) : RestoreSide x (x.takeInvPart ctx peer op b) := by
  unfold Rood.takeInvPart
  split
  · exact .refl x
  · dsimp only
    split
    · exact .refl x
    · split
      · exact setRestore_side _ x
      · exact (setRestore_side _ x).trans (takeInventory_side ((setRestore_side _ x).rests rests) _ _ _)

theorem modFetch_side (ctx : Ctx) (which : Fetch → Bool) (f : Fetch → Option Fetch) : RestoreSide x (x.modFetch ctx which f) := by
  unfold Rood.modFetch
  split
  · exact .refl x
  · dsimp only
    split
    · exact .refl x
    · split
      · exact resume_side rests _ _ _ _
      · exact setRestore_side _ x

end

end Sys2Proof.Machine
end

section
/-! PROOF. The messages of a restore (R427 to R430, Table 13.9): the inventory of a peer, the header of a shard, and a shard that is
nowhere to be had; and with them obligation O60. -/
namespace Sys2Proof.Machine
open Sys2Proof

/-! ## What a message of a restore does to its rood -/

/-- A message of a restore, and its row. -/
def RestoreRow (m : ChainMsg) (typ : Nat) (i : Instr) : Prop :=
  (typ = 0x26 ∧ i = .invList m) ∨ (typ = 0x28 ∧ i = .shardHdr m) ∨ (typ = 0x29 ∧ i = .shardNone m)

section
variable {m : ChainMsg}

theorem applyMsg_invList (typ : m.typ = 0x26) (ctx : Ctx) (x : Rood) :
    x.applyMsg m ctx = (x.counted m).takeInvPart ctx m.src m.op m.payload := by
  rw [Rood.applyMsg, typ]
  rfl

theorem applyMsg_shardHdr (typ : m.typ = 0x28) (ctx : Ctx) (x : Rood) :
    x.applyMsg m ctx = (x.counted m).takeShardHdr ctx m.src m.op m.payload := by
  rw [Rood.applyMsg, typ]
  rfl

theorem applyMsg_shardNone (typ : m.typ = 0x29) (ctx : Ctx) (x : Rood) :
    x.applyMsg m ctx = (x.counted m).loseFetch ctx (Rood.isFetch m.src m.op) := by
  rw [Rood.applyMsg, typ]
  rfl

theorem counted_side (m : ChainMsg) (x : Rood) : RestoreSide x (x.counted m) := by
  unfold Rood.counted Rood.heard Rood.asking
  rfl

theorem takeInvPart_none {y : Rood} (idle : y.ckp.restore = none) (ctx : Ctx) (peer op : Nat) (b : List Byte) :
    y.takeInvPart ctx peer op b = y := by
  simp only [Rood.takeInvPart, idle]

variable {typ : Nat} {i : Instr} (row : RestoreRow m typ i)
include row

theorem RestoreRow.exec_eq (s : State) : exec i s = .next (recvMsg typ m s) := by
  rcases row with ⟨rfl, rfl⟩ | ⟨rfl, rfl⟩ | ⟨rfl, rfl⟩
  · rfl
  · rfl
  · rfl

theorem RestoreRow.listed : typ ∈ roodTypes := by
  rcases row with ⟨rfl, -⟩ | ⟨rfl, -⟩ | ⟨rfl, -⟩
  · decide
  · decide
  · decide

theorem RestoreRow.idle (is : m.typ = typ) {x : Rood} (idle : x.ckp.restore = none) (ctx : Ctx) : x.applyMsg m ctx = x.counted m := by
  have here : (x.counted m).ckp.restore = none := idle
  rcases row with ⟨rfl, -⟩ | ⟨rfl, -⟩ | ⟨rfl, -⟩
  · rw [applyMsg_invList is, takeInvPart_none here]
  · rw [applyMsg_shardHdr is, Rood.takeShardHdr, modFetch_none here]
  · rw [applyMsg_shardNone is, Rood.loseFetch, modFetch_none here]

theorem RestoreRow.side (is : m.typ = typ) {x : Rood} (rests : RestsBetween x) (ctx : Ctx) : RestoreSide x (x.applyMsg m ctx) := by
  have counted := counted_side m x
  have here := counted.rests rests
  rcases row with ⟨rfl, -⟩ | ⟨rfl, -⟩ | ⟨rfl, -⟩
  · rw [applyMsg_invList is]
    exact counted.trans (takeInvPart_side here _ _ _ _)
  · rw [applyMsg_shardHdr is]
    exact counted.trans (modFetch_side here _ _ _)
  · rw [applyMsg_shardNone is]
    exact counted.trans (modFetch_side here _ _ _)

end

/-! ## INV_LIST (R427) -/

/-- What a restore has of a peer's inventory once more bytes of it have come. -/
def RestoreRun.invBytes (peer : Nat) (b : List Byte) (u : RestoreRun) : List Byte := (lookKey peer u.lists).getD [] ++ b

/-- An inventory has all its headers. -/
def InventoryWhole (all : List Byte) : Prop := 8 + 128 * u32At 0 all ≤ all.length

section
variable {y : Rood} {u : RestoreRun} {peer op : Nat} {b : List Byte} (run : y.ckp.restore = some u) (waits : (peer, op) ∈ u.waiting)
include run waits

theorem takeInvPart_holds (short : ¬ InventoryWhole (u.invBytes peer b)) (ctx : Ctx) :
    y.takeInvPart ctx peer op b = y.setRestore { u with lists := putKey peer (u.invBytes peer b) u.lists } := by
  have awaited : ¬ (!u.waiting.contains (peer, op)) = true := by simpa using waits
  unfold Rood.takeInvPart
  split
  · next idle => rw [run] at idle; cases idle
  · next v found =>
    obtain rfl : u = v := Option.some.inj (run.symm.trans found)
    dsimp only
    rw [if_neg awaited]
    exact if_pos (Nat.lt_of_not_le short)

theorem takeInvPart_takes (whole : InventoryWhole (u.invBytes peer b)) (ctx : Ctx) :
    y.takeInvPart ctx peer op b = (y.setRestore { u with lists := delKey peer u.lists }).takeInventory ctx (fun w => w == (peer, op))
      (invHeaders (u.invBytes peer b)) := by
  have awaited : ¬ (!u.waiting.contains (peer, op)) = true := by simpa using waits
  unfold Rood.takeInvPart
  split
  · next idle => rw [run] at idle; cases idle
  · next v found =>
    obtain rfl : u = v := Option.some.inj (run.symm.trans found)
    dsimp only
    rw [if_neg awaited]
    exact if_neg (Nat.not_lt.mpr whole)

end

/-- The run of a restore once a peer's inventory is in hand. -/
def RestoreRun.listed (l : W64) (peer op : Nat) (all : List Byte) (u : RestoreRun) : RestoreRun :=
  { u with
    lists := delKey peer u.lists
    waiting := u.waiting.filter (fun w => !(w.1 == peer && w.2 == op))
    items := u.items ++ (((invHeaders all).filter (fun h => h.lineage == l)).map (fun h => ({ hdr := h, peer := peer } : InvItem))) }

theorem restoreOn_waits {y : Rood} {u : RestoreRun} (waits : u.waiting ≠ []) (ctx : Ctx) : y.restoreOn ctx u = y.setRestore u :=
  if_pos (Or.inl (by simpa using waits))

/-- An inventory that another is awaited with joins the run. -/
theorem takeInventory_joins {y : Rood} {u : RestoreRun} {peer op : Nat} {all : List Byte} (waits : (peer, op) ∈ u.waiting)
    (others : ∃ w ∈ u.waiting, w ≠ (peer, op)) (ctx : Ctx) :
    (y.setRestore { u with lists := delKey peer u.lists }).takeInventory ctx (fun w => w == (peer, op)) (invHeaders all) =
      y.setRestore (u.listed y.regs.lineage peer op all) := by
  obtain ⟨l, answered⟩ : ∃ l, (u.waiting.filter (fun w => w == (peer, op))).map (fun w => w.1) = peer :: l := by
    have answers : (peer, op) ∈ u.waiting.filter (fun w => w == (peer, op)) := List.mem_filter.mpr ⟨waits, beq_self_eq_true _⟩
    obtain ⟨w, l, found⟩ := List.exists_cons_of_ne_nil (List.ne_nil_of_mem answers)
    have first : w ∈ u.waiting.filter (fun w => w == (peer, op)) := by rw [found]; exact List.mem_cons_self
    obtain rfl : w = (peer, op) := beq_iff_eq.mp (List.mem_filter.mp first).2
    exact ⟨l.map (fun w => w.1), by rw [found]; rfl⟩
  have left : u.waiting.filter (fun w => !(w == (peer, op))) ≠ [] := by
    obtain ⟨w, waiting, other⟩ := others
    exact List.ne_nil_of_mem (List.mem_filter.mpr ⟨waiting, by simpa using other⟩)
  have on := restoreOn_waits (y := y.setRestore { u with lists := delKey peer u.lists }) (u := u.listed y.regs.lineage peer op all) left ctx
  unfold Rood.takeInventory
  simp only [Rood.setRestore, answered, List.isEmpty_cons, Bool.false_eq_true, if_false, List.headD_cons]
  exact on

/-! ## A fetch that changes (R429) -/

/-- A fetch with the header of its shard. -/
def Fetch.headed (h : ShardHdr) (g : Fetch) : Fetch := { g with hdr := some h }

/-- A fetched shard has come whole. -/
def Fetch.whole (g : Fetch) : Bool :=
  match g.hdr with
  | some h => decide (h.shardLen ≤ g.data.length)
  | none => false

theorem headed_part {h : ShardHdr} {g : Fetch} (part : g.data.length < h.shardLen) : (g.headed h).whole = false :=
  decide_eq_false (Nat.not_le.mpr part)

/-- What is missing of a sequence does not depend on the headers in hand. -/
theorem missing_headed {u : RestoreRun} {g : Fetch} (only : u.fetching = [g]) (h : ShardHdr) (k : Nat) :
    ({ u with fetching := [g.headed h] } : RestoreRun).missing k = u.missing k := by
  simp only [RestoreRun.missing, RestoreRun.kOf, RestoreRun.inHand, only, Fetch.headed, List.filter_cons, List.filter_nil]
  split <;> rfl

/-- The run with nothing in transit. -/
def RestoreRun.idle (u : RestoreRun) : RestoreRun := { u with fetching := [] }

/-- The run once the fetches that match have changed. -/
def RestoreRun.refetched (which : Fetch → Bool) (f : Fetch → Option Fetch) (u : RestoreRun) : RestoreRun :=
  let fs := u.fetching.filterMap (fun g => if which g then f g else some g)
  { u with
    fetching := fs.filter (fun g => !g.whole)
    parts := u.parts ++ ((fs.filter Fetch.whole).filterMap (fun g => g.hdr.map (fun h =>
      ({ seq := g.seq, hdr := h, data := g.data } : ShardPart)))).filter ShardPart.ok }

theorem modFetch_resumes {y : Rood} {u : RestoreRun} {d : Cmd} {which : Fetch → Bool} (run : y.ckp.restore = some u)
    (cmd : y.cmd? u.cmd = some d) (hit : u.fetching.any which = true) (ctx : Ctx) (f : Fetch → Option Fetch) :
    y.modFetch ctx which f = (y.setRestore (u.refetched which f)).restoreGo ctx d.ckpSeq u.rounds (u.refetched which f) := by
  unfold Rood.modFetch
  split
  · next idle => rw [run] at idle; cases idle
  · next v found =>
    obtain rfl : u = v := Option.some.inj (run.symm.trans found)
    dsimp only
    rw [if_neg (by simp [hit])]
    split
    · next c named =>
      obtain rfl : d = c := Option.some.inj (cmd.symm.trans named)
      rfl
    · next unnamed => exact absurd (cmd.symm.trans unnamed) (by simp)

/-- The choice does not depend on what is in transit. -/
theorem choose_fetching (l : List Fetch) (shape : List Byte) (want : Nat) (u : RestoreRun) :
    ({ u with fetching := l } : RestoreRun).choose shape want = u.choose shape want := rfl

theorem chain_fetching (l : List Fetch) (shape : List Byte) (s : Nat) (u : RestoreRun) :
    ({ u with fetching := l } : RestoreRun).chain shape s = u.chain shape s := rfl

section
variable {u : RestoreRun} {g : Fetch} {which : Fetch → Bool} {f : Fetch → Option Fetch} (only : u.fetching = [g])
  (hit : which g = true)
include only hit

theorem refetched_keeps {k : Fetch} (becomes : f g = some k) (part : k.whole = false) :
    u.refetched which f = { u with fetching := [k] } := by
  simp [RestoreRun.refetched, only, hit, becomes, part]

theorem refetched_loses (becomes : f g = none) : u.refetched which f = u.idle := by
  simp [RestoreRun.idle, RestoreRun.refetched, only, hit, becomes]

end

/-! ## The rounds of a restore (R428, R429) -/

/-- Nothing is asked for where nothing is missing of a chain that can be rebuilt. -/
theorem fetchMore_rests {seqs : List Nat} {u : RestoreRun} (rests : ∀ k ∈ seqs, u.missing k = 0 ∨ k ∈ u.bad) (ctx : Ctx) (fuel : Nat)
    (x : Rood) : x.fetchMore ctx seqs fuel u = (x, u) := by
  cases fuel with
  | zero => rfl
  | succ fuel =>
    unfold Rood.fetchMore
    split
    · rfl
    · next k found =>
      have lacks : (decide (0 < u.missing k) && !u.bad.contains k) = true :=
        List.find?_some (p := fun k => decide (0 < u.missing k) && !u.bad.contains k) found
      obtain ⟨lacking, sound⟩ : 0 < u.missing k ∧ k ∉ u.bad := by simpa using lacks
      rcases rests k (List.mem_of_find?_eq_some found) with full | given_up
      · exact absurd full (Nat.pos_iff_ne_zero.mp lacking)
      · exact absurd given_up sound

/-- The run once its chosen sequence has been given up. -/
def RestoreRun.givingUp (s : Nat) (u : RestoreRun) : RestoreRun := { u with chosen := s, bad := u.bad ++ [s] }

/-- A sequence that lacks a shard with none left to ask for is given up. -/
theorem fetchMore_givesUp {k : Nat} {u : RestoreRun} (sound : k ∉ u.bad) (lacking : 0 < u.missing k) (last : u.nextItem k = none)
    (ctx : Ctx) (fuel : Nat) (x : Rood) : x.fetchMore ctx [k] (fuel + 1) u = (x, { u with bad := u.bad ++ [k] }) := by
  have first : [k].find? (fun s => decide (0 < u.missing s) && !u.bad.contains s) = some k := by simp [lacking, sound]
  unfold Rood.fetchMore
  split
  · next none_found => rw [first] at none_found; cases none_found
  · next j found =>
    obtain rfl : k = j := Option.some.inj (first.symm.trans found)
    rw [last]
    exact fetchMore_rests (fun j hj => .inr (by simp [List.mem_singleton.mp hj])) _ _ _

section
variable {x : Rood} {ctx : Ctx} {want s : Nat} {u : RestoreRun} (chosen : u.choose (x.shape ctx) want = (0, some s))
include chosen

/-- A restore that awaits the shards of its chain goes on waiting. -/
theorem restoreGo_waits {seqs : List Nat} (chain : u.chain (x.shape ctx) s = some seqs)
    (sound : ∀ k ∈ seqs, u.missing k = 0 ∧ k ∉ u.bad) (awaits : u.fetching ≠ []) (fuel : Nat) :
    x.restoreGo ctx want (fuel + 1) u = x.setRestore { u with chosen := s } := by
  have fetched := fetchMore_rests (u := { u with chosen := s }) (fun k hk => .inl (sound k hk).1) ctx (u.items.length + seqs.length + 1) x
  have none_bad : ¬ (seqs.any (fun k => u.bad.contains k)) = true := by
    simpa using fun k hk => (sound k hk).2
  unfold Rood.restoreGo
  split
  · next st j found =>
    obtain rfl : s = j := Option.some.inj (Prod.mk.inj (chosen.symm.trans found)).2
    simp only [chain, Option.getD_some, fetched]
    rw [if_neg none_bad, if_pos (by simpa using awaits)]
  · next st found => exact absurd (chosen.symm.trans found) (by simp)

/-- A restore whose one sequence lacks a shard that is nowhere to be had gives the sequence up. -/
theorem restoreGo_givesUp (chain : u.chain (x.shape ctx) s = some [s]) (sound : s ∉ u.bad) (lacking : 0 < u.missing s)
    (last : u.nextItem s = none) (fuel : Nat) :
    x.restoreGo ctx want (fuel + 1) u = x.restoreGo ctx want fuel (u.givingUp s) := by
  have fetched := fetchMore_givesUp (u := { u with chosen := s }) sound lacking last ctx (u.items.length + 1) x
  conv => lhs; unfold Rood.restoreGo
  split
  · next st j found =>
    obtain rfl : s = j := Option.some.inj (Prod.mk.inj (chosen.symm.trans found)).2
    simp only [chain, Option.getD_some, List.length_singleton, fetched]
    rw [if_pos (by simp)]
    rfl
  · next st found => exact absurd (chosen.symm.trans found) (by simp)

end

/-! ## No sequence is left (R428) -/

theorem countedOf_absent {items : List InvItem} {s k : Nat} (one : ∀ i ∈ items, i.hdr.seq = s) (other : k ≠ s) :
    countedOf items k = [] := by
  have absent : items.filter (fun i => i.hdr.seq == k) = [] :=
    List.filter_eq_nil_iff.mpr (fun i hi => by simpa [one i hi] using fun h => other h.symm)
  simp [countedOf, absent, leastItem]

theorem completeSeq_givenUp {shape : List Byte} {bad : List Nat} {items : List InvItem} {s : Nat} (one : ∀ i ∈ items, i.hdr.seq = s)
    (given_up : s ∈ bad) (k : Nat) : completeSeq shape bad items k = false := by
  unfold completeSeq
  split
  · rfl
  · next found =>
    obtain rfl : k = s := by
      by_contra other
      rw [countedOf_absent one other] at found
      cases found
    simp [given_up]

/-- No sequence is chosen once the only one has been given up. -/
theorem choose_givenUp {shape : List Byte} {want s : Nat} {u : RestoreRun} (shaped : (u.choose shape want).1 = 0)
    (one : ∀ i ∈ u.items, i.hdr.seq = s) {v : RestoreRun} (items : v.items = u.items) (given_up : s ∈ v.bad) :
    v.choose shape want = (stIncomplete, none) := by
  have same_shape : ¬ (!u.items.isEmpty && u.items.all (fun i => i.hdr.shape != shape)) = true := by
    intro differs
    rw [RestoreRun.choose, if_pos differs] at shaped
    exact absurd shaped (by decide)
  have unchained : ∀ k, v.chain shape k = none := fun k => by
    rw [RestoreRun.chain, chainOf, completeSeq_givenUp (by rw [items]; exact one) given_up]
    rfl
  rw [← items] at same_shape
  rw [RestoreRun.choose, if_neg same_shape]
  simp [unchained]

theorem restoreGo_ends {x : Rood} {ctx : Ctx} {want : Nat} {u : RestoreRun} (none_left : u.choose (x.shape ctx) want = (stIncomplete, none))
    (fuel : Nat) : x.restoreGo ctx want fuel u = x.endRestore ctx u stIncomplete := by
  cases fuel with
  | zero => rfl
  | succ fuel =>
    unfold Rood.restoreGo
    rw [none_left]

/-- The record of a restore that ends, before it is tidied. -/
def RestoreRun.endRecord (d : Cmd) (st : Nat) (u : RestoreRun) : CRec :=
  { d.record st with result := [0, 0, u.chosen % 2 ^ 32, u.chosen / 2 ^ 32] }

theorem endRecord_incomplete (d : Cmd) (u : RestoreRun) : (u.endRecord d stIncomplete).tidy = d.record stIncomplete := rfl

/-- A restore that ends reports, once its rood composes no step and holds back no query. -/
theorem endRestore_completes {y : Rood} {u : RestoreRun} {d : Cmd} (rests : RestsBetween y) (cmd : y.cmd? u.cmd = some d) (ctx : Ctx)
    (st : Nat) :
    y.endRestore ctx u st = (y.unrestored.complete ctx.time d (u.endRecord d st)).pump ctx.time := by
  have side := complete_hostSide ctx.time d (u.endRecord d st) y.unrestored
  obtain ⟨held, queue⟩ : RestsBetween (y.unrestored.complete ctx.time d (u.endRecord d st)) :=
    (RestoreSide.of_hostSide side).rests ((show RestoreSide y y.unrestored from rfl).rests rests)
  unfold Rood.endRestore
  dsimp only
  split
  · next c named =>
    obtain rfl : d = c := Option.some.inj (cmd.symm.trans named)
    exact (congrArg (Rood.settle ctx) (releaseQueries_none queue ctx)).trans (congrArg (Rood.pump ctx.time) (compose_held held ctx))
  · next unnamed => exact absurd (cmd.symm.trans unnamed) (by simp)

/-! ## The messages -/

section
variable {m : ChainMsg} {s : State} {x : Rood} {u : RestoreRun}

/-- The rood whose restore goes on as another run. -/
def Rood.restoring (u : RestoreRun) (x : Rood) : Rood := { x with ckp := { x.ckp with restore := some u } }

theorem invList_held (heard : Heard s 0x26 m x) (run : x.ckp.restore = some u) (waits : (m.src, m.op) ∈ u.waiting)
    (short : ¬ InventoryWhole (u.invBytes m.src m.payload)) :
    ∃ t, exec (.invList m) s = .next t ∧ Applied s t m ∧
      Becomes t m.dstRood x
        ((x.restoring { u with lists := putKey m.src (u.invBytes m.src m.payload) u.lists }).heard m) := by
  have heeds := heeds_recvMsg heard (by decide)
  obtain ⟨⟨typ, -⟩, -⟩ := heard
  refine ⟨_, rfl, heeds.applied, heeds.becomes_of (f := (x.count 10 1).fx) ?_⟩
  rw [applyMsg_invList typ, takeInvPart_holds (y := x.counted m) run waits short]
  rfl

theorem invList_joins (heard : Heard s 0x26 m x) (run : x.ckp.restore = some u) (waits : (m.src, m.op) ∈ u.waiting)
    (others : ∃ w ∈ u.waiting, w ≠ (m.src, m.op)) (whole : InventoryWhole (u.invBytes m.src m.payload)) :
    ∃ t, exec (.invList m) s = .next t ∧ Applied s t m ∧
      Becomes t m.dstRood x
        ((x.restoring (u.listed x.regs.lineage m.src m.op (u.invBytes m.src m.payload))).heard m) := by
  have heeds := heeds_recvMsg heard (by decide)
  obtain ⟨⟨typ, -⟩, -⟩ := heard
  refine ⟨_, rfl, heeds.applied, heeds.becomes_of (f := (x.count 10 1).fx) ?_⟩
  rw [applyMsg_invList typ, takeInvPart_takes (y := x.counted m) run waits whole,
    takeInventory_joins (y := x.counted m) waits others]
  rfl

theorem shape_congr {c e : Ctx} {y z : Rood} (width : y.width = z.width) (vector : c.vectorOk = e.vectorOk)
    (retrieval : c.retrievalOk = e.retrievalOk) : y.shape c = z.shape e := by
  rw [Rood.shape, Rood.shape, width, vector, retrieval]

theorem restoring_shape (v : RestoreRun) :
    ((x.counted m).setRestore v).shape ⟨s.clock.time, s.dev.advance m⟩ = x.shape (ctxOf s) := shape_congr rfl rfl rfl

theorem restoring_gone (v : RestoreRun) :
    ((x.counted m).setRestore v).unrestored = (x.unrestored.heard m).asking (x.count 10 1).fx := rfl

variable {d : Cmd} {g : Fetch} {s₀ : Nat} {seqs : List Nat} (run : x.ckp.restore = some u) (cmd : x.cmd? u.cmd = some d)
  (only : u.fetching = [g]) (src : g.peer = m.src) (op : g.op = m.op)
  (chosen : u.choose (x.shape (ctxOf s)) d.ckpSeq = (0, some s₀))
include run cmd only src op chosen

theorem shardHdr_kept (chain : u.chain (x.shape (ctxOf s)) s₀ = some seqs) (heard : Heard s 0x28 m x)
    (sound_hdr : shardHdrOk m.payload = true) (part : g.data.length < (readShardHdr m.payload).shardLen)
    (sound : ∀ k ∈ seqs, u.missing k = 0 ∧ k ∉ u.bad) :
    ∃ t, exec (.shardHdr m) s = .next t ∧ Applied s t m ∧
      Becomes t m.dstRood x ((x.restoring { u with
        chosen := s₀, fetching := [g.headed (readShardHdr m.payload)] }).heard m) := by
  have heeds := heeds_recvMsg heard (by decide)
  obtain ⟨⟨typ, -⟩, -⟩ := heard
  have hit : Rood.isFetch m.src m.op g = true := by simp [Rood.isFetch, src, op]
  have kept : u.refetched (Rood.isFetch m.src m.op)
      (fun g => if shardHdrOk m.payload then some { g with hdr := some (readShardHdr m.payload) } else none) =
      { u with fetching := [g.headed (readShardHdr m.payload)] } :=
    refetched_keeps only hit (if_pos sound_hdr) (headed_part part)
  have goes := restoreGo_waits
    (x := (x.counted m).setRestore { u with fetching := [g.headed (readShardHdr m.payload)] })
    (ctx := ⟨s.clock.time, s.dev.advance m⟩) (want := d.ckpSeq)
    (u := { u with fetching := [g.headed (readShardHdr m.payload)] })
    (by rw [restoring_shape, choose_fetching]; exact chosen) (by rw [restoring_shape, chain_fetching]; exact chain)
    (fun k hk => ⟨(missing_headed only _ k).trans (sound k hk).1, (sound k hk).2⟩) (List.cons_ne_nil _ _) (2 * u.items.length)
  refine ⟨_, rfl, heeds.applied, heeds.becomes_of (f := (x.count 10 1).fx) ?_⟩
  rw [applyMsg_shardHdr typ, Rood.takeShardHdr,
    modFetch_resumes (y := x.counted m) run cmd (by rw [only]; simpa using hit), kept, RestoreRun.rounds, goes]
  rfl

theorem shardNone_ends {q : CRing} (chain : u.chain (x.shape (ctxOf s)) s₀ = some [s₀]) (heard : Heard s 0x29 m x)
    (report : CanReport x d q) (rests : RestsBetween x) (one : ∀ i ∈ u.items, i.hdr.seq = s₀) (sound : s₀ ∉ u.bad)
    (lacking : 0 < u.idle.missing s₀) (last : u.idle.nextItem s₀ = none) :
    ∃ t, exec (.shardNone m) s = .next t ∧ Applied s t m ∧
      Ends t m.dstRood x (x.unrestored.heard m) d q (d.record stIncomplete) := by
  have heeds := heeds_recvMsg heard (by decide)
  obtain ⟨⟨typ, -⟩, -⟩ := heard
  have hit : Rood.isFetch m.src m.op g = true := by simp [Rood.isFetch, src, op]
  have lost := refetched_loses only hit (f := fun _ => none) rfl
  have given_up := choose_givenUp (v := u.idle.givingUp s₀)
    (congrArg Prod.fst chosen) one rfl (List.mem_append_right _ List.mem_cons_self)
  have goes := restoreGo_givesUp (x := (x.counted m).setRestore u.idle)
    (ctx := ⟨s.clock.time, s.dev.advance m⟩) (want := d.ckpSeq) (u := u.idle)
    (by rw [restoring_shape, RestoreRun.idle, choose_fetching]; exact chosen)
    (by rw [restoring_shape, RestoreRun.idle, chain_fetching]; exact chain)
    sound lacking last (2 * u.items.length)
  have ends := restoreGo_ends (x := (x.counted m).setRestore u.idle)
    (ctx := ⟨s.clock.time, s.dev.advance m⟩) (want := d.ckpSeq)
    (u := u.idle.givingUp s₀) (by rw [restoring_shape]; exact given_up)
    (2 * u.items.length)
  have between : RestsBetween ((x.counted m).setRestore u.idle) :=
    ((counted_side m x).trans (setRestore_side _ _)).rests rests
  have becomes := heeds.becomes
  rw [applyMsg_shardNone typ, Rood.loseFetch,
    modFetch_resumes (y := x.counted m) run cmd (by rw [only]; simpa using hit), lost, RestoreRun.rounds, goes, ends,
    endRestore_completes (u := u.idle.givingUp s₀) between cmd, restoring_gone] at becomes
  refine ⟨_, rfl, heeds.applied, ?_⟩
  rw [← endRecord_incomplete d (u.idle.givingUp s₀)]
  exact ends_of_completed (z := x.unrestored.heard m) (f := (x.count 10 1).fx) (now := s.clock.time) becomes report rfl

end

section
variable {m : ChainMsg} {typ : Nat} {i : Instr} (row : RestoreRow m typ i) {s : State} {x : Rood} (heard : Heard s typ m x)
include row heard

theorem restoreRow_idle (idle : x.ckp.restore = none) :
    ∃ t, exec i s = .next t ∧ Applied s t m ∧ Becomes t m.dstRood x (x.heard m) := by
  have heeds := heeds_recvMsg heard row.listed
  obtain ⟨⟨is, -⟩, -⟩ := heard
  exact ⟨_, row.exec_eq s, heeds.applied, heeds.becomes_of (y := x.heard m) (f := (x.count 10 1).fx) (row.idle is idle _)⟩

theorem restoreRow_side (rests : RestsBetween x) :
    ∃ t y, exec i s = .next t ∧ Applied s t m ∧ Becomes t m.dstRood x y ∧ RestoreSide x y := by
  have heeds := heeds_recvMsg heard row.listed
  obtain ⟨⟨is, -⟩, -⟩ := heard
  exact ⟨_, _, row.exec_eq s, heeds.applied, heeds.becomes, row.side is rests _⟩

end

/-! ## O60 -/

/-- Settles O60, message by message: what each does at its rood, and what waits in answer. -/
theorem queriesAndShardsFollowTheirMessages : Obligations.QueriesAndShardsFollowTheirMessages := by
  refine ⟨fun m s x => ⟨?_, ?_, ?_⟩, fun m s x => ⟨?_, ?_, ?_, ?_, ?_, ?_, ?_, ?_, ?_, ?_⟩⟩
  · intro heard first whole
    exact ⟨vecReq_holds heard first, vecReq_refuses heard first, fun v all served => vecReq_answers heard first all served⟩
  · intro heard o awaited all
    obtain ⟨t, ran, applied, becomes⟩ := vecList_joins awaited heard
    exact ⟨t, _, ran, applied, becomes, fun part => listed_part part, fun l whole => listed_whole whole⟩
  · intro heard o d q awaited cmd report
    exact vecRefuse_ends awaited heard cmd report
  · intro heard h st
    exact ⟨shardOffer_refused heard, shardOffer_accepted heard⟩
  · intro heard k offered waits some_data fits rood
    exact shardAccept_sends heard offered waits some_data fits rood
  · intro heard u d q run trailing cmd report refused
    exact shardRefuse_ends heard run trailing cmd report refused
  · intro heard i idle only src op place short
    exact shardData_stored heard idle only src op place short
  · intro heard now
    exact shardDone_durable heard
  · exact invReq_answered
  · exact shardGet_absent
  · intro u heard run waits others all
    exact ⟨fun short => invList_held heard run waits (Nat.not_le_of_lt short), invList_joins heard run waits others⟩
  · intro u d q f s₀ seqs run cmd only src op chosen chain
    refine ⟨fun heard ok part sound => shardHdr_kept run cmd only src op chosen chain heard ok part sound, ?_⟩
    rintro heard report held queue one rfl sound lacking last
    exact shardNone_ends run cmd only src op chosen chain heard report ⟨held, queue⟩ one sound lacking last
  · intro typ i row heard
    refine ⟨restoreRow_idle row heard, fun held _ queue => ?_⟩
    obtain ⟨t, y, ran, applied, becomes, side⟩ := restoreRow_side row heard ⟨held, queue⟩
    exact ⟨t, y, ran, applied, becomes, side.stores⟩

end Sys2Proof.Machine
end

section
/-! PROOF. What the translation layer leaves of the NAND and of the roods (R384, R499), and the training sets of the NOR (R488, R489);
with them obligation O51. -/
namespace Sys2Proof.Machine
open Sys2Proof

/-! ## Blocks of the NAND (R384) -/

/-- Where a block lies. -/
def Block.place (b : Block) : Nat × Nat × Nat := (b.chan, b.lun, b.block)

/-- The block lies at a place. -/
def Block.liesAt (c l b : Nat) (k : Block) : Bool := k.chan == c && k.lun == l && k.block == b

theorem liesAt_iff {c l b : Nat} {k : Block} : k.liesAt c l b = true ↔ k.place = (c, l, b) := by
  simp [Block.liesAt, Block.place, and_assoc]

theorem block_eq (c l b : Nat) (f : Flash) :
    f.block c l b = (f.blocks.find? (Block.liesAt c l b)).getD
      { chan := c, lun := l, block := b, erases := 0, reads := 0, bad := false, lost := false, worn := false } := rfl

theorem modBlock_blocks (c l b : Nat) (g : Block → Block) (f : Flash) :
    (f.modBlock c l b g).blocks = g (f.block c l b) :: f.blocks.filter (fun k => !k.liesAt c l b) := rfl

theorem block_place (c l b : Nat) (f : Flash) : (f.block c l b).place = (c, l, b) := by
  rw [block_eq]
  cases found : f.blocks.find? (Block.liesAt c l b) with
  | none => rfl
  | some k => exact liesAt_iff.mp (List.find?_some found)

section
variable {c l b : Nat} {g : Block → Block} (stays : ∀ k, (g k).place = k.place)
include stays

theorem block_modBlock_same (f : Flash) : (f.modBlock c l b g).block c l b = g (f.block c l b) := by
  have here : (g (f.block c l b)).liesAt c l b = true := liesAt_iff.mpr ((stays _).trans (block_place c l b f))
  rw [block_eq, modBlock_blocks, List.find?_cons_of_pos here, Option.getD_some]

theorem block_modBlock_other {c' l' b' : Nat} (other : (c', l', b') ≠ (c, l, b)) (f : Flash) :
    (f.modBlock c l b g).block c' l' b' = f.block c' l' b' := by
  have elsewhere : ∀ {k : Block}, k.place = (c, l, b) → ¬ k.liesAt c' l' b' = true :=
    fun here there => other ((liesAt_iff.mp there).symm.trans here)
  rw [block_eq, block_eq, modBlock_blocks, List.find?_cons_of_neg (elsewhere ((stays _).trans (block_place c l b f))),
    List.find?_filter]
  congr 2
  funext k
  by_cases here : k.liesAt c l b = true
  · simp [here, elsewhere (liesAt_iff.mp here)]
  · simp [here]

end

/-- A retired block is bad, and stays so whatever else is retired. -/
theorem retire_bad (l : List Block) (f : Flash) (c u b : Nat)
    (bad : (f.block c u b).bad = true ∨ (c, u, b) ∈ l.map Block.place) : ((f.retire l).block c u b).bad = true := by
  induction l generalizing f with
  | nil => exact bad.resolve_right List.not_mem_nil
  | cons k l ih =>
    refine ih (f.modBlock k.chan k.lun k.block (fun k => { k with bad := true })) ?_
    by_cases same : (c, u, b) = k.place
    · obtain ⟨rfl, rfl, rfl⟩ : c = k.chan ∧ u = k.lun ∧ b = k.block := by simpa [Block.place] using same
      exact .inl (congrArg Block.bad (block_modBlock_same (g := fun k => { k with bad := true }) (fun _ => rfl) f))
    · rw [block_modBlock_other (g := fun k => { k with bad := true }) (fun _ => rfl) same]
      exact bad.imp_right (fun listed => (List.mem_cons.mp listed).resolve_left same)

/-- A block that has been retired stays bad when it, or another, is programmed. -/
theorem block_modBlock_bad {c l b : Nat} {g : Block → Block} (stays : ∀ k, (g k).place = k.place) (kept : ∀ k, (g k).bad = k.bad)
    (f : Flash) (c' l' b' : Nat) : ((f.modBlock c l b g).block c' l' b').bad = (f.block c' l' b').bad := by
  by_cases same : (c', l', b') = (c, l, b)
  · cases same
    rw [block_modBlock_same stays, kept]
  · rw [block_modBlock_other stays same]

/-! ## FLASH_RELOCATE (R384) -/

/-- The device whose NAND has worn as `w` says. -/
def Dev.worn (w : Wear) (d : Dev) : Dev := { d with flash := d.flash.wear w }

/-- A block that has just been programmed. -/
def Block.programmed (k : Block) : Block := { k with reads := 0, lost := false }

/-- The device once the extent of a rood lies on another block of its channel. -/
def Dev.relocated (p : Nat × Nat × Nat) (x : Rood) (e : Extent) (n : Block) (failed : List Block) (d : Dev) : Dev :=
  ({ d.setRood (x.relocate p e) with
    flash := (d.flash.retire failed).modBlock n.chan n.lun n.block Block.programmed } : Dev).count .device 0 (8 + p.1) 1

section
variable {p : Nat × Nat × Nat} {weak : Bool} {d : Dev}

theorem relocate_none (h : d.relocationDue p weak = false ∨ d.extentOwner p = none) : d.relocate p weak = d := by
  unfold Dev.relocate
  rcases h with not_due | unowned
  · rw [not_due]
    rfl
  · rw [unowned]
    split <;> rfl

variable {x : Rood} {e : Extent} {n : Block} {failed : List Block} (due : d.relocationDue p weak = true)
  (owner : d.extentOwner p = some x) (ext : x.extentAt p = some e)
  (program : programBlock (fun u => d.flash.freeBlock u p.1) d.flash.tries (x.usedPlaces ⟨0, d⟩) = some (n, failed))
include due owner ext program

theorem relocate_unreadable (lost : d.flash.readExtent x.storageKey e = none) :
    d.relocate p weak = { d with flash := d.flash.retire [d.flash.block p.1 p.2.1 p.2.2] } := by
  simp only [Dev.relocate, due, owner, ext, program, Rood.moveExtent, lost, Bool.not_true, Bool.false_eq_true, if_false,
    Option.map_none]

theorem relocate_moves {bs : List Byte} (read : d.flash.readExtent x.storageKey e = some bs) :
    d.relocate p weak = d.relocated p x (sealExtent x.storageKey x.num e.number n bs) n failed := by
  simp only [Dev.relocate, due, owner, ext, program, Rood.moveExtent, read, Bool.not_true, Bool.false_eq_true, if_false,
    Option.map_some]
  rfl

end

/-- What an extent is known by, where `n` stands for the block at `p`. -/
theorem relocate_extents {p : Nat × Nat × Nat} {x : Rood} {e new : Extent} (unique : ∀ o ∈ x.flash, ∀ k ∈ o.exts, k.place = p → k = e)
    (number : new.number = e.number) :
    (x.relocate p new).flash.map (fun o => (o.id, o.kind, o.size, o.exts.map (fun k => (k.number, k.place)))) =
      x.flash.map (fun o => (o.id, o.kind, o.size, o.exts.map (fun k =>
        if k.place = p then (k.number, new.place) else (k.number, k.place)))) := by
  have moved : ∀ o ∈ x.flash, (o.exts.map (fun k => if k.place == p then new else k)).map (fun k => (k.number, k.place)) =
      o.exts.map (fun k => if k.place = p then (k.number, new.place) else (k.number, k.place)) := by
    intro o ho
    rw [List.map_map]
    refine List.map_congr_left (fun k hk => ?_)
    by_cases here : k.place = p
    · rw [Function.comp_apply, if_pos (beq_iff_eq.mpr here), if_pos here, number, unique o ho k hk here]
    · rw [Function.comp_apply, if_neg (by simpa using here), if_neg here]
  rw [Rood.relocate, List.map_map]
  refine List.map_congr_left (fun o ho => ?_)
  rw [Function.comp_apply, moved o ho]

theorem exec_flashRelocate (c l b : Nat) (w : Wear) (s : State) :
    exec (.flashRelocate c l ⟨b, w⟩) s =
      .next (onDev (fun _ d => (d.worn w).relocate (c, l, b) (w.weak.contains (c, l, b))) s) := rfl

section
variable {c l b : Nat} {w : Wear} {s : State}

theorem flashRelocate_none (h : (s.dev.worn w).relocationDue (c, l, b) (w.weak.contains (c, l, b)) = false ∨
    (s.dev.worn w).extentOwner (c, l, b) = none) :
    exec (.flashRelocate c l ⟨b, w⟩) s = .next { s with dev := s.dev.worn w } :=
  congrArg Host.Outcome.next (onDev_silent (relocate_none h) ⟨rfl, rfl, rfl, rfl, rfl, rfl⟩)

variable {x : Rood} {e : Extent} {n : Block} {failed : List Block}
  (due : (s.dev.worn w).relocationDue (c, l, b) (w.weak.contains (c, l, b)) = true)
  (owner : (s.dev.worn w).extentOwner (c, l, b) = some x) (ext : x.extentAt (c, l, b) = some e)
  (program : programBlock (fun u => (s.dev.worn w).flash.freeBlock u c) (s.dev.worn w).flash.tries (x.usedPlaces (ctxWorn w s)) =
    some (n, failed))
include due owner ext program

theorem flashRelocate_unreadable (lost : (s.dev.worn w).flash.readExtent x.storageKey e = none) :
    exec (.flashRelocate c l ⟨b, w⟩) s = .next { s with dev := { s.dev with
      flash := (s.dev.worn w).flash.retire [(s.dev.worn w).flash.block c l b] } } :=
  congrArg Host.Outcome.next (onDev_silent (relocate_unreadable due owner ext program lost) ⟨rfl, rfl, rfl, rfl, rfl, rfl⟩)

theorem flashRelocate_moves (rood : s.dev.rood? x.num = some x) (unique : ∀ o ∈ x.flash, ∀ k ∈ o.exts, k.place = (c, l, b) → k = e)
    {bs : List Byte} (read : (s.dev.worn w).flash.readExtent x.storageKey e = some bs) :
    ∃ t y, exec (.flashRelocate c l ⟨b, w⟩) s = .next t ∧ t.clock = s.clock ∧ t.dev.rood? x.num = some y ∧
      y = { x with flash := y.flash, freedExts := y.freedExts } ∧ (∀ q, q ≠ x.num → t.dev.rood? q = s.dev.rood? q) ∧
      y.flash.map (fun o => (o.id, o.kind, o.size, o.exts.map (fun k => (k.number, k.place)))) =
        x.flash.map (fun o => (o.id, o.kind, o.size, o.exts.map (fun k =>
          if k.place = (c, l, b) then (k.number, (n.chan, n.lun, n.block)) else (k.number, k.place)))) ∧
      y.freedExts = x.freedExts ++ (x.flash.flatMap (fun o => o.exts)).filter (fun k => k.place == (c, l, b)) ∧
      (∀ k ∈ failed, (t.dev.flash.block k.chan k.lun k.block).bad = true) ∧
      t.dev.counters = counterAdd ⟨.device, 0, 8 + c⟩ 1 s.dev.counters := by
  have moved := relocate_moves due owner ext program read
  generalize sealed : sealExtent x.storageKey x.num e.number n bs = new at moved
  refine ⟨_, x.relocate (c, l, b) new, exec_flashRelocate c l b w s, rfl, ?_, rfl, fun q other => ?_, ?_, rfl, fun k hk => ?_, ?_⟩
  · rw [onDev_dev, moved, signal_rood?]
    show ((s.dev.worn w).setRood (x.relocate (c, l, b) new)).rood? x.num = _
    rw [setRood_rood?]
    refine (if_pos rfl).trans ?_
    exact congrArg (Option.map _) rood
  · rw [onDev_dev, moved, signal_rood?]
    show ((s.dev.worn w).setRood (x.relocate (c, l, b) new)).rood? q = _
    rw [setRood_rood?]
    exact if_neg other
  · rw [relocate_extents unique (by rw [← sealed]; rfl), ← sealed]
    rfl
  · rw [onDev_dev, moved, signal_flash]
    show (((Flash.retire failed _).modBlock n.chan n.lun n.block Block.programmed).block k.chan k.lun k.block).bad = true
    rw [block_modBlock_bad (g := Block.programmed) (fun _ => rfl) (fun _ => rfl)]
    exact retire_bad failed _ _ _ _ (.inr (List.mem_map_of_mem hk))
  · rw [onDev_dev, moved, signal_counters]
    rfl

end

/-! ## EXTENT_ERASE and LUN_REBUILD_DONE (R384, R499) -/

/-- A block of which the erase has ended. -/
def Block.eraseEnded (k : Block) : Block :=
  if k.worn then { k with bad := true } else { k with erases := k.erases + 1, reads := 0, lost := false }

theorem eraseEnded_place (k : Block) : k.eraseEnded.place = k.place := by
  unfold Block.eraseEnded
  split <;> rfl

/-- The device once the erase of a freed place has ended. -/
def Dev.erasedAt (c l b : Nat) (d : Dev) : Dev :=
  let f := d.flash.modBlock c l b Block.eraseEnded
  { d with roods := d.roods.map (fun x => x.erased (c, l, b)), flash := { f with freed := f.freed.filter (fun q => q != (c, l, b)) } }

theorem erased_freed (p : Nat × Nat × Nat) (x : Rood) : ({ x.erased p with freedExts := [] } : Rood) = { x with freedExts := [] } := by
  unfold Rood.erased
  split <;> rfl

theorem exec_extentErase (c l b : Nat) (w : Wear) (s : State) :
    exec (.extentErase c l ⟨b, w⟩) s = .next (onDev (fun _ d => (d.worn w).eraseExtent (c, l, b)) s) := rfl

theorem extentErase_kept {c l b : Nat} {w : Wear} {s : State} (h : (s.dev.worn w).erasable (c, l, b) = false) :
    exec (.extentErase c l ⟨b, w⟩) s = .next { s with dev := s.dev.worn w } := by
  have kept : (s.dev.worn w).eraseExtent (c, l, b) = s.dev.worn w := by rw [Dev.eraseExtent, h]; rfl
  exact congrArg Host.Outcome.next (onDev_silent kept ⟨rfl, rfl, rfl, rfl, rfl, rfl⟩)

theorem extentErase_erases {c l b : Nat} {w : Wear} {s : State} (h : (s.dev.worn w).erasable (c, l, b) = true) :
    ∃ t, exec (.extentErase c l ⟨b, w⟩) s = .next t ∧ t.clock = s.clock ∧ (c, l, b) ∉ t.dev.flash.freed ∧
      t.dev.flash.block c l b = ((s.dev.worn w).flash.block c l b).eraseEnded ∧
      (∀ c' l' b', (c', l', b') ≠ (c, l, b) → t.dev.flash.block c' l' b' = (s.dev.worn w).flash.block c' l' b') ∧
      t.dev.roods.map (fun x => { x with freedExts := [] }) = s.dev.roods.map (fun x => { x with freedExts := [] }) := by
  have erased : (s.dev.worn w).eraseExtent (c, l, b) = (s.dev.worn w).erasedAt c l b := by
    rw [Dev.eraseExtent, h]
    rfl
  refine ⟨_, exec_extentErase c l b w s, rfl, ?_, ?_, fun c' l' b' other => ?_, ?_⟩
  · rw [onDev_dev, erased, signal_flash]
    simp [Dev.erasedAt]
  · rw [onDev_dev, erased, signal_flash]
    exact block_modBlock_same eraseEnded_place (s.dev.worn w).flash
  · rw [onDev_dev, erased, signal_flash]
    exact block_modBlock_other eraseEnded_place other (s.dev.worn w).flash
  · rw [onDev_dev, erased, signal_roods, Dev.erasedAt, List.map_map]
    exact List.map_congr_left (fun x _ => erased_freed (c, l, b) x)

theorem lunRebuildDone_idle {s : State} (h : s.dev.ready = false) (c l b : Nat) : exec (.lunRebuildDone c l b) s = .next s :=
  congrArg Host.Outcome.next (onDev_idle (if_pos (by rw [h]; rfl)))

theorem lunRebuildDone_joins {s : State} (h : s.dev.ready = true) (c l b : Nat) :
    ∃ t, exec (.lunRebuildDone c l b) s = .next t ∧ t.dev.roods = s.dev.roods ∧ t.dev.flash.blocks = s.dev.flash.blocks ∧
      t.dev.flash.luns = s.dev.flash.luns.map (fun u =>
        if u.chan = c ∧ u.ce = l ∧ u.lun = b ∧ u.rebuilding = true then { u with rebuilding := false, joined := true } else u) := by
  have joins : exec (.lunRebuildDone c l b) s = .next { s with dev := { s.dev with flash := { s.dev.flash with
      luns := s.dev.flash.luns.map (fun u => if u.chan == c && u.ce == l && u.lun == b && u.rebuilding
        then { u with rebuilding := false, joined := true } else u) } } } :=
    congrArg Host.Outcome.next (onDev_silent (if_neg (by rw [h]; decide)) ⟨rfl, rfl, rfl, rfl, rfl, rfl⟩)
  refine ⟨_, joins, rfl, rfl, List.map_congr_left (fun u _ => ?_)⟩
  simp only [Bool.and_eq_true, beq_iff_eq, and_assoc]

/-! ## TRAINING_SET_WRITE (R488, R489) -/

section
variable {s : State} {moved durable : Bool}

theorem trainingSetWrite_idle (h : s.dev.ready = false ∨ (s.dev.boot.trainedInFull = false ∧ moved = false)) :
    exec (.trainingSetWrite moved durable) s = .next s := by
  refine congrArg Host.Outcome.next (onDev_idle (if_neg ?_))
  rcases h with not_ready | ⟨restored, still⟩
  · simp [not_ready]
  · simp [restored, still]

theorem trainingSetWrite_writes (ready : s.dev.ready = true) (needed : s.dev.boot.trainedInFull = true ∨ moved = true) :
    ∃ t, exec (.trainingSetWrite moved durable) s = .next t ∧ t.dev.roods = s.dev.roods ∧ t.clock = s.clock ∧
      t.dev.boot = s.dev.boot.writeTraining durable := by
  have writes : (s.dev.ready && (s.dev.boot.trainedInFull || moved)) = true := by simp [ready, needed]
  have written : s.dev.trainingWrite moved durable = { s.dev with boot := s.dev.boot.writeTraining durable } := if_pos writes
  refine ⟨onDev (fun _ d => d.trainingWrite moved durable) s, rfl, ?_, rfl, ?_⟩
  · rw [onDev_dev, written, signal_roods]
  · rw [onDev_dev, written, signal_boot]

end

/-- A training set for the device with this serial, as its `n`th write leaves it. -/
def TrainSet.written (serial : W64) (n : Nat) : TrainSet := { serial := serial, stepping := 0xB0, crc := Config.trainCrc n }

/-- The record that names the set of a write beside the one that `k` names. -/
def BootRecord.renaming (serial : W64) (n : Nat) (k : BootRecord) : BootRecord :=
  { k with
    devSerial := serial, writeCount := k.writeCount + 1, trainSet := if k.trainSet = 1 then 2 else 1
    trainCrc := (TrainSet.written serial n).crc }

section
variable {b : Boot} {k : BootRecord} (inForce : b.inForce = some k)
include inForce

/-- A write leaves the set that the record in force names, and writes the other one. -/
theorem writeTraining_sets (durable : Bool) :
    let nor := (b.writeTraining durable).nor
    (k.trainSet = 1 → nor.trainA = b.nor.trainA) ∧ (k.trainSet ≠ 1 → nor.trainB = b.nor.trainB) ∧
      (if k.trainSet = 1 then nor.trainB else nor.trainA) =
        if durable then some (TrainSet.written b.fuses.devSerial b.trainWrites) else none := by
  have copies : ∀ f (b : Boot), (b.writeRecord f).nor.trainA = b.nor.trainA ∧ (b.writeRecord f).nor.trainB = b.nor.trainB := by
    intro f b
    cases inA : b.inA <;> simp [Boot.writeRecord, Boot.putCopy, inA]
  by_cases named : k.trainSet = 1
  · have toB : ((b.record.map (fun r => r.trainSet)).getD 0 == 1) = true := by simp [Boot.record, inForce, named]
    cases durable <;> simp [Boot.writeTraining, toB, named, copies, TrainSet.written]
  · have toA : ((b.record.map (fun r => r.trainSet)).getD 0 == 1) = false := by simp [Boot.record, inForce, named]
    cases durable <;> simp [Boot.writeTraining, toA, named, copies, TrainSet.written]

/-- A write that is cut names nothing new. -/
theorem writeTraining_cut :
    (b.writeTraining false).inForce = some k ∧ (b.writeTraining false).nor.copyA = b.nor.copyA ∧
      (b.writeTraining false).nor.copyB = b.nor.copyB := by
  refine ⟨inForce, ?_, ?_⟩
  · simp only [Boot.writeTraining, Bool.false_eq_true, if_false]
    split <;> rfl
  · simp only [Boot.writeTraining, Bool.false_eq_true, if_false]
    split <;> rfl

/-- A durable set is named by a new record in the other copy. -/
theorem writeTraining_durable :
    (b.writeTraining true).inForce = some (k.renaming b.fuses.devSerial b.trainWrites) ∧ (b.writeTraining true).inA = !b.inA := by
  simp [Boot.writeTraining, Boot.writeRecord, Boot.putCopy, Boot.record, BootRecord.renaming, TrainSet.written, inForce]

end

/-! ## O51 -/

/-- Settles O51, from what each act of the translation layer leaves and from the set that a write of the NOR names. -/
theorem flashAndTrainingSetsAreLookedAfter : Obligations.FlashAndTrainingSetsAreLookedAfter := by
  refine ⟨fun c l b w s => ⟨flashRelocate_none, ?_, extentErase_kept, extentErase_erases, fun off => lunRebuildDone_idle off c l b,
    fun on => lunRebuildDone_joins on c l b⟩, fun moved durable s => ⟨trainingSetWrite_idle, fun k ready needed inForce => ?_⟩⟩
  · intro x e n failed due owner rood ext unique program
    refine ⟨flashRelocate_unreadable due owner ext program, fun readable => ?_⟩
    obtain ⟨bs, read⟩ := Option.isSome_iff_exists.mp readable
    exact flashRelocate_moves due owner ext program rood unique read
  · obtain ⟨t, ran, roods, clock, boot⟩ := trainingSetWrite_writes (durable := durable) ready needed
    obtain ⟨keptA, keptB, other⟩ := writeTraining_sets inForce durable
    rw [← boot] at keptA keptB other
    refine ⟨t, ran, roods, clock, keptA, keptB, ?_, ?_⟩
    · rintro rfl
      obtain ⟨record, copyA, copyB⟩ := writeTraining_cut inForce
      rw [← boot] at record copyA copyB
      exact ⟨record, copyA, copyB, other⟩
    · rintro rfl
      obtain ⟨record, inA⟩ := writeTraining_durable inForce
      rw [← boot] at record inA
      exact ⟨k.renaming _ _, TrainSet.written _ _, record, inA, rfl, rfl, rfl, rfl, rfl, other⟩

end Sys2Proof.Machine
end

section
/-! PROOF. What an OFFER does to the rood that it names (R393, Table 13.10; log entry 28). -/
namespace Sys2Proof.Machine
open Sys2Proof

/-! ## A free slot (R89) -/

/-- The slot at the head of the list of the manager with the fewest non-FREE slots: with the manager's count and position before it,
and the list without it behind it. -/
def Rood.freeHead (x : Rood) : Option (Nat × Nat × Nat × FreeList) :=
  ((List.range x.width).filterMap (fun p =>
    match x.freeLists[p]? with
    | some l => (l.pop x.slotCap x.width).map (fun q => (x.busySlots p, p, q.1, q.2))
    | none => none)).foldl (fun b c => match b with
      | none => some c
      | some d => if c.1 < d.1 then some c else some d) none

theorem popSlot_eq (x : Rood) :
    x.popSlot = x.freeHead.map (fun q => (q.2.2.1, { x with freeLists := x.freeLists.set q.2.1 q.2.2.2 })) := by
  have arms : ∀ h : Option (Nat × Nat × Nat × FreeList), (match h with
      | some (_, p, i, l) => some (i, { x with freeLists := x.freeLists.set p l })
      | none => none) = h.map (fun q => (q.2.2.1, { x with freeLists := x.freeLists.set q.2.1 q.2.2.2 })) := by
    rintro (_ | ⟨_, _, _, _⟩) <;> rfl
  exact arms x.freeHead

/-- Taking a free slot changes the free lists alone. -/
theorem popSlot_lists {x y : Rood} {i : Nat} (pops : x.popSlot = some (i, y)) : y = { x with freeLists := y.freeLists } := by
  rw [popSlot_eq] at pops
  obtain ⟨q, -, taken⟩ := Option.map_eq_some_iff.mp pops
  cases taken
  rfl

/-- What a rood counts and asks for has no part in the choice. -/
theorem popSlot_counted (m : ChainMsg) (x : Rood) :
    (x.counted m).popSlot = x.popSlot.map (fun p => (p.1, { x.counted m with freeLists := p.2.freeLists })) := by
  have same : (x.counted m).freeHead = x.freeHead := rfl
  rw [popSlot_eq, popSlot_eq, same, Option.map_map]
  rfl

/-! ## The tests of Table 13.10 -/

theorem origin_advance (now : W64) (m : ChainMsg) (d : Dev) :
    Ctx.origin ⟨now, d.advance m⟩ m.src m.op = Ctx.origin ⟨now, d⟩ m.src m.op := by
  simp only [Ctx.origin, advance_pair]

theorem offerTest_counted (now : W64) (m : ChainMsg) (d : Dev) (x : Rood) :
    (x.counted m).offerTest ⟨now, d.advance m⟩ m.src m.srcRood m.op m.payload =
      x.offerTest ⟨now, d⟩ m.src m.srcRood m.op m.payload := by
  unfold Rood.offerTest
  rw [popSlot_counted, origin_advance]
  cases x.popSlot with
  | none => rfl
  | some p => rfl

/-! ## The slot and the record that are reserved (R393) -/

/-- The rood once it has reserved a slot and a record for an arrival. -/
def Rood.reserving (i : Nat) (free : List FreeList) (a : Arrival) (x : Rood) : Rood :=
  (({ x with freeLists := free, arrivals := x.arrivals ++ [a] } : Rood).setSlot i { x.slot i with taken := true }).modCring a.cring
    (fun c => { c with reserved := c.reserved + 1 })

section
variable {ctx : Ctx} {src srcRood op : Nat} {payload : List Byte} {y z : Rood} {i : Nat}

theorem takeOffer_refuses (failed : y.offerTest ctx src srcRood op payload ≠ 0) :
    y.takeOffer ctx src srcRood op payload =
      y.sendChain src 0x03 srcRood op (leBytes 4 (y.offerTest ctx src srcRood op payload)) := if_pos failed

/-- An arrival without its frames stays open. -/
theorem arrivalOn_waits {a : Arrival} (waits : a.frames.length ≠ hdrFrames a.header ∨ a.list.length ≠ 8 * hdrFrames a.header) :
    y.arrivalOn ctx a = y := if_neg (fun ⟨frames, list⟩ => waits.elim (· frames) (· list))

theorem takeOffer_accepts (passed : y.offerTest ctx src srcRood op payload = 0) (pops : y.popSlot = some (i, z))
    (some_frames : 0 < hdrFrames (payload.take 512)) :
    y.takeOffer ctx src srcRood op payload =
      (y.reserving i z.freeLists (y.arrivalOf src srcRood op i payload (ctx.origin src op))).sendChain src 0x02 srcRood op
        (leBytes 4 ((y.slot i).gen <<< 24 ||| i)) := by
  have lists := popSlot_lists pops
  have open_still : (y.arrivalOf src srcRood op i payload (ctx.origin src op)).frames.length ≠
      hdrFrames (y.arrivalOf src srcRood op i payload (ctx.origin src op)).header := Nat.ne_of_lt some_frames
  have named : (z.setSlot i { z.slot i with taken := true }).handleOf i = (y.slot i).gen <<< 24 ||| i := by
    rw [Rood.handleOf, slot_setSlot, if_pos rfl, lists]
    rfl
  unfold Rood.takeOffer
  rw [if_neg (not_not_intro passed), pops]
  refine (arrivalOn_waits (.inl open_still)).trans ?_
  show Rood.sendChain src 0x02 srcRood op (leBytes 4 ((z.setSlot i { z.slot i with taken := true }).handleOf i)) _ = _
  rw [named]
  generalize leBytes 4 ((y.slot i).gen <<< 24 ||| i) = handle
  rw [lists]
  rfl

end

/-! ## OFFER, and what its sender holds beside it (log entry 28) -/

/-- The state in which what came with an OFFER is known. -/
def State.withOrigin (m : ChainMsg) (o : Origin) (s : State) : State := { s with dev := s.dev.withOrigin m o }

theorem withOrigin_pair (m : ChainMsg) (o : Origin) (d : Dev) :
    (d.withOrigin m o).pair m.src = { d.pair m.src with origins := putKey m.op o (d.pair m.src).origins } := by
  rw [Dev.withOrigin, pair_setPair, if_pos (pair_peer m.src d).symm]

theorem withOrigin_origin (now : W64) (m : ChainMsg) (o : Origin) (d : Dev) :
    Ctx.origin ⟨now, d.withOrigin m o⟩ m.src m.op = o := by
  simp only [Ctx.origin, withOrigin_pair, lookKey_putKey_same, Option.getD_some]

theorem signal_pair (a d : Dev) (q : Nat) : (Dev.signal a d).pair q = d.pair q := by rw [Dev.pair, Dev.pair, signal_chain]

/-- What came with an OFFER is all that goes when it has been applied. -/
theorem trimOrigins_pair (q : Nat) (d : Dev) : ∃ l, (d.trimOrigins q).pair q = { d.pair q with origins := l } := by
  rw [Dev.trimOrigins, pair_setPair, if_pos (pair_peer q d).symm]
  exact ⟨_, rfl⟩

section
variable {s : State} {m : ChainMsg} {x : Rood} (heard : Heard s 0x01 m x) (o : Origin)
include heard

theorem withOrigin_heard : Heard (s.withOrigin m o) 0x01 m x := by
  obtain ⟨⟨typ, hears, crc, seq, opened, epoch, ahead, unanswered, alone⟩, live, rood⟩ := heard
  refine ⟨⟨typ, hears, crc, seq, ?_, ?_, ?_, ?_, ?_⟩, live, rood⟩
  all_goals
    rw [State.withOrigin, withOrigin_pair]
    assumption

/-- The row of an OFFER. -/
theorem heeds_offer :
    ∃ t, exec (.offer ⟨m, o⟩) s = .next t ∧ Heeds s t m x ⟨s.clock.time, (s.dev.withOrigin m o).advance m⟩ := by
  have heeds : Heeds (s.withOrigin m o) { s.withOrigin m o with
      dev := Dev.signal (s.withOrigin m o).dev ((s.dev.withOrigin m o).arrive s.clock.time m) } m x
      ⟨s.clock.time, (s.dev.withOrigin m o).advance m⟩ := heeds_arrive (withOrigin_heard heard o) (by decide) rfl
  obtain ⟨⟨typ, hears, -⟩, -⟩ := heard
  have ran : execOffer ⟨m, o⟩ s =
      .next { s with dev := Dev.signal s.dev (((s.dev.withOrigin m o).arrive s.clock.time m).trimOrigins m.src) } := by
    unfold execOffer onDev
    dsimp only
    rw [if_pos ⟨typ, hears⟩]
  generalize (s.dev.withOrigin m o).arrive s.clock.time m = e at heeds ran
  obtain ⟨l, trimmed⟩ := trimOrigins_pair m.src e
  obtain ⟨⟨seq, epoch, -, -⟩, becomes, replies⟩ := heeds
  rw [signal_pair] at seq epoch
  refine ⟨_, ran, ⟨⟨?_, ?_, rfl, rfl⟩, ?_, fun typ b asked c part route => ?_⟩⟩
  · rw [signal_pair, trimmed]
    exact seq
  · rw [signal_pair, trimmed]
    refine epoch.trans ?_
    rw [State.withOrigin, withOrigin_pair]
  · rw [Becomes, signal_rood?] at becomes ⊢
    exact becomes
  · have waits := replies typ b asked c part route
    rw [signal_pair] at waits ⊢
    rw [trimmed]
    exact waits

theorem offer_refused {st : Nat} (test : x.offerTest ⟨s.clock.time, s.dev.withOrigin m o⟩ m.src m.srcRood m.op m.payload = st)
    (failed : st ≠ 0) :
    ∃ t, exec (.offer ⟨m, o⟩) s = .next t ∧ Applied s t m ∧ Becomes t m.dstRood x ((x.heard m).sent 4) ∧
      Replied s t m 0x03 (leBytes 4 st) := by
  obtain ⟨t, ran, heeds⟩ := heeds_offer heard o
  obtain ⟨⟨typ, -⟩, -⟩ := heard
  have here := (offerTest_counted s.clock.time m (s.dev.withOrigin m o) x).trans test
  have taken : x.applyMsg m ⟨s.clock.time, (s.dev.withOrigin m o).advance m⟩ =
      ((x.heard m).asking (x.count 10 1).fx).sendChain m.src 0x03 m.srcRood m.op (leBytes 4 st) := by
    have refuses := takeOffer_refuses (by rw [here]; exact failed)
    rw [here] at refuses
    rw [Rood.applyMsg, typ]
    exact refuses
  obtain ⟨becomes, replied⟩ := heeds.answers taken
  rw [leBytes_length] at becomes
  exact ⟨t, ran, heeds.applied, becomes, replied _ (mem_chainParts (by rw [leBytes_length]; decide))⟩

theorem offer_reserves {i : Nat} {y : Rood}
    (passed : x.offerTest ⟨s.clock.time, s.dev.withOrigin m o⟩ m.src m.srcRood m.op m.payload = 0)
    (pops : x.popSlot = some (i, y)) (some_frames : 0 < hdrFrames (m.payload.take 512)) :
    ∃ t, exec (.offer ⟨m, o⟩) s = .next t ∧ Applied s t m ∧ Replied s t m 0x02 (leBytes 4 ((x.slot i).gen <<< 24 ||| i)) ∧
      Becomes t m.dstRood x (((x.reserving i y.freeLists (x.arrivalOf m.src m.srcRood m.op i m.payload o)).heard m).sent 4) := by
  obtain ⟨t, ran, heeds⟩ := heeds_offer heard o
  obtain ⟨⟨typ, -⟩, -⟩ := heard
  have here := (offerTest_counted s.clock.time m (s.dev.withOrigin m o) x).trans passed
  have popsHere : (x.counted m).popSlot = some (i, { x.counted m with freeLists := y.freeLists }) := by
    rw [popSlot_counted, pops]
    rfl
  have taken : x.applyMsg m ⟨s.clock.time, (s.dev.withOrigin m o).advance m⟩ =
      (((x.reserving i y.freeLists (x.arrivalOf m.src m.srcRood m.op i m.payload o)).heard m).asking (x.count 10 1).fx).sendChain
        m.src 0x02 m.srcRood m.op (leBytes 4 ((x.slot i).gen <<< 24 ||| i)) := by
    have accepts := takeOffer_accepts here popsHere some_frames
    rw [origin_advance, withOrigin_origin] at accepts
    rw [Rood.applyMsg, typ]
    exact accepts
  obtain ⟨becomes, replied⟩ := heeds.answers taken
  rw [leBytes_length] at becomes
  exact ⟨t, ran, heeds.applied, replied _ (mem_chainParts (by rw [leBytes_length]; decide)), becomes⟩

end

end Sys2Proof.Machine
end

section
/-! PROOF. The messages of a move after its OFFER (R394, R395, R399, Table 13.9): the bushel that leaves and arrives, and what ends a
move; with them obligation O59. -/
namespace Sys2Proof.Machine
open Sys2Proof

/-! ## A rood that sends (Table 18.4) -/

/-- Only what the rood has sent, and what it asks for, differ, and what it had asked for it still asks for. -/
structure Speaks (x y : Rood) : Prop where
  sends : ∃ n f, y = (x.sent n).asking f
  asks : ∀ e ∈ x.fx, e ∈ y.fx

theorem Speaks.refl (x : Rood) : Speaks x x := ⟨⟨0, x.fx, rfl⟩, fun _ h => h⟩

theorem Speaks.trans {x y z : Rood} (h : Speaks x y) (k : Speaks y z) : Speaks x z := by
  obtain ⟨⟨n, f, rfl⟩, asks⟩ := h
  obtain ⟨⟨n', f', rfl⟩, asks'⟩ := k
  refine ⟨⟨n + n', f', ?_⟩, fun e he => asks' e (asks e he)⟩
  simp only [Rood.sent, Rood.asking, Nat.add_assoc]

theorem Speaks.foldl {α : Type} {f : Rood → α → Rood} (h : ∀ y a, Speaks y (f y a)) (l : List α) (x : Rood) :
    Speaks x (l.foldl f x) := by
  induction l generalizing x with
  | nil => exact .refl x
  | cons a l ih => exact (h x a).trans (ih _)

theorem countSlice_speaks (pos idx n : Nat) (x : Rood) : Speaks x (x.countSlice pos idx n) := by
  refine ⟨⟨0, _, countSlice_asking pos idx n x⟩, fun e he => ?_⟩
  unfold Rood.countSlice
  split
  · exact he
  · exact List.mem_cons_of_mem _ he

theorem countCopied_speaks (keys : List Nat) (x : Rood) : Speaks x (x.countCopied keys) :=
  .foldl (fun y p => countSlice_speaks p 23 _ y) _ x

theorem sendChain_speaks (p t r o : Nat) (b : List Byte) (x : Rood) : Speaks x (x.sendChain p t r o b) := by
  obtain ⟨f, sends⟩ := sendChain_asking p t r o b x
  refine ⟨⟨b.length, f, sends⟩, fun e he => ?_⟩
  rw [sendChain_eq]
  show e ∈ ((x.ask (.chain p t r o b)).count 9 _).fx
  unfold Rood.count
  split
  · exact List.mem_cons_of_mem _ he
  · exact List.mem_cons_of_mem _ (List.mem_cons_of_mem _ he)

/-! ## ACCEPT (R394) -/

/-- The rood once the list of a bushel has left. -/
def Rood.sendList (v : Move) (x : Rood) : Rood :=
  (chunks 65536 (bushelParts v.bushel).2.1).foldl (fun x c => x.sendChain v.peer 0x04 v.peerRood v.op c) x

/-- The rood once the frames of a bushel have left. -/
def Rood.sendFrames (v : Move) (x : Rood) : Rood :=
  (bushelParts v.bushel).2.2.zipIdx.foldl (fun x f => x.sendChain v.peer 0x05 v.peerRood v.op (leBytes 4 f.2 ++ zeros 4 ++ f.1)) x

theorem sendList_speaks (v : Move) (x : Rood) : Speaks x (x.sendList v) :=
  .foldl (fun y c => sendChain_speaks v.peer 0x04 v.peerRood v.op c y) _ x

theorem sendFrames_speaks (v : Move) (x : Rood) : Speaks x (x.sendFrames v) := by
  unfold Rood.sendFrames
  exact .foldl (fun y _ => sendChain_speaks _ _ _ _ _ y) _ x

/-- The frames of a bushel leave after its list, and are counted. -/
theorem sendBushel_speaks (v : Move) (x : Rood) : Speaks (x.sendList v) (x.sendBushel v) := by
  have frames := sendFrames_speaks v (x.sendList v)
  have sends : x.sendBushel v = if v.kind = 5
      then ((x.sendList v).sendFrames v).countSlice (v.slot % ((x.sendList v).sendFrames v).width) 23 (bushelParts v.bushel).2.2.length
      else ((x.sendList v).sendFrames v).countCopied
        (((((x.sendList v).sendFrames v).entry? v.slot).map (fun e => ((x.sendList v).sendFrames v).frameKeys v.slot e)).getD []) := rfl
  rw [sends]
  split
  · exact frames.trans (countSlice_speaks _ _ _ _)
  · exact frames.trans (countCopied_speaks _ _)

/-- A list that one message holds leaves in one. -/
theorem sendBushel_lists {v : Move} (some_list : (bushelParts v.bushel).2.1 ≠ []) (fits : (bushelParts v.bushel).2.1.length ≤ 65536)
    (x : Rood) : .chain v.peer 0x04 v.peerRood v.op (bushelParts v.bushel).2.1 ∈ (x.sendBushel v).fx := by
  have list : x.sendList v = x.sendChain v.peer 0x04 v.peerRood v.op (bushelParts v.bushel).2.1 := by
    rw [Rood.sendList, chunks_one some_list fits]
    rfl
  refine (sendBushel_speaks v x).asks _ ?_
  rw [list]
  exact sendChain_asks _ _ _ _ _ _

theorem bushel_sent (v : Move) (x : Rood) : ∃ n f, x.sendBushel v = (x.sent n).asking f :=
  ((sendList_speaks v x).trans (sendBushel_speaks v x)).sends

theorem moveOf_named {x : Rood} {peer op : Nat} {v : Move} (move : x.moveOf peer op = some v) : v.peer = peer ∧ v.op = op := by
  have found := List.find?_some (p := fun m : Move => (decide (4 ≤ m.kind) || m.mirrored) && m.peer == peer && m.op == op) move
  simp only [Bool.and_eq_true, beq_iff_eq] at found
  obtain ⟨⟨-, peer⟩, op⟩ := found
  exact ⟨peer, op⟩

section
variable {m : ChainMsg} {s : State} {x : Rood} {v : Move} (heard : Heard s 0x02 m x) (move : x.moveOf m.src m.op = some v)
include heard move

theorem applyMsg_accept (ctx : Ctx) : x.applyMsg m ctx = if v.accepted then x.counted m
    else ((x.counted m).setMove { v with accepted := true }).sendBushel v := by
  obtain ⟨⟨typ, -⟩, -⟩ := heard
  have here : (x.counted m).moveOf m.src m.op = some v := move
  rw [Rood.applyMsg, typ]
  show (x.counted m).takeAccept m.src m.op = _
  rw [Rood.takeAccept, here]

theorem accept_again (again : v.accepted = true) :
    ∃ t, exec (.accept m) s = .next t ∧ Applied s t m ∧ Becomes t m.dstRood x (x.heard m) := by
  have heeds := heeds_recvMsg heard (by decide)
  refine ⟨_, rfl, heeds.applied, heeds.becomes_of (f := (x.count 10 1).fx) ?_⟩
  rw [applyMsg_accept heard move, if_pos again]
  rfl

theorem accept_sends (first : v.accepted = false) :
    ∃ t n, exec (.accept m) s = .next t ∧ Applied s t m ∧
      Becomes t m.dstRood x (((x.setMove { v with accepted := true }).heard m).sent n) ∧
      ∀ h l fs, bushelParts v.bushel = (h, l, fs) → l ≠ [] → l.length ≤ 65536 → v.peerRood = m.srcRood → Replied s t m 0x04 l := by
  have heeds := heeds_recvMsg heard (by decide)
  have work := fun ctx => applyMsg_accept heard move ctx
  simp only [first, Bool.false_eq_true, if_false] at work
  obtain ⟨n, f, sends⟩ := bushel_sent v ((x.counted m).setMove { v with accepted := true })
  refine ⟨_, n, rfl, heeds.applied, heeds.becomes_of (f := f) ((work _).trans sends), fun h l fs parts some_list fits rood => ?_⟩
  obtain ⟨peer, op⟩ := moveOf_named move
  have list : (bushelParts v.bushel).2.1 = l := by rw [parts]
  have asked := sendBushel_lists (v := v) (by rw [list]; exact some_list) (by rw [list]; exact fits)
    ((x.counted m).setMove { v with accepted := true })
  rw [← work ⟨s.clock.time, s.dev.advance m⟩, list, peer, op, rood] at asked
  exact heeds.replies 0x04 l asked l (mem_chainParts (Nat.le_trans fits (by decide)))

end

/-! ## LIST, FRAME and ABORT: a bushel that arrives (R394, R395) -/

theorem arrival_named {x : Rood} {src op : Nat} {a : Arrival} (arrival : x.arrival? src op = some a) : a.src = src ∧ a.op = op := by
  have found := List.find?_some (p := fun a : Arrival => a.src == src && a.op == op) arrival
  simpa using found

/-- The rood in which an arrival stands as another. -/
def Rood.arriving (m : ChainMsg) (a : Arrival) (x : Rood) : Rood :=
  { x with arrivals := x.arrivals.map (fun (b : Arrival) => if b.src = m.src ∧ b.op = m.op then a else b) }

/-- An arrival that is not whole yet is put in its place. -/
theorem putArrival_waits {m : ChainMsg} {a : Arrival} (src : a.src = m.src) (op : a.op = m.op)
    (waits : a.frames.length ≠ hdrFrames a.header ∨ a.list.length ≠ 8 * hdrFrames a.header) (ctx : Ctx) (y : Rood) :
    y.putArrival ctx a = y.arriving m a := by
  unfold Rood.putArrival
  rw [arrivalOn_waits waits, src, op]
  simp only [Bool.and_eq_true, beq_iff_eq]
  rfl

/-- The rood with the slot and the record free again that it had reserved for an arrival. -/
def Rood.released (a : Arrival) (x : Rood) : Rood :=
  ((x.dropArrival a).untakeSlot a.slot).modCring a.cring (fun c => { c with reserved := c.reserved - 1 })

theorem loseArrival_frees {y : Rood} (posted : NonePosted y) (now : W64) (a : Arrival) : y.loseArrival now a = y.released a := by
  have posted' : NonePosted (y.released a) := posted.of_irings rfl
  exact pump_nonePosted posted' now

section
variable {m : ChainMsg} {s : State} {x : Rood} {a : Arrival} (arrival : x.arrival? m.src m.op = some a)
include arrival

theorem list_joins (heard : Heard s 0x04 m x) (waits : a.frames.length ≠ hdrFrames a.header) :
    ∃ t, exec (.list m) s = .next t ∧ Applied s t m ∧
      Becomes t m.dstRood x
        ((x.arriving m { a with list := (a.list ++ m.payload).take (8 * hdrFrames a.header) }).heard m) := by
  have heeds := heeds_recvMsg heard (by decide)
  obtain ⟨⟨typ, -⟩, -⟩ := heard
  obtain ⟨src, op⟩ := arrival_named arrival
  have here : (x.counted m).arrival? m.src m.op = some a := arrival
  refine ⟨_, rfl, heeds.applied, heeds.becomes_of (f := (x.count 10 1).fx) ?_⟩
  rw [Rood.applyMsg, typ]
  show (x.counted m).takeListBytes _ m.src m.op m.payload = _
  rw [Rood.takeListBytes, here]
  exact putArrival_waits (a := { a with list := (a.list ++ m.payload).take (8 * hdrFrames a.header) }) src op (.inl waits) _ _

theorem frame_joins (heard : Heard s 0x05 m x) (waits : a.list.length ≠ 8 * hdrFrames a.header) :
    ∃ t, exec (.frame m) s = .next t ∧ Applied s t m ∧
      Becomes t m.dstRood x (if u32At 0 m.payload < hdrFrames a.header then
        (x.arriving m { a with frames := putKey (u32At 0 m.payload) (padTo frameBytes (m.payload.drop 8)) a.frames }).heard m
        else x.heard m) := by
  have heeds := heeds_recvMsg heard (by decide)
  obtain ⟨⟨typ, -⟩, -⟩ := heard
  obtain ⟨src, op⟩ := arrival_named arrival
  have here : (x.counted m).arrival? m.src m.op = some a := arrival
  refine ⟨_, rfl, heeds.applied, heeds.becomes_of (f := (x.count 10 1).fx) ?_⟩
  rw [Rood.applyMsg, typ]
  show (x.counted m).takeFrame _ m.src m.op m.payload = _
  rw [Rood.takeFrame, here]
  dsimp only
  split
  · exact putArrival_waits (a := { a with frames := putKey (u32At 0 m.payload) (padTo frameBytes (m.payload.drop 8)) a.frames })
      src op (.inr waits) _ _
  · rfl

theorem abort_frees (heard : Heard s 0x07 m x) (posted : NonePosted x) :
    ∃ t, exec (.abort m) s = .next t ∧ Applied s t m ∧
      Becomes t m.dstRood x ((x.released a).heard m) := by
  have heeds := heeds_recvMsg heard (by decide)
  obtain ⟨⟨typ, -⟩, -⟩ := heard
  have here : (x.counted m).arrival? m.src m.op = some a := arrival
  refine ⟨_, rfl, heeds.applied, heeds.becomes_of (f := (x.count 10 1).fx) ?_⟩
  rw [Rood.applyMsg, typ]
  show (x.counted m).takeAbort _ m.src m.op = _
  rw [Rood.takeAbort, here]
  exact loseArrival_frees (y := x.counted m) posted s.clock.time a

end

/-! ## REFUSE and DONE: what ends a migration (R395) -/

theorem putKey_putKey {β : Type} (k : Nat) (u v : β) (l : List (Nat × β)) : putKey k v (putKey k u l) = putKey k v l := by
  induction l with
  | nil => simp [putKey]
  | cons p l ih =>
    obtain ⟨j, b⟩ := p
    by_cases before : k < j
    · simp [putKey, before]
    · by_cases here : j = k
      · simp [putKey, here]
      · simp [putKey, before, here, ih]

theorem setEntry_setEntry (i : Nat) (e f : Entry) (x : Rood) : (x.setEntry i e).setEntry i f = x.setEntry i f := by
  have held : ∀ (y : Rood) (g : Entry), y.setEntry i g =
      { y with slots := putKey i { y.slot i with entry := some g, taken := false } y.slots } := fun y g => by
    rw [Rood.setEntry, Rood.setSlot, if_neg (by simp)]
  have slot : (x.setEntry i e).slot i = { x.slot i with entry := some e, taken := false } := by
    rw [Rood.setEntry, slot_setSlot, if_pos rfl]
  rw [held (x.setEntry i e), slot, held x e, held x f, putKey_putKey]

theorem modEntry_held {x : Rood} {i : Nat} {e : Entry} (entry : x.entry? i = some e) (f : Entry → Entry) :
    x.modEntry i f = x.setEntry i (f e) := by
  rw [Rood.modEntry, entry]

/-- A session that a move gives back. -/
def Entry.givenBack (now : W64) (e : Entry) : Entry :=
  { e with state := .resident, moveKind := 0, bushel := 0, lastTime := now }

/-- The rood whose session is RESIDENT again after a move. -/
def Rood.givingBack (now : W64) (slot : Nat) (e : Entry) (x : Rood) : Rood :=
  (x.dropMove slot).setEntry slot (e.givenBack now)

theorem endMove_resident {y : Rood} {v : Move} {e : Entry} (entry : y.entry? v.slot = some e) (moving : e.state = .moving) (now : W64) :
    y.endMove now v .resident = y.givingBack now v.slot e := by
  have first : (y.dropMove v.slot).entry? v.slot = some e := entry
  unfold Rood.endMove Rood.setBushel Rood.setState
  rw [modEntry_held first, modEntry_held (by rw [entry?_setEntry, if_pos rfl]), setEntry_setEntry]
  rw [if_neg (by rw [moving]; decide)]
  rfl

/-- A command that completes where no step can begin lets slots be accepted. -/
theorem complete_settles {y : Rood} (held : StepsHeld y) (ctx : Ctx) (d : Cmd) (k : CRec) :
    (y.complete ctx.time d k).settle ctx = (y.complete ctx.time d k).pump ctx.time := by
  rw [Rood.settle, compose_held ((complete_hostSide ctx.time d k y).powered.trans held)]

theorem sendAbort_asking (v : Move) (x : Rood) : ∃ f, x.sendAbort v = x.asking f := by
  obtain ⟨f, sends⟩ := sendChain_asking v.peer 0x07 v.peerRood v.op [] x
  exact ⟨f, sends⟩

/-- The record of a migration before it is tidied. -/
def Cmd.moveRecord (st handle : Nat) (d : Cmd) : CRec := { d.record st with result := [handle, 0, 0, 0] }

theorem moveRecord_refused (d : Cmd) : (d.moveRecord stPeer 0).tidy = d.record stPeer := rfl

theorem moveRecord_done (handle : Nat) (d : Cmd) : (d.moveRecord stOk handle).tidy = d.moveRecord stOk handle := rfl

theorem completeMove_held {y : Rood} {v : Move} {d : Cmd} (cmd : y.cmd? v.cmd = some d) (now : W64) (st handle : Nat) :
    y.completeMove now v st [handle, 0, 0, 0] = y.complete now d (d.moveRecord st handle) := by
  rw [Rood.completeMove, cmd]
  rfl

/-- A migration that fails gives its session back. -/
theorem failMove_gives {y : Rood} {v : Move} {e : Entry} {d : Cmd} {f : List Fx} (kind : v.kind = 4) (moving : e.state = .moving)
    (abort : y.sendAbort v = y.asking f) (entry : y.entry? v.slot = some e) (cmd : y.cmd? v.cmd = some d) (now : W64) :
    y.failMove now v stPeer v.back true =
      ((y.asking f).givingBack now v.slot e).complete now d (d.moveRecord stPeer 0) := by
  have back : v.back = .resident := if_pos (.inr kind)
  have given : ((y.asking f).givingBack now v.slot e).cmd? v.cmd = some d := cmd
  unfold Rood.failMove
  rw [if_pos rfl, if_neg (by rw [kind]; decide), abort, back]
  rw [endMove_resident (y := y.asking f) entry moving now, completeMove_held given]

/-- The rood without a session that has migrated. -/
def Rood.moved (slot : Nat) (e : Entry) (x : Rood) : Rood := (((x.freeKv slot e).labDrop slot).dropMove slot).freeSlot slot

theorem moved_entry (slot : Nat) (e : Entry) (x : Rood) : (x.moved slot e).entry? slot = none := by
  have free : ((x.moved slot e).slot slot).entry = none := by
    show (((((x.freeKv slot e).labDrop slot).dropMove slot).setSlot slot _).slot slot).entry = none
    rw [slot_setSlot, if_pos rfl]
  exact free

theorem freeKv_only (slot : Nat) (e : Entry) (x : Rood) : x.freeKv slot e = { x with kv := (x.freeKv slot e).kv } := by
  unfold Rood.freeKv
  split <;> rfl

theorem freeKv_counted (slot : Nat) (e : Entry) (m : ChainMsg) (x : Rood) :
    (x.counted m).freeKv slot e = ((x.freeKv slot e).heard m).asking (x.count 10 1).fx := by
  unfold Rood.freeKv
  split <;> rfl

theorem moved_counted (slot : Nat) (e : Entry) (m : ChainMsg) (x : Rood) :
    (x.counted m).moved slot e = ((x.moved slot e).heard m).asking (x.count 10 1).fx := by
  unfold Rood.moved
  rw [freeKv_counted]
  generalize x.freeKv slot e = y
  rfl

/-- A session that goes leaves rings, commands and the rood's part in work. -/
theorem moved_keeps (slot : Nat) (e : Entry) (x : Rood) :
    (x.moved slot e).quiet = x.quiet ∧ (x.moved slot e).cacheOff = x.cacheOff ∧ (x.moved slot e).irings = x.irings ∧
      (x.moved slot e).crings = x.crings ∧ (x.moved slot e).cmds = x.cmds ∧ (x.moved slot e).powered = x.powered := by
  have only := freeKv_only slot e x
  unfold Rood.moved
  generalize (x.freeKv slot e).kv = k at only
  rw [only]
  simp [Rood.freeSlot, Rood.joinFree, Rood.labDrop]

theorem finishMigrate_moves {y : Rood} {v : Move} {e : Entry} {d : Cmd} (kind : v.kind = 4) (entry : y.entry? v.slot = some e)
    (cmd : y.cmd? v.cmd = some d) (now : W64) (handle : Nat) :
    y.finishMigrate now v handle = (y.moved v.slot e).complete now d (d.moveRecord stOk handle) := by
  obtain ⟨-, -, -, -, cmds, -⟩ := moved_keeps v.slot e y
  have left : (y.moved v.slot e).cmd? v.cmd = some d := by
    unfold Rood.cmd? at cmd ⊢
    rw [cmds]
    exact cmd
  rw [Rood.finishMigrate, entry]
  dsimp only
  rw [if_neg (by rw [kind]; decide)]
  exact completeMove_held left now stOk handle

section
variable {m : ChainMsg} {s : State} {x : Rood} {v : Move} {e : Entry} {d : Cmd} {q : CRing} (move : x.moveOf m.src m.op = some v)
  (kind : v.kind = 4) (entry : x.entry? v.slot = some e) (cmd : x.cmd? v.cmd = some d) (report : CanReport x d q) (held : StepsHeld x)
include move kind entry cmd report held

theorem refuse_ends (heard : Heard s 0x03 m x) (moving : e.state = .moving) :
    ∃ t, exec (.refuse m) s = .next t ∧ Applied s t m ∧
      Ends t m.dstRood x ((x.givingBack s.clock.time v.slot e).heard m) d q (d.record stPeer) := by
  have heeds := heeds_recvMsg heard (by decide)
  obtain ⟨⟨typ, -⟩, -⟩ := heard
  obtain ⟨f, abort⟩ := sendAbort_asking v (x.counted m)
  have here : (x.counted m).moveOf m.src m.op = some v := move
  have given : ((x.counted m).asking f).givingBack s.clock.time v.slot e =
      ((x.givingBack s.clock.time v.slot e).heard m).asking f := rfl
  have taken : x.applyMsg m ⟨s.clock.time, s.dev.advance m⟩ =
      ((((x.givingBack s.clock.time v.slot e).heard m).asking f).complete s.clock.time d (d.moveRecord stPeer 0)).pump s.clock.time := by
    rw [Rood.applyMsg, typ]
    show (x.counted m).takeRefuse _ m.src m.op = _
    rw [Rood.takeRefuse, here]
    dsimp only
    rw [failMove_gives kind moving abort entry cmd, given, complete_settles (y := ((x.givingBack s.clock.time v.slot e).heard m).asking f) held]
  have becomes := heeds.becomes
  rw [taken] at becomes
  refine ⟨_, rfl, heeds.applied, ?_⟩
  rw [← moveRecord_refused d]
  exact ends_of_completed (z := (x.givingBack s.clock.time v.slot e).heard m) (f := f) (now := s.clock.time) becomes report rfl

theorem done_ends (heard : Heard s 0x06 m x) :
    ∃ t, exec (.done m) s = .next t ∧ Applied s t m ∧
      Ends t m.dstRood x ((x.moved v.slot e).heard m) d q { d.record stOk with result := [u32At 0 m.payload, 0, 0, 0] } := by
  have heeds := heeds_recvMsg heard (by decide)
  obtain ⟨⟨typ, -⟩, -⟩ := heard
  have here : (x.counted m).moveOf m.src m.op = some v := move
  obtain ⟨quiet, cacheOff, irings, crings, -, powered⟩ := moved_keeps v.slot e x
  have reports : CanReport ((x.moved v.slot e).heard m) d q := by
    obtain ⟨q1, q2, q3, q4, q5⟩ := report
    exact ⟨quiet.trans q1, cacheOff.trans q2, q3.of_irings irings, (congrArg (fun l => l[d.cring]?) crings).trans q4, q5⟩
  have left : (x.counted m).moved v.slot e = ((x.moved v.slot e).heard m).asking (x.count 10 1).fx := moved_counted _ _ _ _
  have taken : x.applyMsg m ⟨s.clock.time, s.dev.advance m⟩ =
      ((((x.moved v.slot e).heard m).asking (x.count 10 1).fx).complete s.clock.time d
        (d.moveRecord stOk (u32At 0 m.payload))).pump s.clock.time := by
    rw [Rood.applyMsg, typ]
    show (x.counted m).takeDone' _ m.src m.op m.payload = _
    rw [Rood.takeDone', here]
    dsimp only
    rw [if_pos (by rw [kind]; decide), finishMigrate_moves (y := x.counted m) kind entry cmd, left,
      complete_settles (y := ((x.moved v.slot e).heard m).asking (x.count 10 1).fx) (powered.trans held)]
  have becomes := heeds.becomes
  rw [taken] at becomes
  refine ⟨_, rfl, heeds.applied, ?_⟩
  exact ends_of_completed (z := (x.moved v.slot e).heard m) (f := (x.count 10 1).fx) (now := s.clock.time)
    (k := d.moveRecord stOk (u32At 0 m.payload)) becomes reports rfl

end

/-! ## O59 -/

/-- Settles O59, message by message: what each does at its rood, and what waits in answer. -/
theorem movesFollowTheirMessages : Obligations.MovesFollowTheirMessages := by
  refine fun m s x => ⟨fun o heard => ?_, fun heard v move => ?_, ?_, ?_, ?_, ?_, ?_⟩
  · exact ⟨offer_refused heard o rfl, fun i y passed pops some_frames => offer_reserves heard o passed pops some_frames⟩
  · exact ⟨accept_again heard move, accept_sends heard move⟩
  · intro heard v e d q move kind entry moving cmd report held
    exact refuse_ends move kind entry cmd report held heard moving
  · intro heard a arrival waits
    exact list_joins arrival heard waits
  · intro heard a arrival waits
    exact frame_joins arrival heard waits
  · intro heard v e d q move kind entry cmd report held
    exact ⟨moved_entry v.slot e x, done_ends move kind entry cmd report held heard⟩
  · intro heard a arrival posted
    exact abort_frees arrival heard posted

end Sys2Proof.Machine
end

section
/-! PROOF. Messages of the chain as they pass, arrive and wait for their acknowledgement: forwarding, HELLO, ACK, an unknown type,
and the timers that send an ACK or send again (R387 to R391). -/
namespace Sys2Proof.Machine
open Sys2Proof

/-! ## A message on its port (R388, Table 13.8) -/

/-- The message as it leaves: with the pair's present ACK and its CRC. -/
def Dev.sealed (m : ChainMsg) (d : Dev) : ChainMsg :=
  { m with ack := (d.pair m.dst).rxSeq, crc := msgCrc { m with ack := (d.pair m.dst).rxSeq } }

/-- The CRC does not cover itself. -/
theorem sealed_crcOk (m : ChainMsg) (d : Dev) : msgCrcOk (d.sealed m) = true := beq_self_eq_true (msgCrc (d.sealed m))

/-- The device once a message has left for a peer. -/
def Dev.sent (p : Nat) (m : ChainMsg) (d : Dev) : Dev :=
  { d.setPair { d.pair m.dst with owesAck := false } with out := d.out ++ [.chain p (d.sealed m)] }

theorem transmit_sent {m : ChainMsg} {d : Dev} {p : Nat} (route : d.route m.dst = some p) : d.transmit m = d.sent p m := by
  unfold Dev.transmit
  rw [route]
  rfl

theorem sent_pair (p : Nat) (m : ChainMsg) (d : Dev) : (d.sent p m).pair m.dst = { d.pair m.dst with owesAck := false } := by
  show (d.setPair { d.pair m.dst with owesAck := false }).pair m.dst = _
  rw [pair_setPair, if_pos (pair_peer m.dst d).symm]

theorem chainForward_leaves {s : State} {m : ChainMsg} {p : Nat} (ready : s.dev.ready = true) (other : m.dst ≠ s.dev.number)
    (hops : m.hops ≠ 31) (route : s.dev.route m.dst = some p) :
    exec (.chainForward m) s =
      .next { s with dev := { s.dev with out := s.dev.out ++ [.chain p { m with hops := m.hops + 1 }] } } := by
  refine congrArg Host.Outcome.next (onDev_silent ?_ ⟨rfl, rfl, rfl, rfl, rfl, rfl⟩)
  unfold Dev.forward
  rw [if_neg (by simp [ready, other, hops]), route]

theorem chainForward_discards {s : State} {m : ChainMsg} (stuck : m.hops = 31 ∨ s.dev.route m.dst = none) :
    exec (.chainForward m) s = .next s := by
  refine congrArg Host.Outcome.next (onDev_idle ?_)
  unfold Dev.forward
  split
  · rfl
  · next goes =>
    have none_up : s.dev.route m.dst = none := stuck.resolve_left (fun hops => goes (.inr (.inr hops)))
    rw [none_up]

/-! ## A message of an unknown type (R387) -/

theorem arrive_unknown {d : Dev} {m : ChainMsg} (next : d.NextOf m) (unknown : m.typ ∉ knownTypes) (now : W64) :
    d.arrive now m = (d.advance m).discard m := by
  have unlisted : knownTypes.contains m.typ = false := by simpa using unknown
  have not_ack : m.typ ≠ 0x3F := fun typ => unknown (by rw [typ]; decide)
  have not_hello : m.typ ≠ 0x3E := fun typ => unknown (by rw [typ]; decide)
  have alone : (((d.advance m).discard m).pair m.src).held = [] := by
    have kept : ((d.advance m).discard m).chain = (d.advance m).chain := by
      unfold Dev.discard
      split <;> rfl
    rw [Dev.pair, kept, ← Dev.pair, advance_pair]
    exact next.alone
  simp only [Dev.arrive, next.crc, not_ack, not_hello, next.opened, next.epoch, beq_self_eq_true, Bool.and_self, Bool.not_true,
    Bool.false_eq_true, if_false, if_true, takeAck_unanswered next.unanswered, Dev.takeNumbered, next.seq, next.ahead, ne_eq,
    not_true_eq_false, or_self, Dev.applyMsg, unlisted, Bool.not_false]
  exact applyHeld_none alone now 64

theorem chainUnknownType_counts {s : State} {m : ChainMsg} (unknown : m.typ ∉ knownTypes) (turn : NextInTurn s m.typ m) :
    ∃ t, exec (.chainUnknownType m) s = .next t ∧ Applied s t m ∧ t.dev.roods = s.dev.roods ∧ t.dev.out = s.dev.out ∧
      t.dev.counters = if (s.dev.rood? m.dstRood).isSome then counterAdd ⟨.rood, m.dstRood, 12⟩ 1 s.dev.counters
        else s.dev.counters := by
  have unlisted : knownTypes.contains m.typ = false := by simpa using unknown
  have ⟨_, hears, _⟩ := turn
  have arrives : (if !knownTypes.contains m.typ && s.dev.hears m then s.dev.arrive s.clock.time m else s.dev) =
      (s.dev.advance m).discard m := by
    rw [unlisted, hears]
    exact arrive_unknown turn.nextOf unknown _
  have counted : (s.dev.advance m).discard m = { s.dev.advance m with
      counters := if (s.dev.rood? m.dstRood).isSome then counterAdd ⟨.rood, m.dstRood, 12⟩ 1 s.dev.counters
        else s.dev.counters } := by
    show (if (s.dev.rood? m.dstRood).isSome then (s.dev.advance m).count .rood m.dstRood 12 1 else s.dev.advance m) = _
    split <;> rfl
  refine ⟨_, congrArg Host.Outcome.next (onDev_silent (arrives.trans counted) ⟨rfl, rfl, rfl, rfl, rfl, rfl⟩), ?_, rfl, rfl, rfl⟩
  have pair := advance_pair m s.dev
  exact ⟨(congrArg Pair.rxSeq pair :), (congrArg Pair.rxEpoch pair :), rfl, rfl⟩

/-! ## HELLO and ACK (R389, R391) -/

/-- What a pair has received once its epoch is open, whose HELLO is to be acknowledged. -/
def Pair.greeted (m : ChainMsg) (p : Pair) : Pair :=
  { p with rxOpen := true, rxEpoch := m.epoch, rxSeq := 1, held := [], owesAck := true }

theorem takeAck_none {d : Dev} {m : ChainMsg} (none_waits : (d.pair m.src).unacked = []) : d.takeAck m = d :=
  takeAck_unanswered (by rw [none_waits]; rfl)

theorem hello_opens {s : State} {m : ChainMsg} (typ : m.typ = 0x3E) (hears : s.dev.hears m = true) (crc : msgCrcOk m = true)
    (first : m.seq = 1) (closed : (s.dev.pair m.src).rxOpen = false) (none_waits : (s.dev.pair m.src).unacked = []) :
    ∃ t, exec (.hello m) s = .next t ∧ t.dev.roods = s.dev.roods ∧ t.dev.pair m.src = (s.dev.pair m.src).greeted m := by
  have arrives : (if m.typ = 0x3E ∧ s.dev.hears m then s.dev.arrive s.clock.time m else s.dev) =
      s.dev.setPair ((s.dev.pair m.src).greeted m) := by
    rw [if_pos ⟨typ, hears⟩]
    simp only [Dev.arrive, crc, typ, first, takeAck_none none_waits, Dev.takeHello, closed, Bool.not_true, Bool.false_and,
      Bool.false_eq_true, if_false, if_true, show ¬ (0x3E = 0x3F) by decide]
    rfl
  refine ⟨_, congrArg Host.Outcome.next (onDev_silent arrives ⟨rfl, rfl, rfl, rfl, rfl, rfl⟩), rfl, ?_⟩
  exact (pair_setPair _ _ _).trans (if_pos (pair_peer m.src s.dev).symm)

theorem ack_ends_waits {s : State} {m u : ChainMsg} {before after : List ChainMsg} (typ : m.typ = 0x3F)
    (hears : s.dev.hears m = true) (crc : msgCrcOk m = true) (epoch : (s.dev.pair m.src).rxEpoch = m.epoch)
    (waits : (s.dev.pair m.src).unacked = before ++ u :: after) (acked : u.seq = m.ack) (earlier : ∀ k ∈ before, k.seq ≠ m.ack) (window : before.length + after.length < 4096) :
    ∃ t, exec (.ack m) s = .next t ∧ t.dev.roods = s.dev.roods ∧ t.dev.out = s.dev.out ∧
      t.dev.pair m.src = { s.dev.pair m.src with unacked := after } := by
  have place : (before ++ u :: after).findIdx? (fun k => k.seq == m.ack) = some before.length := by
    have unlike : before.findIdx? (fun k => k.seq == m.ack) = none := by simpa [List.findIdx?_eq_none_iff] using earlier
    simp [List.findIdx?_append, unlike, List.findIdx?_cons, acked]
  have left : (before ++ u :: after).drop (before.length + 1) = after := by simp [List.drop_append]
  have within : (before ++ u :: after).drop chainWindow = [] := List.drop_eq_nil_of_le (by
    simp only [List.length_append, List.length_cons, chainWindow]; omega)
  have arrives : (if m.typ = 0x3F ∧ s.dev.hears m then s.dev.arrive s.clock.time m else s.dev) =
      s.dev.setPair { s.dev.pair m.src with unacked := after } := by
    rw [if_pos ⟨typ, hears⟩]
    simp only [Dev.arrive, crc, typ, epoch, bne_self_eq_false, Bool.and_false, Bool.not_true, Bool.false_eq_true, if_false, if_true,
      Dev.takeAck, waits, place, left, within, List.take_nil, List.foldl_nil]
  refine ⟨_, congrArg Host.Outcome.next (onDev_silent arrives ⟨rfl, rfl, rfl, rfl, rfl, rfl⟩), rfl, rfl, ?_⟩
  exact (pair_setPair _ _ _).trans (if_pos (pair_peer m.src s.dev).symm)

/-! ## Timers of a pair (R389, R390) -/

/-- The ACK of a pair that owes one. -/
def Dev.ackTo (peer : Nat) (d : Dev) : ChainMsg :=
  { msgMake 0x3F d.number peer 0 0 0 [] with epoch := (d.pair peer).txEpoch }

section
variable {s : State} {peer p : Nat}

theorem ackSendTimer_idle (owes : (s.dev.pair peer).owesAck = false) : exec (.ackSendTimer peer) s = .next s := by
  refine congrArg Host.Outcome.next (onDev_idle ?_)
  simp [Dev.sendAck, owes]

theorem ackSendTimer_sends (ready : s.dev.ready = true) (route : s.dev.route peer = some p)
    (owes : (s.dev.pair peer).owesAck = true) :
    ∃ t k, exec (.ackSendTimer peer) s = .next t ∧ t.dev.out = s.dev.out ++ [.chain p k] ∧ k.typ = 0x3F ∧ k.dst = peer ∧
      k.ack = (s.dev.pair peer).rxSeq ∧ msgCrcOk k = true ∧ (t.dev.pair peer).owesAck = false := by
  have sends : s.dev.sendAck peer = s.dev.sent p (s.dev.ackTo peer) := by
    simp only [Dev.sendAck, owes, ready, Bool.and_self, if_true]
    exact transmit_sent route
  exact ⟨_, _, congrArg Host.Outcome.next (onDev_silent sends ⟨rfl, rfl, rfl, rfl, rfl, rfl⟩), rfl, rfl, rfl, rfl, sealed_crcOk _ _,
    (congrArg Pair.owesAck (sent_pair p (s.dev.ackTo peer) s.dev) :)⟩

theorem chainResendTimer_idle (none_waits : (s.dev.pair peer).unacked = []) : exec (.chainResendTimer peer) s = .next s := by
  refine congrArg Host.Outcome.next (onDev_idle ?_)
  simp [Dev.resend, none_waits]

/-- A message that is sent again leaves as it would have left before, with what is counted. -/
theorem resendOne_sent {m : ChainMsg} {d : Dev} (route : d.route m.dst = some p) :
    ∃ c, d.resendOne m = { d.sent p m with counters := c } := by
  unfold Dev.resendOne
  rw [route]
  dsimp only
  split
  · rw [transmit_sent (d := d.count .rood m.srcRood 11 1) route]
    exact ⟨_, rfl⟩
  · rw [transmit_sent route]
    exact ⟨_, rfl⟩

theorem chainResendTimer_sends {u : ChainMsg} (ready : s.dev.ready = true) (route : s.dev.route peer = some p)
    (waits : (s.dev.pair peer).unacked = [u]) (dst : u.dst = peer) :
    ∃ t k, exec (.chainResendTimer peer) s = .next t ∧ t.dev.out = s.dev.out ++ [.chain p k] ∧ k.seq = u.seq ∧
      k.typ = u.typ ∧ k.op = u.op ∧ k.payload = u.payload ∧ k.epoch = u.epoch ∧ k.ack = (s.dev.pair peer).rxSeq ∧
      (t.dev.pair peer).unacked = [u] := by
  subst dst
  obtain ⟨c, again⟩ := resendOne_sent route
  have sends : s.dev.resend u.dst = { s.dev.sent p u with counters := c } := by
    simpa [Dev.resend, ready, waits, chainWindow] using again
  refine ⟨_, _, congrArg Host.Outcome.next (onDev_silent sends ⟨rfl, rfl, rfl, rfl, rfl, rfl⟩), rfl, rfl, rfl, rfl, rfl, rfl, rfl, ?_⟩
  exact (congrArg Pair.unacked (sent_pair p u s.dev)).trans waits

end

end Sys2Proof.Machine
end

section
/-! PROOF. What a message that is sent leaves of the pairs of the chain, and what the end of an epoch and the opening of a new one
leave of the links (R388 to R391). -/
namespace Sys2Proof.Machine
open Sys2Proof

/-! ## Open epochs stay open (R389, R391) -/

/-- A message that leaves settles only what its pair owes. -/
theorem transmit_pair (m : ChainMsg) (q : Nat) (d : Dev) : ∃ b, (d.transmit m).pair q = { d.pair q with owesAck := b } := by
  unfold Dev.transmit
  split
  · exact ⟨_, rfl⟩
  · show ∃ b, (d.setPair { d.pair m.dst with owesAck := false }).pair q = _
    rw [pair_setPair]
    split
    · next same =>
      rw [same, pair_peer]
      exact ⟨false, rfl⟩
    · exact ⟨_, rfl⟩

theorem transmit_txOpen (m : ChainMsg) (q : Nat) (d : Dev) : ((d.transmit m).pair q).txOpen = (d.pair q).txOpen := by
  obtain ⟨b, pair⟩ := transmit_pair m q d
  rw [pair]

theorem queued_pair (m : ChainMsg) (d : Dev) : (d.queued m).pair m.dst = { d.pair m.dst with
    txNext := seqNext (d.pair m.dst).txNext, unacked := (d.pair m.dst).unacked ++ [d.numbered m] } := by
  unfold Dev.queued
  rw [pair_setPair, if_pos (pair_peer m.dst d).symm]

/-- A message that joins its epoch waits behind those that wait. -/
theorem enqueue_pair (m : ChainMsg) (d : Dev) : ∃ b, (d.enqueue m).pair m.dst = { d.pair m.dst with
    txNext := seqNext (d.pair m.dst).txNext, unacked := (d.pair m.dst).unacked ++ [d.numbered m], owesAck := b } := by
  rw [enqueue_eq]
  split
  · obtain ⟨b, pair⟩ := transmit_pair (d.numbered m) m.dst (d.queued m)
    exact ⟨b, by rw [pair, queued_pair]⟩
  · exact ⟨_, queued_pair m d⟩

theorem queued_txOpen (m : ChainMsg) (q : Nat) (d : Dev) : ((d.queued m).pair q).txOpen = (d.pair q).txOpen := by
  unfold Dev.queued
  rw [pair_setPair]
  split
  · next same => rw [same, pair_peer]
  · rfl

theorem enqueue_txOpen (m : ChainMsg) (q : Nat) (d : Dev) : ((d.enqueue m).pair q).txOpen = (d.pair q).txOpen := by
  rw [enqueue_eq]
  split
  · exact (transmit_txOpen _ q _).trans (queued_txOpen m q d)
  · exact queued_txOpen m q d

/-- A new epoch towards a peer opens that epoch alone. -/
theorem openEpoch_txOpen (p q : Nat) (d : Dev) : ((d.openEpoch p).pair q).txOpen = if q = p then true else (d.pair q).txOpen := by
  rw [openEpoch_eq, enqueue_txOpen]
  split
  · next same =>
    subst same
    exact epochOpen_txOpen q d
  · next other =>
    unfold Dev.epochOpen
    rw [pair_setPair, if_neg (by rw [pair_peer]; exact other)]
    rfl

theorem openEpoch_opens (q : Nat) (d : Dev) : ((d.openEpoch q).pair q).txOpen = true := by
  rw [openEpoch_txOpen, if_pos rfl]

section
variable {q : Nat} {d : Dev} (opened : (d.pair q).txOpen = true)
include opened

theorem openEpoch_open (p : Nat) : ((d.openEpoch p).pair q).txOpen = true := by
  rw [openEpoch_txOpen, opened, ite_self]

theorem foldl_enqueue_open {α : Type} (f : Dev → α → ChainMsg) (l : List α) :
    ((l.foldl (fun d a => d.enqueue (f d a)) d).pair q).txOpen = true := by
  induction l generalizing d with
  | nil => exact opened
  | cons a l ih => exact ih ((enqueue_txOpen _ q d).trans opened)

theorem chainSend_open (p t r s o : Nat) (b : List Byte) : ((d.chainSend p t r s o b).pair q).txOpen = true := by
  unfold Dev.chainSend
  split
  · exact opened
  · refine foldl_enqueue_open ?_ (fun d c => msgMake t d.number p r s o c) _
    split
    · exact opened
    · exact openEpoch_open opened p

theorem applyFx_open (r : Nat) (f : Fx) : ((d.applyFx r f).pair q).txOpen = true := by
  cases f with
  | chain p t s o b => exact chainSend_open opened _ _ _ _ _ _
  | assigned slot p i n =>
    unfold Dev.applyFx
    dsimp only
    split
    · exact opened
    · exact opened
  | _ => exact opened

theorem foldr_open (r : Nat) (l : List Fx) : ((l.foldr (fun f d => d.applyFx r f) d).pair q).txOpen = true := by
  induction l with
  | nil => exact opened
  | cons f l ih => exact applyFx_open ih r f

theorem atRood_open (r : Nat) (f : Ctx → Rood → Rood) (now : W64) : ((d.atRood r f now).pair q).txOpen = true := by
  unfold Dev.atRood
  split
  · exact foldr_open (d := d.setRood _) opened _ _
  · exact opened

theorem atEach_open (f : Ctx → Rood → Rood) (now : W64) : ((d.atEach f now).pair q).txOpen = true :=
  atEach_induction (P := fun d => (d.pair q).txOpen = true) (fun _ r h => atRood_open h r f now) opened

end

/-! ## What the end of an epoch leaves of the links (R388, R390) -/

/-- The roods, and what the chain keeps, alone may differ. -/
def LinksKeep (d e : Dev) : Prop := ChainKeeps { d with roods := e.roods } e

theorem LinksKeep.of_chainKeeps {d e : Dev} (h : ChainKeeps d e) : LinksKeep d e := by
  unfold LinksKeep
  rw [h.only.roods]
  exact h

theorem LinksKeep.trans {a b c : Dev} (h : LinksKeep a b) (k : LinksKeep b c) : LinksKeep a c := by
  have early : FxOnly { a with roods := c.roods } { b with roods := c.roods } := by
    have only := h.only
    unfold FxOnly at *
    rw [only]
  exact ChainKeeps.trans ⟨early, h.ports, h.received⟩ k

theorem LinksKeep.reaches {d e : Dev} (h : LinksKeep d e) (q : Nat) : e.reaches q = d.reaches q := reaches_congr h q

theorem atRood_linksKeep (r : Nat) (f : Ctx → Rood → Rood) (now : W64) (d : Dev) : LinksKeep d (d.atRood r f now) := by
  unfold Dev.atRood
  split
  · next x _ =>
    unfold LinksKeep
    rw [flushRood_roods]
    exact foldr_chainKeeps _ _ (d.setRood _)
  · exact ChainKeeps.refl d

theorem atEach_linksKeep (f : Ctx → Rood → Rood) (now : W64) (d : Dev) : LinksKeep d (d.atEach f now) :=
  atEach_induction (P := LinksKeep d) (fun e r h => h.trans (atRood_linksKeep r f now e)) (.refl d)

/-- The device once the epoch towards a peer has ended, before its operations. -/
def Dev.closed (q : Nat) (d : Dev) : Dev := d.setPair { d.pair q with txOpen := false, unacked := [] }

theorem closed_pair (q : Nat) (d : Dev) : (d.closed q).pair q = { d.pair q with txOpen := false, unacked := [] } := by
  unfold Dev.closed
  rw [pair_setPair, if_pos (pair_peer q d).symm]

theorem closed_other {q p : Nat} (other : p ≠ q) (d : Dev) : (d.closed q).pair p = d.pair p := by
  unfold Dev.closed
  rw [pair_setPair, if_neg (by rw [pair_peer]; exact other)]

theorem closed_keeps (q : Nat) (d : Dev) : ChainKeeps d (d.closed q) := by
  have peer := pair_peer q d
  exact .setPair (by rw [peer]) (by rw [peer]) (by rw [peer])

theorem endEpoch_keeps (now : W64) (q : Nat) (d : Dev) : LinksKeep d (d.endEpoch now q) :=
  (LinksKeep.of_chainKeeps (closed_keeps q d)).trans (atEach_linksKeep _ now _)

theorem endEpoch_open {now : W64} {q p : Nat} {d : Dev} (other : p ≠ q) (opened : (d.pair p).txOpen = true) :
    ((d.endEpoch now q).pair p).txOpen = true :=
  atEach_open (d := d.closed q) (by rw [closed_other other]; exact opened) _ now

theorem endEpoch_out (now : W64) (q : Nat) (d : Dev) : d.out <+: (d.endEpoch now q).out := atEach_out (d.closed q) _ now

/-! ## A new epoch (R391) -/

theorem reopen_keeps (q : Nat) (d : Dev) : LinksKeep d (d.reopen q) := by
  unfold Dev.reopen
  split
  · exact .of_chainKeeps (openEpoch_keeps q d)
  · exact .of_chainKeeps (.refl d)

theorem reopen_opens {q : Nat} {d : Dev} (reached : d.reaches q = true) : ((d.reopen q).pair q).txOpen = true := by
  unfold Dev.reopen
  rw [reached, Bool.true_and]
  cases opened : (d.pair q).txOpen with
  | true => exact opened
  | false => exact openEpoch_opens q d

theorem reopen_open {p : Nat} {d : Dev} (opened : (d.pair p).txOpen = true) (q : Nat) : ((d.reopen q).pair p).txOpen = true := by
  unfold Dev.reopen
  split
  · exact openEpoch_open opened q
  · exact opened

theorem reopen_out (q : Nat) (d : Dev) : d.out <+: (d.reopen q).out := by
  unfold Dev.reopen
  split
  · exact openEpoch_out q d
  · exact List.prefix_rfl

/-- The HELLO of a new epoch waits alone. -/
theorem openEpoch_hello (q : Nat) (d : Dev) :
    ∃ k, ((d.openEpoch q).pair q).txEpoch = Config.random64 d.boot.draws ∧ ((d.openEpoch q).pair q).unacked = [k] ∧
      k.typ = 0x3E ∧ k.seq = 1 := by
  have opened : (d.epochOpen q).pair q = { d.drawn.pair q with
      txOpen := true, txEpoch := Config.random64 d.boot.draws, txNext := 1, unacked := [] } := by
    unfold Dev.epochOpen
    rw [pair_setPair, if_pos (pair_peer q d.drawn).symm]
  obtain ⟨b, joined⟩ := enqueue_pair (msgMake 0x3E (d.epochOpen q).number q 0 0 0 []) (d.epochOpen q)
  have hello : ((d.openEpoch q).pair q) = { (d.epochOpen q).pair q with
      txNext := seqNext ((d.epochOpen q).pair q).txNext
      unacked := ((d.epochOpen q).pair q).unacked ++ [(d.epochOpen q).numbered (msgMake 0x3E (d.epochOpen q).number q 0 0 0 [])]
      owesAck := b } := joined
  rw [hello, opened]
  exact ⟨_, rfl, rfl, rfl, congrArg Pair.txNext opened⟩

/-- Opening an epoch changes no register. -/
theorem openEpoch_regs (q : Nat) (d : Dev) : (d.openEpoch q).regs = d.regs := by
  have sends (m : ChainMsg) (e : Dev) : (e.transmit m).regs = e.regs := by
    unfold Dev.transmit
    split <;> rfl
  rw [openEpoch_eq, enqueue_eq]
  split
  · exact sends _ _
  · rfl

end Sys2Proof.Machine
end

section
/-! PROOF. The end of an epoch in roods at rest, and the links of the chain: link-up with the epochs that it opens, loss and retry
(R385, R386, R390, R391); with them obligation O58. -/
namespace Sys2Proof.Machine
open Sys2Proof

/-! ## The end of an epoch in roods at rest (R390) -/

/-- The rood without the requests of a peer, the shards that it stores for it and those that it has sent it. -/
def Rood.forgetting (peer : Nat) (x : Rood) : Rood :=
  { x with
    vecReqs := x.vecReqs.filter (fun q => q.1 != peer)
    ckp := { x.ckp with
      incoming := x.ckp.incoming.filter (fun i => i.src != peer)
      trailing := x.ckp.trailing.filter (fun s => !(s.peer == peer)) } }

theorem forgetting_rests {x : Rood} (h : x.Rests) (peer : Nat) : (x.forgetting peer).Rests := h

theorem shardFailed_idle {x : Rood} (run : x.ckp.run = none) (now : W64) (which : ShardRun → Bool) :
    x.shardFailed now which = { x with ckp := { x.ckp with trailing := x.ckp.trailing.filter (fun s => !which s) } } := by
  unfold Rood.shardFailed
  dsimp only
  split
  · next taken => exact absurd (run.symm.trans taken) (by simp)
  · rfl

/-- A rood that does no work has no operation to end. -/
theorem epochEnded_rests {x : Rood} (h : x.Rests) (ctx : Ctx) (peer : Nat) : x.epochEnded ctx peer = x.forgetting peer := by
  obtain ⟨held, posted, -, -, -, moves, vecOps, -, arrivals, run, restore, -, -⟩ := forgetting_rests h peer
  have no_arrival : x.arrivals = [] := arrivals
  have dropped : x.dropIncoming ctx.time peer = { x with
      vecReqs := x.vecReqs.filter (fun q => q.1 != peer)
      ckp := { x.ckp with incoming := x.ckp.incoming.filter (fun i => i.src != peer) } } := by
    have none_dropped : x.arrivals.filter (fun a => a.src == peer) = [] := by rw [no_arrival, List.filter_nil]
    rw [Rood.dropIncoming, none_dropped, List.foldl_nil]
  have failed : (x.dropIncoming ctx.time peer).shardFailed ctx.time (fun s => s.peer == peer && (true || s.accepted)) =
      x.forgetting peer := by
    rw [dropped]
    refine (shardFailed_idle (by exact run) _ _).trans ?_
    simp only [Bool.true_or, Bool.and_true]
    rfl
  have idle : (x.dropIncoming ctx.time peer).moves = [] := by rw [dropped]; exact moves
  have asked : (x.forgetting peer).takeInventory ctx (fun w => w.1 == peer) [] = x.forgetting peer := by
    rw [Rood.takeInventory, restore]
  simp only [Rood.epochEnded, Rood.endOwn, idle, List.filter_nil, List.foldl_nil, failed, vecOps, if_true, asked, Rood.loseFetch,
    modFetch_none restore]
  exact settle_held held posted ctx

theorem settled_epochEnded_rests {x : Rood} (h : x.Rests) (ctx : Ctx) (peer : Nat) : (x.settled (x.epochEnded ctx peer)).Rests := by
  rw [epochEnded_rests h]
  obtain ⟨held, posted, -, rest⟩ := h
  exact ⟨held, posted, rfl, rest⟩

/-- Work that asks for nothing changes the roods alone. -/
theorem atRood_silent {d : Dev} {r : Nat} {f : Ctx → Rood → Rood} {now : W64}
    (silent : ∀ x, d.rood? r = some x → (f ⟨now, d⟩ x).fx = []) :
    d.atRood r f now = { d with roods := (d.atRood r f now).roods } := by
  cases hr : d.rood? r with
  | none => rw [atRood_missing hr]
  | some x =>
    unfold Dev.atRood
    rw [hr]
    dsimp only [Dev.flushRood]
    rw [show (x.inPlace (f ⟨now, d⟩ x)).fx = [] from silent x hr]
    rfl

/-- In roods at rest, the end of an epoch sends nothing. -/
theorem endEpoch_rests {d : Dev} (h : ∀ x ∈ d.roods, x.Rests) (now : W64) (peer : Nat) :
    d.endEpoch now peer = { d.closed peer with roods := (d.endEpoch now peer).roods } := by
  refine (atEach_induction (d := d.closed peer) (f := fun ctx x => Rood.epochEnded ctx peer x)
    (P := fun e => (∀ x ∈ e.roods, x.Rests) ∧ e = { d.closed peer with roods := e.roods }) (fun e r ⟨rests, only⟩ => ⟨?_, ?_⟩)
    ⟨h, rfl⟩).2
  · cases hr : e.rood? r with
    | none => rwa [atRood_missing hr]
    | some x =>
      rw [atRood_roods hr]
      intro y hy
      obtain ⟨z, hz, rfl⟩ := List.mem_map.mp hy
      split
      · exact settled_epochEnded_rests (rests x (List.mem_of_find?_eq_some hr)) _ peer
      · exact rests z hz
  · have silent := atRood_silent (d := e) (r := r) (f := fun ctx x => Rood.epochEnded ctx peer x) (now := now) (fun x hx => by
      have rest := rests x (List.mem_of_find?_eq_some hx)
      obtain ⟨-, -, quiet, -⟩ := forgetting_rests rest peer
      rw [epochEnded_rests rest]
      exact quiet)
    rw [silent, only]

section
variable {s : State} {peer : Nat}

theorem chainEpochTimeout_idle (none_waits : (s.dev.pair peer).unacked = [])
    (free : s.dev.roods.any (fun x => x.waitsOn peer) = false) : exec (.chainEpochTimeout peer) s = .next s := by
  refine congrArg Host.Outcome.next (onDev_idle ?_)
  simp [Dev.epochTimeout, none_waits, free]

variable (rest : AtRest s) (opened : (s.dev.pair peer).txOpen = true) (waits : (s.dev.pair peer).unacked ≠ [])
include opened waits

theorem epochTimeout_ends (now : W64) : s.dev.epochTimeout now peer = (s.dev.endEpoch now peer).reopen peer := by
  simp [Dev.epochTimeout, opened, waits]

include rest

theorem chainEpochTimeout_closes (lost : s.dev.reaches peer = false) :
    ∃ t, exec (.chainEpochTimeout peer) s = .next t ∧
      t.dev.pair peer = { s.dev.pair peer with txOpen := false, unacked := [] } := by
  obtain ⟨-, -, -, rests⟩ := rest
  have ends := endEpoch_rests rests s.clock.time peer
  have unreached := ((endEpoch_keeps s.clock.time peer s.dev).reaches peer).trans lost
  have pair : (Dev.signal s.dev (s.dev.epochTimeout s.clock.time peer)).pair peer = (s.dev.closed peer).pair peer := by
    rw [signal_pair, epochTimeout_ends opened waits, Dev.reopen, unreached, ends]
    rfl
  exact ⟨_, rfl, pair.trans (closed_pair peer s.dev)⟩

theorem chainEpochTimeout_reopens (reached : s.dev.reaches peer = true) :
    ∃ t k, exec (.chainEpochTimeout peer) s = .next t ∧ (t.dev.pair peer).txOpen = true ∧
      (t.dev.pair peer).txEpoch = Config.random64 s.dev.boot.draws ∧ (t.dev.pair peer).unacked = [k] ∧
      k.typ = 0x3E ∧ k.seq = 1 := by
  obtain ⟨-, -, -, rests⟩ := rest
  have ends := endEpoch_rests rests s.clock.time peer
  have still := ((endEpoch_keeps s.clock.time peer s.dev).reaches peer).trans reached
  have shut : ((s.dev.endEpoch s.clock.time peer).pair peer).txOpen = false := by
    rw [ends]
    exact congrArg Pair.txOpen (closed_pair peer s.dev)
  have draws : (s.dev.endEpoch s.clock.time peer).boot.draws = s.dev.boot.draws := by
    rw [ends]
    rfl
  have reopened : s.dev.epochTimeout s.clock.time peer = (s.dev.endEpoch s.clock.time peer).openEpoch peer := by
    rw [epochTimeout_ends opened waits, Dev.reopen, still, shut]
    rfl
  obtain ⟨k, epoch, waiting, typ, seq⟩ := openEpoch_hello peer (s.dev.endEpoch s.clock.time peer)
  rw [draws] at epoch
  have pair : (Dev.signal s.dev (s.dev.epochTimeout s.clock.time peer)).pair peer =
      ((s.dev.endEpoch s.clock.time peer).openEpoch peer).pair peer := by rw [signal_pair, reopened]
  exact ⟨_, k, rfl, (congrArg Pair.txOpen pair).trans (openEpoch_opens _ _), (congrArg Pair.txEpoch pair).trans epoch,
    (congrArg Pair.unacked pair).trans waiting, typ, seq⟩

end

/-! ## The epochs that a link opens (R391) -/

/-- The messages of a change leave the routes. -/
theorem signal_reaches (a d : Dev) (q : Nat) : (Dev.signal a d).reaches q = d.reaches q := by rw [signal_only a d]; rfl

theorem freshEpoch_keeps (now : W64) (q : Nat) (d : Dev) : LinksKeep d (d.freshEpoch now q) := by
  unfold Dev.freshEpoch
  split
  · exact .of_chainKeeps (.refl d)
  · split
    · exact (endEpoch_keeps now q d).trans (reopen_keeps q _)
    · exact reopen_keeps q d

theorem freshEpoch_out (now : W64) (q : Nat) (d : Dev) : d.out <+: (d.freshEpoch now q).out := by
  unfold Dev.freshEpoch
  split
  · exact List.prefix_rfl
  · split
    · exact (endEpoch_out now q d).trans (reopen_out q _)
    · exact reopen_out q d

theorem freshEpoch_opens {q : Nat} {d : Dev} (reached : d.reaches q = true) (now : W64) :
    ((d.freshEpoch now q).pair q).txOpen = true := by
  unfold Dev.freshEpoch
  rw [if_neg (by simp [reached])]
  split
  · exact reopen_opens (((endEpoch_keeps now q d).reaches q).trans reached)
  · exact reopen_opens reached

/-- An open epoch is followed by an open one. -/
theorem freshEpoch_open {p : Nat} {d : Dev} (opened : (d.pair p).txOpen = true) (now : W64) (q : Nat) :
    ((d.freshEpoch now q).pair p).txOpen = true := by
  by_cases same : p = q
  · subst same
    cases reached : d.reaches p with
    | true => exact freshEpoch_opens reached now
    | false => simpa [Dev.freshEpoch, reached] using opened
  · unfold Dev.freshEpoch
    split
    · exact opened
    · split
      · exact reopen_open (endEpoch_open same opened) q
      · exact reopen_open opened q

/-- Where no epoch is open, nothing ends. -/
theorem freshEpoch_closed {q : Nat} {d : Dev} (shut : (d.pair q).txOpen = false) (now : W64) :
    d.freshEpoch now q = if d.reaches q then d.openEpoch q else d := by
  cases reached : d.reaches q <;> simp [Dev.freshEpoch, Dev.reopen, reached, shut]

/-- The device once each device of a list has a new epoch. -/
def Dev.freshEpochs (now : W64) (l : List Nat) (d : Dev) : Dev := l.foldl (fun d i => d.freshEpoch now i) d

theorem freshEpochs_keeps (now : W64) (l : List Nat) (d : Dev) : LinksKeep d (d.freshEpochs now l) := by
  induction l generalizing d with
  | nil => exact .of_chainKeeps (.refl d)
  | cons i l ih => exact (freshEpoch_keeps now i d).trans (ih _)

theorem freshEpochs_out (now : W64) (l : List Nat) (d : Dev) : d.out <+: (d.freshEpochs now l).out :=
  foldl_out _ (fun d i => freshEpoch_out now i d) l d

theorem freshEpochs_open {p : Nat} {d : Dev} (opened : (d.pair p).txOpen = true) (now : W64) (l : List Nat) :
    ((d.freshEpochs now l).pair p).txOpen = true := by
  induction l generalizing d with
  | nil => exact opened
  | cons i l ih => exact ih (freshEpoch_open opened now i)

theorem freshEpochs_opens {q : Nat} {l : List Nat} (listed : q ∈ l) {d : Dev} (reached : d.reaches q = true) (now : W64) :
    ((d.freshEpochs now l).pair q).txOpen = true := by
  induction l generalizing d with
  | nil => cases listed
  | cons i l ih =>
    rcases List.mem_cons.mp listed with rfl | later
    · exact freshEpochs_open (freshEpoch_opens reached now) now l
    · exact ih later (((freshEpoch_keeps now i d).reaches q).trans reached)

/-- Where none of the devices has an open epoch, no operation ends. -/
theorem freshEpochs_closed {l : List Nat} (once : l.Nodup) {d : Dev} (shut : ∀ i ∈ l, (d.pair i).txOpen = false) (now : W64) :
    (d.freshEpochs now l).regs = d.regs ∧ (d.freshEpochs now l).roods = d.roods := by
  induction l generalizing d with
  | nil => exact ⟨rfl, rfl⟩
  | cons q l ih =>
    obtain ⟨new, once⟩ := List.nodup_cons.mp once
    have first := freshEpoch_closed (shut q List.mem_cons_self) now
    have shutHere : ∀ i ∈ l, ((d.freshEpoch now q).pair i).txOpen = false := fun i hi => by
      have other : i ≠ q := fun same => new (same ▸ hi)
      rw [first]
      split
      · rw [openEpoch_txOpen, if_neg other]
        exact shut i (List.mem_cons_of_mem _ hi)
      · exact shut i (List.mem_cons_of_mem _ hi)
    obtain ⟨regs, roods⟩ : (d.freshEpoch now q).regs = d.regs ∧ (d.freshEpoch now q).roods = d.roods := by
      rw [first]
      split
      · exact ⟨openEpoch_regs q d, (openEpoch_keeps q d).only.roods⟩
      · exact ⟨rfl, rfl⟩
    obtain ⟨later_regs, later_roods⟩ := ih once shutHere
    exact ⟨later_regs.trans regs, later_roods.trans roods⟩

/-- A list without its repetitions has none. -/
theorem nodup_eraseDups (l : List Nat) : l.eraseDups.Nodup := by
  match l with
  | [] => exact List.nodup_nil
  | a :: l =>
    have shorter := List.length_filter_le (fun b => !b == a) l
    rw [List.eraseDups_cons, List.nodup_cons]
    exact ⟨by simp, nodup_eraseDups _⟩
termination_by l.length
decreasing_by simp only [List.length_cons]; omega

/-! ## Links (R385, R386) -/

theorem modPort_ports {p : Nat} {o : Port} {d : Dev} (port : d.chain.ports[p]? = some o) (f : Port → Port) :
    (d.modPort p f).chain.ports[p]? = some (f o) := by
  show (modIdx p f d.chain.ports)[p]? = _
  rw [modIdx_self, port]
  rfl

section
variable {s : State} {p : Nat} {o : Port} (port : s.dev.chain.ports[p]? = some o)
include port

theorem portUp_eq : s.dev.portUp p = o.up := by
  rw [Dev.portUp, port]

theorem chainLinkRetry_trains (ready : s.dev.ready = true) (usable : s.dev.portUsable p = true) (down : o.up = false) :
    ∃ t, exec (.chainLinkRetry p) s = .next t ∧ t.dev.chain.ports[p]? = some { o with training := true } ∧
      t.dev.chain.pairs = s.dev.chain.pairs ∧ t.dev.roods = s.dev.roods := by
  have retries : s.dev.linkRetry p = s.dev.modPort p (fun q => { q with training := true }) := by
    simp [Dev.linkRetry, ready, usable, portUp_eq port, down]
  exact ⟨_, congrArg Host.Outcome.next (onDev_silent retries ⟨rfl, rfl, rfl, rfl, rfl, rfl⟩), modPort_ports port _, rfl, rfl⟩

theorem chainLinkRetry_idle (up : o.up = true) : exec (.chainLinkRetry p) s = .next s := by
  refine congrArg Host.Outcome.next (onDev_idle ?_)
  simp [Dev.linkRetry, portUp_eq port, up]

theorem chainLinkLoss_down :
    ∃ t, exec (.chainLinkLoss p) s = .next t ∧ t.dev.roods = s.dev.roods ∧ t.dev.chain.pairs = s.dev.chain.pairs ∧
      t.dev.chain.ports[p]? = some { o with up := false, training := false, reach := [] } ∧
      ∀ k, k ≠ p → t.dev.chain.ports[k]? = s.dev.chain.ports[k]? :=
  ⟨_, congrArg Host.Outcome.next (onDev_silent rfl ⟨rfl, rfl, rfl, rfl, rfl, rfl⟩), rfl, rfl, modPort_ports port _,
    fun _ other => modIdx_other other _ _⟩

end

/-- The device once a port has stopped training. -/
def Dev.untrained (p : Nat) (d : Dev) : Dev := d.modPort p (fun q => { q with training := false })

/-- The device once a port that has asked its neighbour is up. -/
def Dev.linked (p : Nat) (n : Neighbour) (d : Dev) : Dev :=
  ((d.untrained p).askNeighbour p).modPort p (fun q => { q with up := true, neighbour := n.number, reach := n.reach })

/-- The entry of a link that a check of R386 keeps down. -/
def Dev.linkRefusal (now : W64) (p : Nat) (n : Neighbour) (d : Dev) : LogEntry :=
  (LogEntry.plain now 0x05 (d.neighbourCheck n) n.number).ofUnit (.chainPort p)

theorem linked_port {d : Dev} {p : Nat} {o : Port} (port : d.chain.ports[p]? = some o) (n : Neighbour) :
    (d.linked p n).chain.ports[p]? = some { up := true, training := false, neighbour := n.number, reach := n.reach } :=
  modPort_ports (d := (d.untrained p).askNeighbour p) (modPort_ports port _) _

/-- What a port does at the end of its training. -/
theorem linkUp_eq {d : Dev} {p : Nat} {o : Port} (port : d.chain.ports[p]? = some o) (usable : d.portUsable p = true)
    (training : o.training = true) (now : W64) (n : Neighbour) :
    d.linkUp now p n = if n.trained = false then d.untrained p
      else if d.neighbourCheck n ≠ 0 then ((d.untrained p).askNeighbour p).log (d.linkRefusal now p n)
      else (d.linked p n).freshEpochs now (n.number :: n.reach).eraseDups := by
  unfold Dev.linkUp
  rw [port, usable, Option.any_some, training, if_neg (by simp)]
  cases n.trained <;> rfl

theorem exec_chainLinkUp {s : State} {p : Nat} {n : Neighbour} {d : Dev} (h : s.dev.linkUp s.clock.time p n = d) :
    exec (.chainLinkUp p n) s = .next { s with dev := Dev.signal s.dev d } := by
  rw [← h]
  rfl

section
variable {s : State} {p : Nat} {o : Port} {n : Neighbour} (port : s.dev.chain.ports[p]? = some o)
  (usable : s.dev.portUsable p = true) (training : o.training = true)
include port usable training

theorem chainLinkUp_untrained (failed : n.trained = false) :
    ∃ t, exec (.chainLinkUp p n) s = .next t ∧ t.dev.chain.ports[p]? = some { o with training := false } ∧
      t.dev.regs.log = s.dev.regs.log := by
  have stops := linkUp_eq port usable training s.clock.time n
  rw [if_pos failed] at stops
  exact ⟨_, congrArg Host.Outcome.next (onDev_silent stops ⟨rfl, rfl, rfl, rfl, rfl, rfl⟩), modPort_ports port _, rfl⟩

theorem chainLinkUp_refused (trained : n.trained = true) (check : s.dev.neighbourCheck n ≠ 0) :
    ∃ t k, exec (.chainLinkUp p n) s = .next t ∧ t.dev.chain.ports[p]? = some { o with training := false } ∧
      t.dev.regs.log.entries.head? = some k ∧ k.kind = 0x05 ∧ k.code = s.dev.neighbourCheck n ∧ k.detail = n.number ∧
      k.unitKind = 0x07 ∧ k.unit = p ∧ k.quad = p / 2 ∧ t.dev.roods = s.dev.roods := by
  have fails := linkUp_eq port usable training s.clock.time n
  rw [if_neg (by simp [trained]), if_pos check] at fails
  have logged := log_newest (s.dev.linkRefusal s.clock.time p n) ((s.dev.untrained p).askNeighbour p)
  refine ⟨_, { s.dev.linkRefusal s.clock.time p n with seq := s.dev.regs.log.head + 1 }, exec_chainLinkUp fails, ?_, ?_,
    rfl, rfl, rfl, rfl, rfl, rfl, ?_⟩
  · show (Dev.signal s.dev _).chain.ports[p]? = _
    rw [signal_chain]
    exact modPort_ports port _
  · show (Dev.signal s.dev _).regs.log.entries.head? = _
    rw [signal_log]
    exact logged
  · show (Dev.signal s.dev _).roods = _
    rw [signal_roods]
    rfl

theorem chainLinkUp_up (trained : n.trained = true) (check : s.dev.neighbourCheck n = 0) :
    ∃ t, exec (.chainLinkUp p n) s = .next t ∧ .portRequest p [0x82, 0, 0, 0, 0, 0xFF, 0xFF] ∈ t.dev.out ∧
      ((∀ i ∈ n.number :: n.reach, (s.dev.pair i).txOpen = false) →
        t.dev.regs.log = s.dev.regs.log ∧ t.dev.roods = s.dev.roods) ∧
      t.dev.chain.ports[p]? = some { up := true, training := false, neighbour := n.number, reach := n.reach } ∧
      ∀ i ∈ n.number :: n.reach, t.dev.reaches i = true → (t.dev.pair i).txOpen = true := by
  have rises := linkUp_eq port usable training s.clock.time n
  rw [if_neg (by simp [trained]), if_neg (by simp [check])] at rises
  generalize list : (n.number :: n.reach).eraseDups = l at rises
  have keeps := freshEpochs_keeps s.clock.time l (s.dev.linked p n)
  refine ⟨_, exec_chainLinkUp rises, ?_, fun shut => ?_, ?_, fun i listed reached => ?_⟩
  · refine signal_out _ _ _ ?_
    refine (freshEpochs_out _ _ _).subset (List.mem_append_right _ ?_)
    exact List.mem_cons_self
  · have once : l.Nodup := list ▸ nodup_eraseDups _
    obtain ⟨regs, roods⟩ := freshEpochs_closed once (d := s.dev.linked p n)
      (fun i hi => shut i (List.mem_eraseDups.mp (list ▸ hi))) s.clock.time
    show (Dev.signal s.dev _).regs.log = _ ∧ (Dev.signal s.dev _).roods = _
    rw [signal_log, signal_roods, regs, roods]
    exact ⟨rfl, rfl⟩
  · show (Dev.signal s.dev _).chain.ports[p]? = _
    rw [signal_chain, keeps.ports]
    exact linked_port port n
  · have here : ((s.dev.linked p n).freshEpochs s.clock.time l).reaches i = true := by
      rw [← signal_reaches s.dev]
      exact reached
    show ((Dev.signal s.dev _).pair i).txOpen = true
    rw [signal_pair]
    exact freshEpochs_opens (list ▸ List.mem_eraseDups.mpr listed) ((keeps.reaches i).symm.trans here) s.clock.time

end

/-- Settles O58: each clause is the equation of its row, and an epoch that a link opens stays open through what the others end. -/
theorem chainLinksCarryMessages : Obligations.ChainLinksCarryMessages := by
  unfold Obligations.ChainLinksCarryMessages
  intro s
  refine ⟨fun p o port => ⟨chainLinkRetry_trains port, chainLinkRetry_idle port, chainLinkLoss_down port,
      fun n _ usable training => ⟨chainLinkUp_untrained port usable training, chainLinkUp_refused port usable training,
        chainLinkUp_up port usable training⟩⟩,
    fun m p ready other hops route => ⟨_, chainForward_leaves ready other hops route, rfl⟩,
    fun m stuck => chainForward_discards stuck,
    fun m unknown turn => chainUnknownType_counts unknown turn,
    fun m typ hears crc first closed none_waits => hello_opens typ hears crc first closed none_waits,
    fun m u before after typ hears crc epoch waits acked earlier window =>
      ack_ends_waits typ hears crc epoch waits acked earlier window,
    fun peer p ready route => ⟨ackSendTimer_sends ready route, fun u waits dst => chainResendTimer_sends ready route waits dst⟩,
    fun peer => ⟨ackSendTimer_idle, fun none_waits => ⟨chainResendTimer_idle none_waits, chainEpochTimeout_idle none_waits⟩,
      chainEpochTimeout_closes, chainEpochTimeout_reopens⟩⟩

end Sys2Proof.Machine
end

section
/-! PROOF. The registers of a rood that judge their write: ROOD_IDX_BASE, ROOD_CKP_CTL and LINEAGE (R400, R401, R414, R519, Tables
14.1 and 14.4), and with them obligation O29. -/
namespace Sys2Proof.Machine
open Sys2Proof

/-! ## ROOD_IDX_BASE (R519) -/

theorem writeIdxBase_taken {x : Rood} (idle : x.ringsActive = false) (now : W64) (v : Nat) :
    x.writeIdxBase now v = { x with regs := { x.regs with idxBase := BitVec.ofNat 64 (v / 128 * 128) } } := by
  rw [Rood.writeIdxBase, if_neg (by simp [idle])]

theorem writeIdxBase_refused {x : Rood} (active : x.ringsActive = true) (now : W64) (v : Nat) :
    x.writeIdxBase now v = x.configEntry now 2 0x100 := by
  rw [Rood.writeIdxBase, if_pos active]

/-! ## ROOD_CKP_CTL (R414, R519) -/

/-- Only the reserved bit of Table 14.4 does not take what is written. -/
theorem ofNat_and_ckpCtlMask (v : W64) : BitVec.ofNat 64 (v.toNat &&& ckpCtlMask) = v &&& 0xFFFFFFFFFFFFFFF7 := by
  rw [BitVec.ofNat_and, BitVec.ofNat_toNat, BitVec.setWidth_eq]
  rfl

theorem writeCkpCtl_taken {v : W64} (target : bitsOf v.toNat 4 2 ≤ 1) (now : W64) (x : Rood) :
    x.writeCkpCtl now v = { x with regs := { x.regs with ckpCtl := v &&& 0xFFFFFFFFFFFFFFF7 } } := by
  rw [Rood.writeCkpCtl, if_neg (by omega), ofNat_and_ckpCtlMask]

theorem writeCkpCtl_refused {v : W64} (target : 2 ≤ bitsOf v.toNat 4 2) (now : W64) (x : Rood) :
    x.writeCkpCtl now v = x.configEntry now 4 0x500 := by
  rw [Rood.writeCkpCtl, if_pos target]

/-! ## LINEAGE (R400, R401) -/

theorem writeLineage_taken {v : W64} {x : Rood} (some_lineage : v ≠ 0) (idle : x.ckpBusy = false) (none_pending : x.ckpPending = false) :
    x.writeLineage v = { x with regs := { x.regs with lineage := v }, ckp := { x.ckp with nextSeq := 1, ref := none } } := by
  rw [Rood.writeLineage, if_neg (not_or.mpr ⟨some_lineage, by simp [idle, none_pending]⟩)]

theorem writeLineage_ignored {v : W64} {x : Rood} (ignored : v = 0 ∨ x.ckpBusy = true ∨ x.ckpPending = true) : x.writeLineage v = x := by
  rw [Rood.writeLineage, if_pos ignored]

/-! ## The rows -/

/-- The row of a write that a configuration entry refuses. -/
theorem write_refused {i : Instr} {r code off : Nat} {s : State} {x : Rood} {now : W64} {f : Ctx → Rood → Rood} (hw : Works s r x)
    (row : exec i s = .next (onRood r f s)) (refuses : f (ctxOf s) x = x.configEntry now code off) :
    ∃ t y, exec i s = .next t ∧ Becomes t r x y ∧ RefusedWrite x y code off ∧ y.irings = x.irings ∧ y.crings = x.crings :=
  ⟨_, _, row, onRood_becomes_of hw refuses, configEntry_refused now code off x, configEntry_rings now code off x⟩

/-- Settles O29: each register takes its write, or leaves it, as its condition says. -/
theorem writesThatRoodsJudge : Obligations.WritesThatRoodsJudge := by
  unfold Obligations.WritesThatRoodsJudge
  intro r v s x hw
  exact ⟨fun idle => ⟨_, rfl, onRood_becomes_of hw (writeIdxBase_taken idle _ _)⟩,
    fun active => write_refused hw rfl (writeIdxBase_refused active _ _),
    fun target => ⟨_, rfl, onRood_becomes_of hw (writeCkpCtl_taken target _ _)⟩,
    fun target => write_refused hw rfl (writeCkpCtl_refused target _ _),
    fun some_lineage idle none_pending => ⟨_, rfl, onRood_becomes_of hw (writeLineage_taken some_lineage idle none_pending)⟩,
    fun ignored => ⟨_, rfl, onRood_becomes_of hw (writeLineage_ignored ignored)⟩⟩

end Sys2Proof.Machine
end

section
/-! PROOF. A checkpoint command in the order of its judgement, and the cut: the image of the rood at one instant, its sequence number
and its run (R401 to R404, R409, R410, R417). -/
namespace Sys2Proof.Machine
open Sys2Proof

/-! ## Rows during which the NAND wears (R383, R384) -/

/-- A rood that takes part in work becomes what the work makes of it on the NAND as it is then. -/
theorem onFlash_becomes {s : State} {r : Nat} {x : Rood} (hw : Works s r x) (w : Wear) (f : Ctx → Rood → Rood) :
    Becomes (onFlash w r f s) r x (f (ctxWorn w s) x) := by
  obtain ⟨live, rood⟩ := hw
  have here : ({ s.dev with flash := s.dev.flash.wear w } : Dev).rood? r = some x := rood
  unfold onFlash Becomes
  rw [onDev_dev, signal_rood?, if_pos live]
  exact rood_after here f s.clock.time

/-! ## The judgement (R417, R426) -/

/-- A command that fails ends, and leaves the rood as it is. -/
theorem ends_of_fail {t : State} {r : Nat} {x : Rood} {d : Cmd} {q : CRing} {st : Nat} {now : W64}
    (h : Becomes t r x ((x.fail now d st).pump now)) (report : CanReport x d q) : Ends t r x x d q (d.record st) := by
  have ends := ends_of_completed (f := x.fx) h report rfl
  rwa [tidy_record] at ends

/-- The rood in which a checkpoint command waits behind the others. -/
def Rood.ckpWaiting (d : Cmd) (x : Rood) : Rood :=
  ({ x with ckp := { x.ckp with queue := x.ckp.queue ++ [d.id] } } : Rood).setCmd { d with stage := .waiting }

section
variable {x : Rood} {d : Cmd} {ctx : Ctx}

theorem judgeCkp_fails (bad : d.ckpCheck ctx ≠ 0) : x.judgeCkp ctx d = (x.fail ctx.time d (d.ckpCheck ctx)).pump ctx.time := by
  simp only [Rood.judgeCkp, bad, ne_eq, not_false_eq_true, if_true]

theorem judgeCkp_waits (passes : d.ckpCheck ctx = 0) (busy : x.ckpBusy = true) :
    x.judgeCkp ctx d = (x.ckpWaiting d).pump ctx.time := by
  simp only [Rood.ckpWaiting, Rood.judgeCkp, passes, busy, ne_eq, not_true_eq_false, if_true, if_false]

theorem judgeCkp_runs (passes : d.ckpCheck ctx = 0) (idle : x.ckpBusy = false) :
    x.judgeCkp ctx d = (x.runCkp ctx d).pump ctx.time := by
  simp only [Rood.judgeCkp, passes, idle, ne_eq, not_true_eq_false, Bool.false_eq_true, if_false]

theorem ckpBusy_queued (behind : x.ckp.queue ≠ []) : x.ckpBusy = true := by
  simp [Rood.ckpBusy, behind]

theorem ckpBusy_idle (idle : x.ckpRuns = false) (first : x.ckp.queue = []) : x.ckpBusy = false := by
  simp [Rood.ckpBusy, idle, first]

end

/-! ## What a cut leaves -/

/-- Only the pool and the requests of the rood differ. -/
def PoolOnly (x y : Rood) : Prop := y = { x with kv := y.kv, fx := y.fx }

theorem PoolOnly.refl (x : Rood) : PoolOnly x x := rfl

theorem PoolOnly.trans {x y z : Rood} (h : PoolOnly x y) (k : PoolOnly y z) : PoolOnly x z := by
  unfold PoolOnly at *
  rw [k, h]

theorem PoolOnly.foldl {α : Type} {f : Rood → α → Rood} (h : ∀ y a, PoolOnly y (f y a)) (l : List α) (x : Rood) :
    PoolOnly x (l.foldl f x) :=
  List.foldlRecOn l f (motive := PoolOnly x) (.refl x) (fun y hy a _ => hy.trans (h y a))

theorem ask_poolOnly (f : Fx) (x : Rood) : PoolOnly x (x.ask f) := rfl

theorem setKv_poolOnly (k : Kv) (x : Rood) : PoolOnly x { x with kv := k } := rfl

theorem asking_poolOnly {x y : Rood} {f : List Fx} (h : y = x.asking f) : PoolOnly x y := by rw [h]; rfl

theorem takeRoom_poolOnly (use : FrameUse) (needs : List (Nat × Nat)) (x : Rood) : PoolOnly x (x.takeRoom use needs).2 :=
  List.foldlRecOn needs _ (motive := fun r : List Nat × Rood => PoolOnly x r.2) (.refl x) (fun _ hr _ _ => hr.trans (setKv_poolOnly _ _))

theorem readObject_poolOnly (ctx : Ctx) (id : Nat) (x : Rood) : PoolOnly x (x.readObject ctx id).1 := by
  unfold Rood.readObject
  split
  · exact .refl x
  · exact ((PoolOnly.foldl (fun _ _ => ask_poolOnly _ _) _ x).trans (.foldl (fun _ _ => ask_poolOnly _ _) _ _)).trans
      (asking_poolOnly (count_asking _ _ _))

/-! ## The image (R402 to R405, R412) -/

/-- A PARKED session is recorded in its slot, from its bushel or from the reference. -/
theorem cutParked_cuts (ctx : Ctx) (slot : Nat) (e : Entry) (c : Cutting) (x : Rood) :
    PoolOnly x (x.cutParked ctx slot e c).1 ∧ (x.cutParked ctx slot e c).2.1.slot = slot := by
  have read := readObject_poolOnly ctx (x.bushelId slot e) x
  unfold Rood.cutParked
  extract_lets g order id key enter refs r
  split
  · exact ⟨.refl x, rfl⟩
  · split
    · exact ⟨.refl x, rfl⟩
    · split
      · exact ⟨read, rfl⟩
      · exact ⟨read, rfl⟩

theorem cutSession_cuts (ctx : Ctx) (slot : Nat) (e : Entry) (c : Cutting) (x : Rood) :
    PoolOnly x (x.cutSession ctx slot e c).1 ∧ (x.cutSession ctx slot e c).2.1.slot = slot := by
  unfold Rood.cutSession
  split
  · exact ⟨.refl x, rfl⟩
  · exact cutParked_cuts ctx slot e c x
  · exact ⟨.refl x, rfl⟩

/-- One session cut after others. -/
def Rood.cutNext (ctx : Ctx) (r : Rood × List CkpSession × Cutting) (s : Nat × Entry) : Rood × List CkpSession × Cutting :=
  let n := r.1.cutSession ctx s.1 s.2 r.2.2
  (n.1, r.2.1 ++ [n.2.1], n.2.2)

theorem foldl_cutNext (ctx : Ctx) (l : List (Nat × Entry)) (r : Rood × List CkpSession × Cutting) :
    PoolOnly r.1 (l.foldl (Rood.cutNext ctx) r).1 ∧
      (l.foldl (Rood.cutNext ctx) r).2.1.map (fun p => p.slot) = r.2.1.map (fun p => p.slot) ++ l.map (fun s => s.1) := by
  induction l generalizing r with
  | nil => exact ⟨.refl _, by simp⟩
  | cons s l ih =>
    obtain ⟨only, slot⟩ := cutSession_cuts ctx s.1 s.2 r.2.2 r.1
    obtain ⟨later, slots⟩ := ih (Rood.cutNext ctx r s)
    exact ⟨only.trans later, slots.trans (by simp [Rood.cutNext, slot])⟩

/-- An image holds the generation of every slot and every session of the rood (R403). -/
structure CkpImage.Records (m : CkpImage) (x : Rood) : Prop where
  baseGen : m.baseGen = x.baseGen
  gens : m.gens = x.slots.map (fun p => (p.1, p.2.gen))
  sessions : m.sessions.map (fun p => p.slot) = x.slots.filterMap (fun p => p.2.entry.map (fun _ => p.1))

theorem cutImage_cuts (ctx : Ctx) (ref : Option CkpRef) (x : Rood) :
    PoolOnly x (x.cutImage ctx ref).1 ∧ (x.cutImage ctx ref).2.1.Records x := by
  unfold Rood.cutImage
  extract_lets c r
  obtain ⟨only, slots⟩ : PoolOnly x r.1 ∧ r.2.1.map (fun p => p.slot) = _ := foldl_cutNext ctx _ (x, [], c)
  refine ⟨only, rfl, rfl, slots.trans ?_⟩
  simp [List.map_filterMap, Function.comp_def]

theorem CkpImage.Records.of_poolOnly {m : CkpImage} {x y : Rood} (h : m.Records y) (only : PoolOnly x y) : m.Records x := by
  rw [only] at h
  exact ⟨h.baseGen, h.gens, h.sessions⟩

/-! ## The cut (R404, R409, R410) -/

/-- The run `u` of command `d` cuts the rood `x`, which then stands as `y`. -/
structure Cuts (now : W64) (d : Cmd) (x y : Rood) (u : CkpRun) : Prop where
  only : y = { x with
    kv := y.kv, fx := y.fx
    ckp := { x.ckp with nextSeq := x.ckp.nextSeq + 1, steps := 0, run := some u }
    cmds := x.cmds.map (fun k => if k.id == d.id then { d with stage := .running } else k) }
  cmd : u.cmd = d.id
  seq : u.next.seq = x.ckp.nextSeq
  lean : u.lean = d.ckpLean
  cutTime : u.cutTime = now
  suspect : u.suspect = false
  base : x.ckp.ref = none → u.base = true ∧ u.prevSeq = 0 ∧ u.next.baseSeq = x.ckp.nextSeq
  records : u.next.image.Records x

theorem takesBase_none {x : Rood} (none_yet : x.ckp.ref = none) (ctl : W64) (d : Cmd) : x.takesBase ctl d = true := by
  simp [Rood.takesBase, none_yet]

/-- A run that begins in a rood of which the cut has changed the pool and the requests alone. -/
theorem begin_run {x w : Rood} (only : PoolOnly x w) (n : Nat) (u : CkpRun) (e : Cmd) :
    ({ w with ckp := { w.ckp with nextSeq := n, steps := 0, run := some u } } : Rood).setCmd e = { x with
      kv := w.kv, fx := w.fx, ckp := { x.ckp with nextSeq := n, steps := 0, run := some u }
      cmds := x.cmds.map (fun k => if k.id == e.id then e else k) } := by
  rw [only]
  rfl

theorem cutTake_cuts {d : Cmd} (own : d.ckpTarget = 0) (ctx : Ctx) (ctl : W64) (x : Rood) :
    ∃ u, Cuts ctx.time d x (x.cutTake ctx ctl d) u := by
  unfold Rood.cutTake
  extract_lets y seq base r base' r' ref next run w ckp v
  have room : PoolOnly x y := takeRoom_poolOnly _ _ x
  obtain ⟨cut, records⟩ : PoolOnly x r'.1 ∧ r'.2.1.Records x := by
    unfold r' r
    split
    · obtain ⟨cut, records⟩ := cutImage_cuts ctx (if base then none else y.ckp.ref) y
      exact ⟨room.trans cut, records.of_poolOnly room⟩
    · obtain ⟨cut, records⟩ := cutImage_cuts ctx none y
      exact ⟨room.trans cut, records.of_poolOnly room⟩
  have counted : PoolOnly x w := cut.trans (.foldl (fun _ _ => asking_poolOnly (countSlice_asking _ _ _ _)) _ _)
  have same : y.ckp = x.ckp := by rw [room]
  have number : seq = x.ckp.nextSeq := congrArg Ckp.nextSeq same
  rw [if_neg (by simp [own])]
  refine ⟨run, ?only, rfl, number, rfl, rfl, rfl, ?base, records⟩
  case only =>
    rw [← number]
    exact begin_run counted (seq + 1) run { d with stage := .running }
  case base =>
    intro none_yet
    have based : base' = true := by
      have first : base = true := takesBase_none (by rw [same, none_yet]) ctl d
      simp [base', first]
    have fresh : ref = none := if_pos based
    exact ⟨based, by simp [run, fresh], by simp [run, next, fresh, number]⟩

end Sys2Proof.Machine
end

section
/-! PROOF. CKP_TAKE in its turn and the end of the copy of a checkpoint (R401, R404, R408 to R412, R417, R425), and with them
obligation O42. -/
namespace Sys2Proof.Machine
open Sys2Proof

/-! ## CKP_TAKE (R404, R409, R417) -/

section
variable {x : Rood} {d : Cmd} (own : d.ckpTarget = 0)
include own

theorem runTake_noRoom (full : x.roomFor x.copyNeeds = false) (ctx : Ctx) (ctl : W64) :
    x.runTake ctx ctl d = x.fail ctx.time d stAdmitMem := by
  simp [Rood.runTake, own, full]

theorem runTake_cuts (room : x.roomFor x.copyNeeds = true) (ctx : Ctx) (ctl : W64) :
    ∃ u, Cuts ctx.time d x (x.runTake ctx ctl d) u := by
  have cuts : x.runTake ctx ctl d = x.cutTake ctx ctl d := by simp [Rood.runTake, own, room]
  rw [cuts]
  exact cutTake_cuts own ctx ctl x

end

section
variable {now : W64} {d : Cmd} {x y : Rood} {u : CkpRun} (h : Cuts now d x y u)
include h

theorem Cuts.irings : y.irings = x.irings := by rw [h.only]
theorem Cuts.slots : y.slots = x.slots := by rw [h.only]
theorem Cuts.vecs : y.vecs = x.vecs := by rw [h.only]
theorem Cuts.host : y.host = x.host := by rw [h.only]
theorem Cuts.nextCmd : y.nextCmd = x.nextCmd := by rw [h.only]
theorem Cuts.ckp : y.ckp = { x.ckp with nextSeq := x.ckp.nextSeq + 1, steps := 0, run := some u } := by rw [h.only]
theorem Cuts.cmds : y.cmds = x.cmds.map (fun k => if k.id == d.id then { d with stage := .running } else k) := by rw [h.only]

/-- A cut in a rood in which no slot can be accepted stands as it is made. -/
theorem Cuts.pump (posted : NonePosted x) (t : W64) : y.pump t = y := pump_nonePosted (posted.of_irings h.irings) t

end

theorem runCkp_take {x : Rood} {d : Cmd} (op : d.opcode = 0x30) (ctx : Ctx) : x.runCkp ctx d = x.runTake ctx x.regs.ckpCtl d := by
  rw [Rood.runCkp, if_pos op]

section
variable {r c : Nat} {s : State} {x : Rood} {d : Cmd} {q : CRing} (hw : Works s r x)
include hw

theorem ckpTake_behind (accepted : Accepted x c 0x30 d) (behind : x.unjudgedBefore [0x30, 0x31] d = true) :
    ∃ t, exec (.ckpTake r c) s = .next t ∧ Becomes t r x x :=
  ⟨_, rfl, onRood_becomes_of hw (by rw [onNext_accepted accepted, if_pos behind])⟩

theorem ckpTake_judges (accepted : Accepted x c 0x30 d) (next : x.unjudgedBefore [0x30, 0x31] d = false) :
    ∃ t, exec (.ckpTake r c) s = .next t ∧ Becomes t r x (x.judgeCkp (ctxOf s) d) :=
  ⟨_, rfl, onRood_becomes_of hw (by rw [onNext_accepted accepted, next, if_neg Bool.false_ne_true])⟩

variable (accepted : Accepted x c 0x30 d) (next : x.unjudgedBefore [0x30, 0x31] d = false) (report : CanReport x d q)
include accepted next report

theorem ckpTake_fails (bad : d.ckpCheck (ctxOf s) ≠ 0) :
    ∃ t, exec (.ckpTake r c) s = .next t ∧ Ends t r x x d q (d.record (d.ckpCheck (ctxOf s))) := by
  obtain ⟨t, run, becomes⟩ := ckpTake_judges hw accepted next
  rw [judgeCkp_fails bad] at becomes
  exact ⟨t, run, ends_of_fail becomes report⟩

variable (passes : d.ckpCheck (ctxOf s) = 0)
include passes

theorem ckpTake_waits (behind : x.ckp.queue ≠ []) :
    ∃ t, exec (.ckpTake r c) s = .next t ∧ Becomes t r x { x with
      ckp := { x.ckp with queue := x.ckp.queue ++ [d.id] }
      cmds := x.cmds.map (fun k => if k.id == d.id then { d with stage := .waiting } else k) } := by
  obtain ⟨t, run, becomes⟩ := ckpTake_judges hw accepted next
  have posted : NonePosted (x.ckpWaiting d) := report.posted
  rw [judgeCkp_waits passes (ckpBusy_queued behind), pump_nonePosted posted] at becomes
  exact ⟨t, run, becomes⟩

variable (idle : x.ckpBusy = false) (own : d.ckpTarget = 0)
include idle own

theorem ckpTake_noRoom (full : x.roomFor x.copyNeeds = false) :
    ∃ t, exec (.ckpTake r c) s = .next t ∧ Ends t r x x d q (d.record stAdmitMem) := by
  obtain ⟨t, run, becomes⟩ := ckpTake_judges hw accepted next
  obtain ⟨-, op, -⟩ := accepted
  rw [judgeCkp_runs passes idle, runCkp_take op, runTake_noRoom own full] at becomes
  exact ⟨t, run, ends_of_fail becomes report⟩

theorem ckpTake_cuts (room : x.roomFor x.copyNeeds = true) :
    ∃ t y u, exec (.ckpTake r c) s = .next t ∧ Becomes t r x y ∧ Cuts s.clock.time d x y u := by
  obtain ⟨t, run, becomes⟩ := ckpTake_judges hw accepted next
  obtain ⟨u, cuts⟩ := runTake_cuts own room (ctxOf s) x.regs.ckpCtl
  obtain ⟨-, op, -⟩ := accepted
  rw [judgeCkp_runs passes idle, runCkp_take op, cuts.pump report.posted] at becomes
  exact ⟨t, _, u, run, becomes, cuts⟩

end

/-- The rood in which a checkpoint command that waited has its turn. -/
def Rood.ckpUnqueued (rest : List Nat) (x : Rood) : Rood := { x with ckp := { x.ckp with queue := rest } }

theorem ckpUnqueued_first {x : Rood} (first : x.ckp.queue = []) : x.ckpUnqueued [] = x := by
  rw [Rood.ckpUnqueued, ← first]

theorem ckpAdvance_take {x : Rood} {d : Cmd} {c : Nat} {rest : List Nat} (idle : x.ckpRuns = false) (cmd : x.cmd? c = some d)
    (op : d.opcode = 0x30) (turn : x.ckp.queue = c :: rest) (ctx : Ctx) :
    x.ckpAdvance ctx = (x.ckpUnqueued rest).runTake ctx x.regs.ckpCtl d := by
  have named : (x.ckpUnqueued rest).cmd? c = some d := cmd
  unfold Rood.ckpAdvance
  rw [if_neg (by simp [idle]), turn]
  show (match (x.ckpUnqueued rest).cmd? c with
    | some c => (x.ckpUnqueued rest).runCkp ctx c
    | none => x.ckpUnqueued rest) = _
  rw [named]
  exact runCkp_take op ctx

theorem ckpQueueAdvance_cuts {r c : Nat} {s : State} {x : Rood} {d : Cmd} {rest : List Nat} (hw : Works s r x)
    (idle : x.ckpRuns = false) (cmd : x.cmd? c = some d) (op : d.opcode = 0x30) (own : d.ckpTarget = 0) (posted : NonePosted x)
    (turn : x.ckp.queue = c :: rest) (room : x.roomFor x.copyNeeds = true) :
    ∃ t y u, exec (.ckpQueueAdvance r) s = .next t ∧ Becomes t r x y ∧ Cuts s.clock.time d (x.ckpUnqueued rest) y u := by
  obtain ⟨u, cuts⟩ := runTake_cuts (x := x.ckpUnqueued rest) own room (ctxOf s) x.regs.ckpCtl
  refine ⟨_, _, u, rfl, onRood_becomes_of hw ?_, cuts⟩
  rw [ckpAdvance_take idle cmd op turn]
  exact cuts.pump posted _

/-! ## CKP_TAKE_DONE (R408, R411, R412, R425) -/

/-- The rood once its checkpoint has ended, with the reference that it leaves. -/
def Rood.takeEnded (ref : Option CkpRef) (x : Rood) : Rood := { x.freeCopy with ckp := { x.ckp with run := none, ref := ref } }

/-- The record of a checkpoint that ends, before it is tidied. -/
def CkpRun.endRecord (u : CkpRun) (d : Cmd) (st : Nat) : CRec :=
  { d.record st with result := [0, 0, u.next.seq % 2 ^ 32, u.next.seq / 2 ^ 32] }

theorem endRecord_ok (u : CkpRun) (d : Cmd) : (u.endRecord d stOk).tidy = u.endRecord d stOk := tidy_ok d _

section
variable {x : Rood} {u : CkpRun} {d : Cmd} (cmd : x.cmd? u.cmd = some d)
include cmd

theorem endTake_succeeds (now : W64) :
    x.endTake now u stOk =
      ((x.takeEnded (some u.next)).asking ((x.takeEnded (some u.next)).count 15 1).fx).complete now d (u.endRecord d stOk) := by
  rw [← count_asking]
  have named : ((x.takeEnded (some u.next)).count 15 1).cmd? u.cmd = some d := by rw [count_asking]; exact cmd
  unfold Rood.endTake
  show (match ((x.takeEnded (some u.next)).count 15 1).cmd? u.cmd with
    | some c => ((x.takeEnded (some u.next)).count 15 1).complete now c (u.endRecord c stOk)
    | none => (x.takeEnded (some u.next)).count 15 1) = _
  rw [named]

theorem endTake_fails {st : Nat} (failed : st ≠ stOk) (now : W64) :
    x.endTake now u st =
      (x.takeEnded (x.ckp.ref.map (CkpRef.keepNumbers u))).complete now d (u.endRecord d st) := by
  have named : (x.takeEnded (x.ckp.ref.map (CkpRef.keepNumbers u))).cmd? u.cmd = some d := cmd
  unfold Rood.endTake
  dsimp only
  rw [if_neg failed, if_neg failed]
  show (match (x.takeEnded (x.ckp.ref.map (CkpRef.keepNumbers u))).cmd? u.cmd with
    | some c => (x.takeEnded (x.ckp.ref.map (CkpRef.keepNumbers u))).complete now c (u.endRecord c st)
    | none => x.takeEnded (x.ckp.ref.map (CkpRef.keepNumbers u))) = _
  rw [named]

end

section
variable {x : Rood} {u : CkpRun} (run : x.ckp.run = some u) (ctx : Ctx) (ok : Bool)
include run

theorem takeDone_suspect (touched : u.suspect = true) : x.takeDone ctx ok = x.endTake ctx.time u stSuspect := by
  simp only [Rood.takeDone, run, touched, if_true]

theorem takeDone_durable (sound : u.suspect = false) (chain : u.next.target = 1) (durable : ∀ k ∈ u.shards, k.durable = true) :
    x.takeDone ctx ok = x.endTake ctx.time u stOk := by
  have all : u.shards.all (fun k => k.durable) = true := List.all_eq_true.mpr durable
  simp only [Rood.takeDone, run, sound, chain, all, if_true, Bool.false_eq_true, if_false]

theorem takeDone_waits (sound : u.suspect = false) (chain : u.next.target = 1) (travels : ∃ k ∈ u.shards, k.durable = false) :
    x.takeDone ctx ok = x := by
  have some_left : u.shards.all (fun k => k.durable) = false := List.all_eq_false.mpr (by simpa using travels)
  simp only [Rood.takeDone, run, sound, chain, some_left, if_true, Bool.false_eq_true, if_false]

theorem takeDone_media (sound : u.suspect = false) (own : u.next.target = 0) : x.takeDone ctx false = x.endTake ctx.time u stMedia := by
  simp only [Rood.takeDone, run, sound, own, Bool.not_false, if_true, Bool.false_eq_true, if_false, Nat.zero_ne_one]

end

section
variable {r : Nat} {s : State} {x : Rood} {d : Cmd} {q : CRing} {u : CkpRun} {ok : Bool} {w : Wear} (hw : Works s r x)
  (cmd : x.cmd? u.cmd = some d) (report : CanReport x d q)
include hw report

theorem ckpTakeDone_waits (waits : x.takeDone (ctxWorn w s) ok = x) :
    ∃ t, exec (.ckpTakeDone r ⟨ok, w⟩) s = .next t ∧ Becomes t r x x := by
  have becomes := onFlash_becomes hw w (fun ctx x => (x.takeDone ctx ok).pump ctx.time)
  rw [waits, pump_nonePosted report.posted] at becomes
  exact ⟨_, rfl, becomes⟩

include cmd

theorem ckpTakeDone_succeeds (ends : x.takeDone (ctxWorn w s) ok = x.endTake s.clock.time u stOk) :
    ∃ t, exec (.ckpTakeDone r ⟨ok, w⟩) s = .next t ∧ Ends t r x (x.takeEnded (some u.next)) d q (u.endRecord d stOk) := by
  have becomes := onFlash_becomes hw w (fun ctx x => (x.takeDone ctx ok).pump ctx.time)
  rw [ends, endTake_succeeds cmd] at becomes
  rw [← endRecord_ok]
  exact ⟨_, rfl, ends_of_completed (z := x.takeEnded (some u.next)) becomes report rfl⟩

theorem ckpTakeDone_fails {st : Nat} (failed : st ≠ stOk) (untold : (u.endRecord d st).tidy = d.record st)
    (ends : x.takeDone (ctxWorn w s) ok = x.endTake s.clock.time u st) :
    ∃ t, exec (.ckpTakeDone r ⟨ok, w⟩) s = .next t ∧
      Ends t r x (x.takeEnded (x.ckp.ref.map (CkpRef.keepNumbers u))) d q (d.record st) := by
  have becomes := onFlash_becomes hw w (fun ctx x => (x.takeDone ctx ok).pump ctx.time)
  rw [ends, endTake_fails cmd failed] at becomes
  rw [← untold]
  exact ⟨_, rfl, ends_of_completed (z := x.takeEnded (x.ckp.ref.map (CkpRef.keepNumbers u))) (f := x.fx) becomes report rfl⟩

end

/-- Settles O42: a checkpoint is cut in its turn, or fails; and the end of its copy follows what became of its shards. -/
theorem checkpointsAreCutAndComplete : Obligations.CheckpointsAreCutAndComplete := by
  unfold Obligations.CheckpointsAreCutAndComplete
  refine ⟨fun r c s x d q hw cmd op report own idle => ?take, fun r s x d q u hw run cmd report => ?done⟩
  case take =>
    intro cut
    have told : ∀ {t : State} {y : Rood} {u : CkpRun} {rest : List Nat}, Becomes t r x y →
        Cuts s.clock.time d (x.ckpUnqueued rest) y u → cut t rest := fun {t y u rest} becomes cuts =>
      ⟨y, u, becomes, by rw [cuts.ckp], by rw [cuts.ckp]; rfl, by rw [cuts.ckp]; rfl, by rw [cuts.ckp], by rw [cuts.ckp]; rfl,
        cuts.slots, cuts.vecs, cuts.host, cuts.cmds, cuts.cmd, cuts.seq, cuts.lean, cuts.cutTime, cuts.suspect, cuts.base,
        cuts.records.baseGen, cuts.records.gens, cuts.records.sessions⟩
    refine ⟨fun stage behind => ckpTake_behind hw ⟨cmd, op, stage⟩ behind,
      fun stage next bad => ckpTake_fails hw ⟨cmd, op, stage⟩ next report bad,
      fun stage next passes first => ⟨fun room => ?cuts, ckpTake_noRoom hw ⟨cmd, op, stage⟩ next report passes (ckpBusy_idle idle first) own⟩,
      fun stage next passes behind => ckpTake_waits hw ⟨cmd, op, stage⟩ next report passes behind,
      fun rest stage turn room => ?advances⟩
    case cuts =>
      obtain ⟨t, y, u, run, becomes, cuts⟩ := ckpTake_cuts hw ⟨cmd, op, stage⟩ next report passes (ckpBusy_idle idle first) own room
      rw [← ckpUnqueued_first first] at cuts
      exact ⟨t, run, told becomes cuts⟩
    case advances =>
      obtain ⟨t, y, u, run, becomes, cuts⟩ := ckpQueueAdvance_cuts hw idle cmd op own report.posted turn room
      exact ⟨t, run, told becomes cuts⟩
  case done =>
    exact ⟨fun sound chain durable ok w => ckpTakeDone_succeeds hw cmd report (takeDone_durable run _ ok sound chain durable),
      fun sound chain travels ok w => ckpTakeDone_waits hw report (takeDone_waits run _ ok sound chain travels),
      fun sound own w => ckpTakeDone_fails hw cmd report (by decide) rfl (takeDone_media run _ sound own),
      fun touched ok w => ckpTakeDone_fails hw cmd report (by decide) rfl (takeDone_suspect run _ ok touched)⟩

end Sys2Proof.Machine
end

section
/-! PROOF. The interval timer: the command of its trigger, a checkpoint that it cuts, and a trigger that is held (R414 to R416), and
with them obligation O43. -/
namespace Sys2Proof.Machine
open Sys2Proof

/-! ## The command of a trigger (R416, Table 4.6) -/

/-- The descriptor of a triggered checkpoint, by its tag, TARGET and LEAN. -/
def triggerRaw (tag target lean : Nat) : BitVec 512 := BitVec.ofNat 512 (0x30 + tag * 2 ^ 64 + (target + 8 * lean) * 2 ^ 128)

theorem triggerCmd_raw (t : Bool × W64) (x : Rood) : (x.triggerCmd t).raw =
    triggerRaw (0xFFFFFFFFFFFFFF00 + if t.1 then 1 else 2) (bitsOf t.2.toNat 4 2) (bitsOf t.2.toNat 6 1) := rfl

theorem triggerRaw_fields {lean : Nat} (flag : lean < 2) :
    let raw := triggerRaw (0xFFFFFFFFFFFFFF00 + 1) 0 lean
    dField raw 0 0 8 = 0x30 ∧ dField raw 4 0 32 = 0 ∧ dField raw 8 0 64 = 0xFFFFFFFFFFFFFF01 ∧ dField raw 16 0 2 = 0 ∧
      reservedSet raw 0x30 = false := by
  obtain rfl | rfl : lean = 0 ∨ lean = 1 := by omega
  · decide +kernel
  · decide +kernel

section
variable (ctl : W64) (x : Rood) (own : bitsOf ctl.toNat 4 2 = 0)

/-- The command of a trigger of the interval timer. -/
def Rood.timerCmd : Cmd := x.triggerCmd (true, ctl)

include own

theorem timerCmd_raw : (x.timerCmd ctl).raw = triggerRaw (0xFFFFFFFFFFFFFF00 + 1) 0 (bitsOf ctl.toNat 6 1) := by
  rw [Rood.timerCmd, triggerCmd_raw, if_pos rfl, own]

theorem timerCmd_fields : (x.timerCmd ctl).opcode = 0x30 ∧ (x.timerCmd ctl).handle = 0 ∧ (x.timerCmd ctl).tag = 0xFFFFFFFFFFFFFF01 ∧
    (x.timerCmd ctl).ckpTarget = 0 ∧ (x.timerCmd ctl).wellFormed = true := by
  obtain ⟨opcode, handle, tag, target, reserved⟩ := triggerRaw_fields (show bitsOf ctl.toNat 6 1 < 2 from Nat.mod_lt _ (by decide))
  rw [← timerCmd_raw ctl x own] at opcode handle tag target reserved
  have clean : (x.timerCmd ctl).poisoned = false := rfl
  generalize x.timerCmd ctl = c at *
  have op : c.opcode = 0x30 := by simp [Cmd.opcode, Cmd.f, clean, opcode]
  have none_named : c.handle = 0 := by simp [Cmd.handle, Cmd.f, clean, handle]
  exact ⟨op, none_named, by simp [Cmd.tag, Cmd.f, clean, tag], target, by simp [Cmd.wellFormed, op, reserved, none_named]⟩

theorem timerCmd_passes (ctx : Ctx) : (x.timerCmd ctl).ckpCheck ctx = 0 := by
  obtain ⟨-, -, -, target, formed⟩ := timerCmd_fields ctl x own
  simp [Cmd.ckpCheck, target, formed]

end

/-! ## A trigger that falls due (R414, R415) -/

theorem fireTrigger_holds {x : Rood} (open_rood : x.fenced = false) (waits : x.ckpBusy = true ∨ x.ckpPending = true) (ctx : Ctx)
    (t : Bool × W64) : x.fireTrigger ctx t = x.holdTrigger t := by
  have busy : (x.ckpBusy || x.ckpPending) = true := by simpa using waits
  simp only [Rood.fireTrigger, open_rood, busy, Bool.true_or, if_true, Bool.false_eq_true, if_false]

/-- The rood in which a trigger of the interval timer has become a command. -/
def Rood.triggered (ctl : W64) (x : Rood) : Rood :=
  ({ x with
    nextCmd := x.nextCmd + 1, cmds := x.cmds ++ [x.timerCmd ctl], ckp := { x.ckp with trigger := none, steps := 0 } } : Rood).modCring
      (x.timerCmd ctl).cring (fun r => { r with reserved := r.reserved + 1 })

theorem fireTrigger_takes {x : Rood} {ctl : W64} {ctx : Ctx} {q : CRing} (open_rood : x.fenced = false) (idle : x.ckpBusy = false)
    (none_pending : x.ckpPending = false) (sound : ctx.dev.integ.recovery = false) (own : bitsOf ctl.toNat 4 2 = 0)
    (ring : x.crings[bitsOf ctl.toNat 0 3]? = some q) (free : q.canReserve = true) (room : x.roomFor x.copyNeeds = true) :
    x.fireTrigger ctx (true, ctl) = (x.triggered ctl).runTake ctx ctl (x.timerCmd ctl) := by
  have here : x.crings[(x.timerCmd ctl).cring]? = some q := ring
  have passes := timerCmd_passes ctl x own ctx
  unfold Rood.fireTrigger
  dsimp only
  rw [if_neg (by simp [open_rood])]
  change (if _ || _ || _ || !((x.crings[(x.timerCmd ctl).cring]?).any CRing.canReserve) || _ then _ else
    if (x.timerCmd ctl).ckpCheck ctx ≠ 0 then _ else (x.triggered ctl).runTake ctx ctl (x.timerCmd ctl)) = _
  rw [if_neg (by simp [idle, none_pending, sound, here, free, room]), if_neg (by simp [passes])]

/-- A trigger that takes effect cuts a checkpoint for its command. -/
theorem fireTrigger_cuts {x : Rood} {ctl : W64} {ctx : Ctx} {q : CRing} (open_rood : x.fenced = false) (idle : x.ckpBusy = false)
    (none_pending : x.ckpPending = false) (sound : ctx.dev.integ.recovery = false) (own : bitsOf ctl.toNat 4 2 = 0)
    (ring : x.crings[bitsOf ctl.toNat 0 3]? = some q) (free : q.canReserve = true) (room : x.roomFor x.copyNeeds = true) :
    ∃ u, Cuts ctx.time (x.timerCmd ctl) (x.triggered ctl) (x.fireTrigger ctx (true, ctl)) u := by
  obtain ⟨-, -, -, target, -⟩ := timerCmd_fields ctl x own
  have fits : (x.triggered ctl).roomFor (x.triggered ctl).copyNeeds = true := room
  rw [fireTrigger_takes open_rood idle none_pending sound own ring free room]
  exact runTake_cuts target fits ctx ctl

/-- The command of the trigger is among those of the rood that it cuts. -/
theorem timerCmd_mem {now : W64} {ctl : W64} {x y : Rood} {u : CkpRun} (cuts : Cuts now (x.timerCmd ctl) (x.triggered ctl) y u) :
    x.timerCmd ctl ∈ y.cmds := by
  rw [cuts.cmds]
  exact List.mem_map.mpr ⟨x.timerCmd ctl, List.mem_append_right _ (List.mem_singleton.mpr rfl), if_pos (beq_self_eq_true _)⟩

/-! ## CKP_INTERVAL_TIMER (R415) -/

section
variable {r : Nat} {s : State} {x : Rood} (hw : Works s r x)
include hw

theorem ckpIntervalTimer_off (off : bitsOf x.regs.ckpCtl.toNat 7 1 = 0 ∨ bitsOf x.regs.ckpCtl.toNat 32 32 = 0) :
    ∃ t, exec (.ckpIntervalTimer r) s = .next t ∧ Becomes t r x x := by
  refine ⟨_, rfl, onRood_becomes_of hw (if_neg ?_)⟩
  rintro ⟨enabled, interval⟩
  rcases off with disabled | none_set
  · exact absurd (disabled.symm.trans enabled) (by decide)
  · exact interval none_set

variable (enabled : bitsOf x.regs.ckpCtl.toNat 7 1 = 1) (interval : bitsOf x.regs.ckpCtl.toNat 32 32 ≠ 0)
include enabled interval

theorem ckpIntervalTimer_fires :
    ∃ t, exec (.ckpIntervalTimer r) s = .next t ∧
      Becomes t r x ((x.fireTrigger (ctxOf s) (true, x.regs.ckpCtl)).pump s.clock.time) :=
  ⟨_, rfl, onRood_becomes_of hw (if_pos ⟨enabled, interval⟩)⟩

theorem ckpIntervalTimer_holds (posted : NonePosted x) (open_rood : x.fenced = false)
    (waits : x.ckpBusy = true ∨ x.ckpPending = true) :
    ∃ t, exec (.ckpIntervalTimer r) s = .next t ∧ Becomes t r x (x.holdTrigger (true, x.regs.ckpCtl)) := by
  obtain ⟨t, run, becomes⟩ := ckpIntervalTimer_fires hw enabled interval
  have still : NonePosted (x.holdTrigger (true, x.regs.ckpCtl)) := posted
  rw [fireTrigger_holds open_rood waits, pump_nonePosted still] at becomes
  exact ⟨t, run, becomes⟩

end

/-- Settles O43: the timer's trigger is held behind a checkpoint command, or cuts a checkpoint of its own. -/
theorem triggersCutCheckpoints : Obligations.TriggersCutCheckpoints := by
  unfold Obligations.TriggersCutCheckpoints
  intro r s x hw posted
  refine ⟨ckpIntervalTimer_off hw, fun enabled interval => ckpIntervalTimer_holds hw enabled interval posted,
    fun q enabled interval own open_rood idle none_pending sound ring free room => ?_⟩
  obtain ⟨u, cuts⟩ := fireTrigger_cuts (ctx := ctxOf s) open_rood idle none_pending sound own ring free room
  obtain ⟨t, run, becomes⟩ := ckpIntervalTimer_fires hw enabled interval
  rw [cuts.pump posted] at becomes
  obtain ⟨opcode, handle, tag, -, -⟩ := timerCmd_fields x.regs.ckpCtl x own
  exact ⟨t, _, x.timerCmd x.regs.ckpCtl, u, run, becomes, rfl, opcode, handle, tag, rfl, timerCmd_mem cuts, cuts.nextCmd,
    by rw [cuts.ckp], cuts.cmd, cuts.seq, by rw [cuts.ckp]; rfl, by rw [cuts.ckp]; rfl, cuts.slots, cuts.host⟩

end Sys2Proof.Machine
end

section
/-! PROOF. CKP_RESTORE in its turn, and the end of the wait for inventories (R426 to R428). -/
namespace Sys2Proof.Machine
open Sys2Proof

/-! ## A restore without shards (R428) -/

theorem choose_empty {u : RestoreRun} (none_found : u.items = []) (shape : List Byte) (want : Nat) :
    u.choose shape want = (stIncomplete, none) := by
  have unchained : ∀ k, u.chain shape k = none := fun k => by
    simp [RestoreRun.chain, none_found, chainOf, completeSeq, countedOf, leastItem]
  rw [RestoreRun.choose, if_neg (by simp [none_found])]
  simp [unchained]

/-- A restore that finds no shard and awaits none ends. -/
theorem restoreOn_empty {y : Rood} {u : RestoreRun} {d : Cmd} (rests : RestsBetween y) (cmd : y.cmd? u.cmd = some d)
    (answered : u.waiting = []) (fetched : u.fetching = []) (none_found : u.items = []) (ctx : Ctx) :
    y.restoreOn ctx u = (y.unrestored.complete ctx.time d (u.endRecord d stIncomplete)).pump ctx.time := by
  have named : (y.setRestore u).cmd? u.cmd = some d := cmd
  unfold Rood.restoreOn
  rw [if_neg (by simp [answered, fetched]), cmd]
  dsimp only
  rw [restoreGo_ends (choose_empty none_found _ _), endRestore_completes ((setRestore_side u y).rests rests) named]
  rfl

/-! ## CKP_RESTORE (R426, R427) -/

/-- The run of a restore as it begins. -/
def RestoreRun.begun (d : Cmd) : RestoreRun :=
  { cmd := d.id, source := d.ckpTarget, waiting := [], lists := [], items := [], chosen := 0, tried := [], more := [], fetching := []
    parts := [], bad := [], resFrames := 0, resLines := [], resExts := 0 }

/-- A command that has begun to run, and the rood that runs it. -/
def Cmd.started (d : Cmd) : Cmd := { d with stage := .running }
def Rood.runsCmd (d : Cmd) (x : Rood) : Rood := x.setCmd d.started

/-- One inventory asked for after others, for rood `z`: the rood that asks, and each device with the operation of its request. -/
def Rood.askInventory (ctx : Ctx) (z : Rood) (q : Rood × List (Nat × Nat)) (p : Nat) : Rood × List (Nat × Nat) :=
  let o := q.1.newOp ctx
  (o.2.sendChain p 0x25 z.ckpRood o.1 (leBytes 8 z.regs.lineage.toNat), q.2 ++ [(p, o.1)])

theorem foldl_askInventory (ctx : Ctx) (z : Rood) (l : List Nat) (q : Rood × List (Nat × Nat)) :
    Speaks q.1 (l.foldl (Rood.askInventory ctx z) q).1 ∧
      (l.foldl (Rood.askInventory ctx z) q).2.map (fun w => w.1) = q.2.map (fun w => w.1) ++ l := by
  induction l generalizing q with
  | nil => exact ⟨.refl _, by simp⟩
  | cons p l ih =>
    obtain ⟨later, devices⟩ := ih (Rood.askInventory ctx z q p)
    have numbered : Speaks q.1 (q.1.newOp ctx).2 := ⟨⟨0, _, rfl⟩, fun _ h => List.mem_cons_of_mem _ h⟩
    exact ⟨(numbered.trans (sendChain_speaks _ _ _ _ _ _)).trans later, devices.trans (by simp [Rood.askInventory])⟩

theorem runsCmd_cmd? {x : Rood} {d : Cmd} {c : Nat} (cmd : x.cmd? c = some d) :
    (x.runsCmd d).cmd? d.id = some d.started := by
  obtain rfl : d.id = c := cmd?_id cmd
  have numbered : ((fun k => k.id == d.id) ∘ fun k => if k.id == d.id then d.started else k) =
      fun (k : Cmd) => k.id == d.id := by
    funext k
    by_cases same : k.id = d.id
    · simp [same, Cmd.started]
    · simp [same]
  unfold Rood.cmd? at cmd ⊢
  show (x.cmds.map (fun k => if k.id == d.id then d.started else k)).find? _ = _
  rw [List.find?_map, numbered, cmd, Option.map_some, if_pos (beq_self_eq_true _)]

/-- A command that completes leaves nothing of the stage that it had. -/
theorem complete_runsCmd (now : W64) (d : Cmd) (k : CRec) (x : Rood) :
    (x.runsCmd d).complete now d.started k = x.complete now d k := by
  have gone : (x.runsCmd d).cmds.filter (fun k => k.id != d.id) = x.cmds.filter (fun k => k.id != d.id) := by
    unfold Rood.runsCmd Rood.setCmd
    induction x.cmds with
    | nil => rfl
    | cons k l ih =>
      by_cases same : k.id = d.id
      · simpa [same, Cmd.started] using ih
      · simpa [same, Cmd.started] using ih
  unfold Rood.complete
  show ({ x.runsCmd d with cmds := (x.runsCmd d).cmds.filter (fun k => k.id != d.id) } : Rood).writeRecord now d.cring k.tidy = _
  rw [gone]
  rfl

theorem runCkp_restore {x : Rood} {d : Cmd} (op : d.opcode = 0x31) (ctx : Ctx) : x.runCkp ctx d = x.runRestore ctx d := by
  rw [Rood.runCkp, if_neg (by rw [op]; decide)]

section
variable {x : Rood} {d : Cmd} {ctx : Ctx}

theorem runRestore_blocked (blocked : x.restoreBlocked = true) : x.runRestore ctx d = x.fail ctx.time d stBadState := by
  rw [Rood.runRestore, if_pos (by simp [blocked])]

variable (free : x.restoreBlocked = false)
include free

theorem runRestore_own (own : d.ckpTarget = 0) (bare : x.flash = []) :
    x.runRestore ctx d = (x.runsCmd d).restoreOn ctx (.begun d) := by
  have none_held : (x.runsCmd d).ownShards ctx x.regs.lineage = [] := by
    have empty : (x.runsCmd d).flash = [] := bare
    simp [Rood.ownShards, empty]
  unfold Rood.runRestore
  rw [if_neg (by simp [free, own]), if_pos own]
  show (x.runsCmd d).restoreOn ctx { RestoreRun.begun d with
    items := ((x.runsCmd d).ownShards ctx x.regs.lineage).map (fun h => { hdr := h, peer := 32 }) } = _
  rw [none_held]
  rfl

theorem runRestore_chain (chain : d.ckpTarget = 1) (peers : x.peersOk ctx = true) :
    x.runRestore ctx d =
      let q := x.ckpDevices.foldl (Rood.askInventory ctx (x.runsCmd d)) (x.runsCmd d, [])
      q.1.setRestore { RestoreRun.begun d with waiting := q.2 } := by
  unfold Rood.runRestore
  rw [if_neg (by simp [free, peers]), if_neg (by simp [chain])]
  rfl

end

section
variable {r c : Nat} {s : State} {x : Rood} {d : Cmd} {q : CRing} {w : Wear} (hw : Works s r x) (report : CanReport x d q)
  (accepted : Accepted x c 0x31 d) (next : x.unjudgedBefore [0x30, 0x31] d = false) (passes : d.ckpCheck (ctxOf s) = 0)
  (idle : x.ckpBusy = false)
include hw accepted next passes idle

theorem ckpRestore_runs :
    ∃ t, exec (.ckpRestore r ⟨c, w⟩) s = .next t ∧ Becomes t r x ((x.runRestore (ctxWorn w s) d).pump s.clock.time) := by
  have becomes := onFlash_becomes hw w (fun ctx x => x.onNext c [0x31] [0x30, 0x31] (fun d x => x.judgeCkp ctx d))
  have worn : d.ckpCheck (ctxWorn w s) = 0 := passes
  rw [onNext_accepted accepted, next, if_neg Bool.false_ne_true, judgeCkp_runs worn idle] at becomes
  obtain ⟨-, op, -⟩ := accepted
  rw [runCkp_restore op] at becomes
  exact ⟨_, rfl, becomes⟩

include report

theorem ckpRestore_blocked (blocked : x.restoreBlocked = true) :
    ∃ t, exec (.ckpRestore r ⟨c, w⟩) s = .next t ∧ Ends t r x x d q (d.record stBadState) := by
  obtain ⟨t, run, becomes⟩ := ckpRestore_runs (w := w) hw accepted next passes idle
  rw [runRestore_blocked blocked] at becomes
  exact ⟨t, run, ends_of_fail becomes report⟩

/-- A restore from a share that holds nothing ends at once. -/
theorem ckpRestore_incomplete (free : x.restoreBlocked = false) (own : d.ckpTarget = 0) (bare : x.flash = [])
    (queue : x.vecQueue = []) (none_runs : x.ckp.restore = none) (held : StepsHeld x) :
    ∃ t, exec (.ckpRestore r ⟨c, w⟩) s = .next t ∧ Ends t r x x d q (d.record stIncomplete) := by
  obtain ⟨t, run, becomes⟩ := ckpRestore_runs (w := w) hw accepted next passes idle
  obtain ⟨cmd, -, -⟩ := accepted
  have rests : RestsBetween (x.runsCmd d) := ⟨held, queue⟩
  have stays : (x.runsCmd d).unrestored = x.runsCmd d := by
    show x.unrestored.runsCmd d = _
    rw [Rood.unrestored, ← none_runs]
  have posted : NonePosted (x.complete (ctxWorn w s).time d ((RestoreRun.begun d).endRecord d.started stIncomplete)) :=
    report.posted.of_irings (RecordSide.complete _ _ _ _).irings
  rw [runRestore_own free own bare, restoreOn_empty rests (runsCmd_cmd? cmd) rfl rfl rfl, stays, complete_runsCmd] at becomes
  rw [pump_nonePosted posted] at becomes
  have ends := ends_of_completed (f := x.fx) becomes report rfl
  exact ⟨t, run, ends⟩

/-- A restore from the chain awaits the inventory of every device of PEERS. -/
theorem ckpRestore_asks (free : x.restoreBlocked = false) (chain : d.ckpTarget = 1) (peers : x.peersOk (ctxOf s) = true) :
    ∃ t y u, exec (.ckpRestore r ⟨c, w⟩) s = .next t ∧ Becomes t r x y ∧ y.ckp.restore = some u ∧ u.cmd = d.id ∧
      u.waiting.map (fun w => w.1) = x.ckpDevices ∧ u.items = [] ∧ y.slots = x.slots ∧ y.kv = x.kv ∧ y.vecs = x.vecs ∧
      y.cmds = x.cmds.map (fun k => if k.id == d.id then { d with stage := .running } else k) := by
  obtain ⟨t, run, becomes⟩ := ckpRestore_runs (w := w) hw accepted next passes idle
  have worn : x.peersOk (ctxWorn w s) = true := peers
  rw [runRestore_chain free chain worn] at becomes
  obtain ⟨⟨⟨n, f, asks⟩, -⟩, devices⟩ := foldl_askInventory (ctxWorn w s) (x.runsCmd d) x.ckpDevices (x.runsCmd d, [])
  dsimp only at becomes asks
  generalize x.ckpDevices.foldl (Rood.askInventory (ctxWorn w s) (x.runsCmd d)) (x.runsCmd d, []) = a at becomes asks devices
  have still : NonePosted ((((x.runsCmd d).sent n).asking f).setRestore { RestoreRun.begun d with waiting := a.2 }) := report.posted
  rw [asks, pump_nonePosted still] at becomes
  exact ⟨t, _, _, run, becomes, rfl, rfl, devices, rfl, rfl, rfl, rfl, rfl⟩

end

/-! ## CKP_PEER_TIMEOUT (R427) -/

theorem restoreTimeout_goesOn {x : Rood} {u : RestoreRun} (run : x.ckp.restore = some u) (waits : u.waiting ≠ []) (ctx : Ctx) :
    x.restoreTimeout ctx = x.restoreOn ctx { u with waiting := [] } := by
  have awaited : u.waiting.isEmpty = false := by simpa using waits
  have peers : ¬ ((u.waiting.filter (fun _ => true)).map (fun w => w.1)).isEmpty = true := by simpa using waits
  have none_left : u.waiting.filter (fun _ => !true) = [] := by simp
  unfold Rood.restoreTimeout
  simp only [run, awaited, Bool.false_eq_true, if_false]
  unfold Rood.takeInventory
  simp only [run]
  rw [if_neg peers, none_left]
  simp

theorem ckpPeerTimeout_ends {r : Nat} {s : State} {x : Rood} {d : Cmd} {q : CRing} {u : RestoreRun} (hw : Works s r x)
    (report : CanReport x d q) (run : x.ckp.restore = some u) (cmd : x.cmd? u.cmd = some d) (waits : u.waiting ≠ [])
    (none_found : u.items = []) (fetched : u.fetching = []) (rests : RestsBetween x) :
    ∃ t, exec (.ckpPeerTimeout r) s = .next t ∧ Ends t r x x.unrestored d q (d.record stIncomplete) := by
  have becomes := onRood_becomes hw (fun ctx x => x.restoreTimeout ctx)
  rw [restoreTimeout_goesOn run waits,
    restoreOn_empty (u := { u with waiting := [] }) rests cmd rfl fetched none_found] at becomes
  have ends := ends_of_completed (z := x.unrestored) (f := x.fx) becomes report rfl
  exact ⟨_, rfl, ends⟩

end Sys2Proof.Machine
end

section
/-! PROOF. A restore that takes effect (R128, R401, R430, R431, R508): what it replaces, and the slots and records that it leaves; and
with it obligation O44. -/
namespace Sys2Proof.Machine
open Sys2Proof

/-! ## What a restore may replace -/

/-- Only sessions, stores, indexes, flash objects, the carried tally, checkpoints and requests differ. -/
def Replaces (x y : Rood) : Prop :=
  y = { x with
    slots := y.slots, baseGen := y.baseGen, freeLists := y.freeLists, kv := y.kv, vecs := y.vecs, ckp := y.ckp, flash := y.flash
    nextObj := y.nextObj, nextChan := y.nextChan, freedExts := y.freedExts, carried := y.carried, fx := y.fx }

theorem Replaces.refl (x : Rood) : Replaces x x := rfl

theorem Replaces.trans {x y z : Rood} (h : Replaces x y) (k : Replaces y z) : Replaces x z := by
  unfold Replaces at *
  rw [k, h]

theorem Replaces.foldl {α : Type} {f : Rood → α → Rood} (h : ∀ y a, Replaces y (f y a)) (l : List α) (x : Rood) :
    Replaces x (l.foldl f x) :=
  List.foldlRecOn l f (motive := Replaces x) (.refl x) (fun y hy a _ => hy.trans (h y a))

section
variable {x y : Rood} (h : Replaces x y)
include h

theorem Replaces.cmds : y.cmds = x.cmds := by rw [h]
theorem Replaces.host : y.host = x.host := by rw [h]
theorem Replaces.width : y.width = x.width := by rw [h]

theorem Replaces.rests (rests : RestsBetween x) : RestsBetween y := by
  rw [h]
  exact rests

theorem Replaces.canReport {d : Cmd} {q : CRing} (report : CanReport x d q) : CanReport y d q := by
  rw [h]
  exact report

theorem Replaces.cmd? {c : Nat} {d : Cmd} (cmd : x.cmd? c = some d) : y.cmd? c = some d := by
  rw [h]
  exact cmd

end

/-! ## The state beside the present one (R430, R431) -/

theorem ask_replaces (f : Fx) (x : Rood) : Replaces x (x.ask f) := rfl

theorem setKv_replaces (k : Kv) (x : Rood) : Replaces x { x with kv := k } := rfl

theorem asking_replaces {x y : Rood} {f : List Fx} (h : y = x.asking f) : Replaces x y := by rw [h]; rfl

theorem writeObject_replaces {ctx : Ctx} {kind : ObjKind} {bs : List Byte} {x y : Rood} (written : x.writeObject ctx kind bs = some y) :
    Replaces x y := by
  unfold Rood.writeObject at written
  split at written
  · cases written
  · split at written
    · cases written
    · next es failed _ =>
      obtain rfl := Option.some.inj written
      have programmed : Replaces x (es.foldl (fun x e => x.ask (.programmed e.chan e.lun e.block)) x) :=
        .foldl (fun _ _ => ask_replaces _ _) es x
      have retired := programmed.trans (.foldl (fun y (b : Block) => ask_replaces (.retire b.chan b.lun b.block) y) failed _)
      refine retired.trans (Replaces.trans ?_ (asking_replaces (count_asking _ _ _)))
      rfl

theorem session_replaces {ctx : Ctx} {lean : Bool} {b : Rebuilt} {slot : Nat} {s : RecSession} {a a' : Restoring}
    (restored : a.session ctx lean b slot s = some a') : Replaces a.x a'.x := by
  unfold Restoring.session at restored
  dsimp only at restored
  split at restored
  · obtain ⟨k, -, rfl⟩ := Option.map_eq_some_iff.mp restored
    exact .refl _
  · obtain ⟨y, written, rfl⟩ := Option.map_eq_some_iff.mp restored
    exact writeObject_replaces written
  · obtain rfl := Option.some.inj restored
    exact .refl _

/-- Sessions restored one after another, where each can be. -/
theorem foldl_session_replaces {ctx : Ctx} {lean : Bool} {b : Rebuilt} {l : List (Nat × RecSession)} {a₀ : Restoring} :
    ∀ a : Restoring, l.foldl (fun r s => r.bind (Restoring.session ctx lean b s.1 s.2)) (some a₀) = some a → Replaces a₀.x a.x := by
  refine List.foldlRecOn l _ (motive := fun r => ∀ a : Restoring, r = some a → Replaces a₀.x a.x) ?_ (fun r ih s _ a found => ?_)
  · intro a first
    obtain rfl := Option.some.inj first
    exact .refl _
  · obtain ⟨a', before, restored⟩ := Option.bind_eq_some_iff.mp found
    exact (ih a' before).trans (session_replaces restored)

theorem foldl_setKv_x {α β : Type} (k : Restoring × List β → α → Kv) (g : Restoring × List β → α → List β) (l : List α)
    (a : Restoring × List β) : (l.foldl (fun a v => ({ a.1 with kv := k a v }, g a v)) a).1.x = a.1.x := by
  induction l generalizing a with
  | nil => rfl
  | cons v l ih => rw [List.foldl_cons, ih]

/-- An index restored after others. -/
theorem foldl_restoreVec_replaces (w : Nat) (l : List (Nat × RecVec)) (a : Restoring × List VecIndex) :
    (l.foldl (fun (a : Restoring × List VecIndex) v =>
      ({ a.1 with kv := (Kv.restoreVec w v.1 v.2 a.1.kv).2 }, a.2 ++ [(Kv.restoreVec w v.1 v.2 a.1.kv).1])) a).1.x = a.1.x :=
  foldl_setKv_x (fun a v => (Kv.restoreVec w v.1 v.2 a.1.kv).2) (fun a v => a.2 ++ [(Kv.restoreVec w v.1 v.2 a.1.kv).1]) l a

theorem rebuildBeside_replaces {ctx : Ctx} {lean : Bool} {b : Rebuilt} {x : Rood} {a : Restoring} {vs : List VecIndex}
    (rebuilt : x.rebuildBeside ctx lean b = some (a, vs)) : Replaces x a.x := by
  obtain ⟨q, sessions, found⟩ := Option.map_eq_some_iff.mp rebuilt
  have same : a.x = q.x := by
    rw [← congrArg (fun r : Restoring × List VecIndex => r.1.x) found]
    exact foldl_restoreVec_replaces x.width b.vectors (q, [])
  rw [same]
  exact foldl_session_replaces q sessions

/-! ## The state that goes (R247, R384) -/

theorem freeObject_replaces (id : Nat) (x : Rood) : Replaces x (x.freeObject id) := by
  unfold Rood.freeObject
  split
  · rfl
  · exact .refl x

theorem freeKv_replaces (slot : Nat) (e : Entry) (x : Rood) : Replaces x (x.freeKv slot e) := by
  rw [freeKv_only]
  rfl

theorem dropVec_replaces (v : VecIndex) (x : Rood) : Replaces x (x.dropVec v) := rfl

theorem dropAll_replaces (x : Rood) : Replaces x x.dropAll := by
  have slots : ∀ (y : Rood) (s : Nat × Slot), Replaces y (match s.2.entry with
      | some e => (if e.bushel = 0 then y else y.freeObject e.bushel).freeKv s.1 e
      | none => y.labDrop s.1) := fun y s => by
    split
    · split
      · exact freeKv_replaces _ _ _
      · exact (freeObject_replaces _ _).trans (freeKv_replaces _ _ _)
    · rfl
  exact ((Replaces.foldl slots x.slots x).trans (.foldl (fun y v => dropVec_replaces v y) _ _)).trans rfl

theorem replaceAll_replaces (b : Rebuilt) (a : Restoring) (x : Rood) : Replaces x (x.replaceAll b a) := rfl

/-! ## The state that comes (R128, R401, R430, R508) -/

/-- The slot of a FREE session once a rood has been restored (R128). -/
def Rebuilt.freeSlot (b : Rebuilt) (i : Nat) : Slot := { gen := restoredGen b i, entry := none, taken := false }

theorem lookKey_foldl_put {β : Type} {k : Nat} (f : Nat → β) {l : List Nat} (absent : k ∉ l) (m : List (Nat × β)) :
    lookKey k (l.foldl (fun m i => putKey i (f i) m) m) = lookKey k m :=
  List.foldlRecOn l _ (motive := fun n => lookKey k n = lookKey k m) rfl (fun _ h i mem =>
    (lookKey_putKey_other (fun same : k = i => absent (same.symm ▸ mem)) _ _).trans h)

theorem lookKey_foldl_put_mem {β : Type} {k : Nat} (f : Nat → β) {l : List Nat} (mem : k ∈ l) (m : List (Nat × β)) :
    lookKey k (l.foldl (fun m i => putKey i (f i) m) m) = some (f k) := by
  induction l generalizing m with
  | nil => cases mem
  | cons i l ih =>
    by_cases later : k ∈ l
    · exact ih later _
    · obtain rfl : k = i := (List.mem_cons.mp mem).resolve_right later
      exact (lookKey_foldl_put f later _).trans (lookKey_putKey_same _ _ _)

section
variable {b : Rebuilt} {a : Restoring} {i : Nat} (x : Rood)

/-- A slot that the checkpoint records takes what it records. -/
theorem replaceAll_recorded {e : Slot} (recorded : lookKey i a.slots = some e) : (x.replaceAll b a).slot i = e := by
  have kept : lookKey i (x.replaceAll b a).slots = some e := by
    refine (lookKey_foldl_put b.freeSlot (fun free => ?_) a.slots).trans recorded
    simp [recorded] at free
  rw [Rood.slot, kept, Option.getD_some]

/-- Every other slot is FREE, with its recorded generation advanced once. -/
theorem replaceAll_free (lo : i < x.slotCap) (unrecorded : lookKey i a.slots = none) : (x.replaceAll b a).slot i = b.freeSlot i := by
  by_cases base : restoredGen b i = restoredGen b (x.slotCap - 1)
  · have absent : lookKey i (x.replaceAll b a).slots = none := by
      refine (lookKey_foldl_put b.freeSlot (fun free => ?_) a.slots).trans unrecorded
      simp [base] at free
    rw [Rood.slot, absent, Option.getD_none, Rebuilt.freeSlot, base]
    rfl
  · have put : lookKey i (x.replaceAll b a).slots = some (b.freeSlot i) :=
      lookKey_foldl_put_mem b.freeSlot (by simp [lo, unrecorded, base]) a.slots
    rw [Rood.slot, put, Option.getD_some]

end

/-- The highest sequence number that the inventory of a restore found. -/
def RestoreRun.highest (u : RestoreRun) : Nat := (u.items.map (fun i => i.hdr.seq)).foldl max 0

/-- The rood once a restore has replaced what it replaces. -/
def Rood.restored (u : RestoreRun) (b : Rebuilt) (a : Restoring) (vs : List VecIndex) : Rood :=
  let y := ({ a.x with kv := a.kv } : Rood).dropAll.replaceAll b a
  { y with vecs := vs, ckp := { y.ckp with nextSeq := u.highest + 1 } }

/-- The indexes, the tally and the lineage's numbers of a rood once a restore has ended. -/
theorem restored_fields (u : RestoreRun) (b : Rebuilt) (a : Restoring) (vs : List VecIndex) :
    let z := (Rood.restored u b a vs).unrestored
    z.vecs = vs ∧ z.ckp.restore = none ∧ z.ckp.ref = none ∧ z.ckp.nextSeq = u.highest + 1 ∧
      z.carried = some { readTally b.tally with carried := true } := by
  unfold Rood.restored
  generalize ({ a.x with kv := a.kv } : Rood).dropAll = y
  exact ⟨rfl, rfl, rfl, rfl, rfl⟩

theorem restored_slot (u : RestoreRun) (b : Rebuilt) (a : Restoring) (vs : List VecIndex) (i : Nat) :
    (Rood.restored u b a vs).unrestored.slot i = (({ a.x with kv := a.kv } : Rood).dropAll.replaceAll b a).slot i := by
  unfold Rood.restored
  generalize ({ a.x with kv := a.kv } : Rood).dropAll = y
  rfl

theorem restored_replaces {x : Rood} {a : Restoring} (beside : Replaces x a.x) (u : RestoreRun) (b : Rebuilt) (vs : List VecIndex) :
    Replaces x (Rood.restored u b a vs) := by
  have dropped : Replaces x ({ a.x with kv := a.kv } : Rood).dropAll := (beside.trans (setKv_replaces _ _)).trans (dropAll_replaces _)
  exact (dropped.trans (replaceAll_replaces b a _)).trans rfl

/-! ## CKP_RESTORE_APPLY (R430) -/

theorem endArrivals_none {x : Rood} (none_arrive : x.arrivals = []) : x.endArrivals = x := by
  rw [Rood.endArrivals, none_arrive, List.foldl_nil, ← none_arrive]

theorem applyRestore_replaces {x : Rood} {u : RestoreRun} {b : Rebuilt} {lean : Bool} {ctx : Ctx} {a : Restoring} {vs : List VecIndex}
    (none_arrive : x.arrivals = []) (rebuilt : x.rebuildBeside ctx lean b = some (a, vs)) :
    x.applyRestore ctx u b lean = (Rood.restored u b a vs).endRestore ctx u stOk := by
  unfold Rood.applyRestore
  rw [endArrivals_none none_arrive]
  dsimp only
  rw [rebuilt]
  rfl

/-- A restore as it takes effect, with nothing reserved for it any more. -/
def RestoreRun.released (u : RestoreRun) : RestoreRun := { u with resFrames := 0, resLines := [], resExts := 0 }

theorem restored_released (u : RestoreRun) (b : Rebuilt) (a : Restoring) (vs : List VecIndex) :
    Rood.restored u.released b a vs = Rood.restored u b a vs := rfl

section
variable {r : Nat} {s : State} {x : Rood} {d : Cmd} {q : CRing} {u : RestoreRun} {seqs : List Nat} {b : Rebuilt}
  (hw : Works s r x) (run : x.ckp.restore = some u) (cmd : x.cmd? u.cmd = some d)
  (chain : (u.chain (x.shape (ctxOf s)) u.chosen).getD [] = seqs) (rebuilds : u.rebuild seqs = .ok b)
include hw run cmd chain rebuilds

theorem ckpRestoreApply_waits (steps : x.betweenSteps = false) : ∃ t, exec (.ckpRestoreApply r) s = .next t ∧ Becomes t r x x := by
  refine ⟨_, rfl, onRood_becomes_of hw ?_⟩
  unfold Rood.restoreApply
  simp only [run, cmd, chain, rebuilds, steps, Bool.and_false, Bool.false_eq_true, if_false]

theorem ckpRestoreApply_ends (report : CanReport x d q) (ready : d.stage = .ready) (steps : x.betweenSteps = true)
    (none_arrive : x.arrivals = []) (rests : RestsBetween x) {a : Restoring} {vs : List VecIndex}
    (rebuilt : (x.setRestore u.released).rebuildBeside (ctxOf s) (u.leanChain seqs) b = some (a, vs)) :
    ∃ t, exec (.ckpRestoreApply r) s = .next t ∧
      Ends t r x (Rood.restored u b a vs).unrestored d q { d.record stOk with result := [0, 0, u.chosen % 2 ^ 32, u.chosen / 2 ^ 32] } := by
  have replaced : Replaces x (Rood.restored u b a vs) :=
    restored_replaces (Replaces.trans (y := x.setRestore u.released) rfl (rebuildBeside_replaces rebuilt)) u b vs
  have becomes := onRood_becomes hw (fun ctx x => x.restoreApply ctx)
  have applies : x.restoreApply (ctxOf s) = (x.setRestore u.released).applyRestore (ctxOf s) u.released b (u.leanChain seqs) := by
    unfold Rood.restoreApply
    simp only [run, cmd, chain, rebuilds, ready, steps, decide_true, Bool.and_true, if_true]
    rfl
  rw [applies, applyRestore_replaces (x := x.setRestore u.released) none_arrive rebuilt, restored_released,
    endRestore_completes (u := u.released) (replaced.rests rests) (replaced.cmd? cmd)] at becomes
  have gone : Replaces x (Rood.restored u b a vs).unrestored := replaced.trans rfl
  rw [← tidy_ok]
  exact ⟨_, rfl, ends_of_completed (z := (Rood.restored u b a vs).unrestored) becomes (gone.canReport report) rfl⟩

end

/-- Settles O44: a restore is refused, comes to nothing or asks its peers as its rood stands, and one that takes effect leaves what the
checkpoint recorded. -/
theorem restoresReplaceTheRood : Obligations.RestoresReplaceTheRood := by
  unfold Obligations.RestoresReplaceTheRood
  refine ⟨fun r c s x d q hw report cmd => ⟨fun w accepted next passes idle => ?begins, fun u run named waits none_found fetched queue held =>
    ?timeout⟩, fun r s x d q u b hw run cmd report => ?applies⟩
  case begins =>
    exact ⟨ckpRestore_blocked hw report accepted next passes idle,
      fun free own bare queue none_runs held => ckpRestore_incomplete hw report accepted next passes idle free own bare queue none_runs held,
      fun free chain peers => ckpRestore_asks hw report accepted next passes idle free chain peers⟩
  case timeout =>
    exact ckpPeerTimeout_ends hw report run (named ▸ cmd) waits none_found fetched ⟨held, queue⟩
  case applies =>
    intro seqs rebuilds
    refine ⟨ckpRestoreApply_waits hw run cmd rfl rebuilds, fun a vs ready steps none_arrive queue held rebuilt => ?_⟩
    have beside : Replaces x a.x := Replaces.trans (y := x.setRestore u.released) rfl (rebuildBeside_replaces rebuilt)
    have gone : Replaces x (Rood.restored u b a vs).unrestored := (restored_replaces beside u b vs).trans rfl
    obtain ⟨t, runs, ends⟩ := ckpRestoreApply_ends hw run cmd rfl rebuilds report ready steps none_arrive ⟨held, queue⟩ rebuilt
    have places : ({ a.x with kv := a.kv } : Rood).dropAll.slotCap = x.slotCap :=
      congrArg slotCount ((beside.trans (setKv_replaces _ _)).trans (dropAll_replaces { a.x with kv := a.kv })).width
    obtain ⟨vecs, restore, ref, nextSeq, carried⟩ := restored_fields u b a vs
    refine ⟨t, _, runs, gone.cmds, gone.host, ends, vecs, restore, ref, nextSeq, carried, fun i e recorded => ?_,
      fun i lo unrecorded => ?_⟩
    · rw [restored_slot, replaceAll_recorded _ recorded]
    · rw [restored_slot, replaceAll_free _ (places ▸ lo) unrecorded, Rebuilt.freeSlot, restoredGen]

end Sys2Proof.Machine
end
